-- ==== Sys2Proof/Word.lean ====
section
/-! DEFINITION. The word type of the console port: one byte (R195, R196). -/

namespace Sys2Proof

/-- One byte of the data register or of the status byte (R195, R196). -/
abbrev Byte := BitVec 8

end Sys2Proof
end

