-- ==== Sys2Proof/Syntax.lean ====
section
/-! DEFINITION. The names the manual gives to lines, channels, classes and states, the bodies of the
Desk Link's frames, the console commands with their arguments, and `Instr`: one constructor per row of
spec/opcode_table.json. -/

namespace Sys2Proof

/-- A line number 0–65,535 (R1). -/
abbrev Line := Fin 65536
/-- A block number 0–63 (R1). -/
abbrev Block := Fin 64
/-- A trunk number 0–15 (R5). -/
abbrev Trunk := Fin 16
/-- A station number; stations on the line are 1–15 (R75). -/
abbrev Station := Nat
/-- A ticket number 1–9,999 (R142). -/
abbrev TicketNo := Nat
/-- A sample count as given, 0–255 (R178). -/
abbrev SampleArg := Fin 256

/-- One of the part's two measuring paths. -/
inductive Channel | a | b
  deriving DecidableEq, Repr

/-- The part's other channel. -/
def Channel.other : Channel → Channel
  | .a => .b
  | .b => .a

/-- Why a session exists (R21). -/
inductive Purpose | operator | sweep | retest
  deriving DecidableEq, Repr

/-- A session begun by the Automatic Engine has purpose SWEEP or RETEST (R22). -/
def Purpose.automatic : Purpose → Bool
  | .operator => false
  | .sweep => true
  | .retest => true

/-- The six classes of R62, from worst to best; `openLine` is OPEN. -/
inductive FaultClass | foreignVoltage | short | ground | openLine | lowInsulation | pass
  deriving DecidableEq, Repr

/-- A class other than PASS is a failing class (R62). -/
def FaultClass.failing : FaultClass → Bool
  | .pass => false
  | .foreignVoltage => true
  | .short => true
  | .ground => true
  | .openLine => true
  | .lowInsulation => true

/-- A pair of conductors measured together: T-R, T-G, R-G. -/
inductive Leg | tr | tg | rg
  deriving DecidableEq, Repr

/-- The head's resistance range (3.1). -/
inductive Range | high | low
  deriving DecidableEq, Repr

/-- The component of a FOREIGN-VOLTAGE value (R63). -/
inductive Component | dc | ac
  deriving DecidableEq, Repr

/-- What decided a class: a leg, with its component for FOREIGN-VOLTAGE, or LENGTH (R63 to R65). -/
inductive DecidingLeg | leg (l : Leg) (c : Option Component) | length
  deriving DecidableEq, Repr

/-- The deciding leg and value (R65). -/
structure Deciding where
  leg : DecidingLeg
  value : Nat
  deriving DecidableEq, Repr

/-- The stages a measurement includes (R48). -/
structure StageSet where
  fv : Bool
  cap : Bool
  resTR : Bool
  resTG : Bool
  resRG : Bool
  deriving DecidableEq, Repr

/-- A stage set that names no stage is refused (R48, R179). -/
def StageSet.isEmpty (s : StageSet) : Bool :=
  !s.fv && !s.cap && !s.resTR && !s.resTG && !s.resRG

/-- The five link states (R87). -/
inductive LinkState | off | joining | active | mute | lost
  deriving DecidableEq, Repr

/-- The causes of LOST (R87). -/
inductive LostCause | stuck | unheard
  deriving DecidableEq, Repr

/-- A trunk's condition (R5). -/
inductive TrunkCondition | inService | suspect | out
  deriving DecidableEq, Repr

/-- A holder of a line or of a quiet: this part itself, or a station (R21, R128, R201). -/
inductive Holder | own | station (n : Station)
  deriving DecidableEq, Repr

/-- The ways the Line Watch works (R186). -/
inductive WatchOp | off | monitor | stopOnClaim | stopOnRequest
  deriving DecidableEq, Repr

/-- The source filters of the Line Watch (R187). -/
inductive WatchFilter | any | own | ownOperator | ownAutomatic | station (n : Station)
  deriving DecidableEq, Repr

/-- The reasons a HAND-REFUSE carries (R161). -/
inductive RefuseReason | full | duplicate | notActive
  deriving DecidableEq, Repr

/-! ### Frames of the Desk Link -/

/-- A line–trunk pair held by a station, with the purpose of its claim (R96). -/
structure Holding where
  line : Line
  trunk : Trunk
  purpose : Purpose
  deriving DecidableEq, Repr

/-- One entry of a TICKET-NOTE (R151). -/
structure NoteEntry where
  line : Line
  number : TicketNo
  isOpen : Bool
  cls : FaultClass
  deriving DecidableEq, Repr

/-- What a TICKET-ADD or HAND-OFFER carries of an observation: its class, deciding leg and value
(R146, R160). -/
structure ObsData where
  cls : FaultClass
  deciding : Option Deciding
  deriving DecidableEq, Repr

/-- The retest plan inside a HAND-OFFER: interval in minutes, remaining count, seconds until next due
(R160). -/
structure OfferPlan where
  interval : Nat
  remaining : Nat
  dueIn : Nat
  deriving DecidableEq, Repr

/-- The body of a HAND-OFFER (R160). -/
structure HandOffer where
  target : Station
  number : TicketNo
  line : Line
  cls : FaultClass
  age : Nat
  plan : Option OfferPlan
  obs : ObsData
  deriving DecidableEq, Repr

/-- The bodies of the 13 kinds of frame, in the order of the kinds table (R76). -/
inductive FrameBody
  | release (line : Line) (trunk : Trunk)
  | quietBusy (block : Block) (requester : Station)
  | quietClear (block : Block) (requester : Station)
  | quietEnd (block : Block)
  | claim (line : Line) (trunk : Trunk) (purpose : Purpose) (channel : Channel)
  | quiet (block : Block)
  | ticketNote (entries : List NoteEntry)
  | ticketAdd (owner : Station) (number : TicketNo) (line : Line) (obs : ObsData)
  | handOffer (offer : HandOffer)
  | handAccept (offering : Station) (offered : TicketNo) (newNumber : TicketNo)
  | handRefuse (offering : Station) (offered : TicketNo) (reason : RefuseReason)
  | trunkNotice (trunk : Trunk) (out : Bool)
  | presence (joining : Bool) (holdings : List Holding) (quiets : List Block)
  deriving DecidableEq, Repr

/-- The slots and the arbitration field at the end of a won attempt (R80): the two slots as the sender
reads them (dominant or not), or a dominant bit sent and read back recessive in the arbitration field. -/
inductive AttemptEnd
  | slots (heard : Bool) (objection : Bool)
  | arbitrationMismatch
  deriving DecidableEq, Repr

/-- The numbers of a head's answer; which of them the answer gives is the kind of the outstanding
request (R45). -/
structure HeadAnswer where
  sum : Int
  sumSquares : Nat
  peak : Nat
  time : Nat
  deriving DecidableEq, Repr

/-! ### Arguments of console commands. An identifier that is among none of the command's values is an
argument of its own (`none`, `other`), since the part refuses it BAD-ARGUMENT (R200). -/

/-- CONFIGURE's automatic channel: A or B, none, or a byte that is none of these (R208). -/
inductive AutoChannelArg | channel (c : Channel) | none | other
  deriving DecidableEq, Repr, Inhabited

/-- The seven constants of LOAD BLOCK's full form, in the order of R2, as given. -/
structure BlockConstants where
  rpc : Nat
  cpk : Nat
  setupWait : Nat
  operateWait : Nat
  releaseGuard : Nat
  minLength : Nat
  settlePerKm : Nat
  deriving DecidableEq, Repr

/-- The three forms of LOAD BLOCK (R3); trunk numbers as given. -/
inductive LoadBlockForm
  | full (trunks : List Nat) (constants : BlockConstants)
  | short (trunks : List Nat)
  | remove
  deriving DecidableEq, Repr

/-- The seven office thresholds in the order of R14. -/
structure Thresholds where
  rshort : Nat
  rground : Nat
  rinsul : Nat
  vdcLimit : Nat
  vacLimit : Nat
  longLoop : Nat
  sampleCount : Nat
  deriving DecidableEq, Repr

/-- The event mask: a set flag masks its class (R206). -/
structure Mask where
  session : Bool
  ticket : Bool
  automatic : Bool
  office : Bool
  deriving DecidableEq, Repr

/-- The five source filters by name (R186). -/
inductive FilterName | any | own | ownOperator | ownAutomatic | station
  deriving DecidableEq, Repr, Inhabited

/-- WATCH SET's filter argument: one of the five, STATION with the number given, or a byte that is
none of them (R193). -/
inductive FilterArg | any | own | ownOperator | ownAutomatic | station (n : Nat) | other
  deriving DecidableEq, Repr, Inhabited

/-- The console commands (11.3), by name: what a command byte names (R196). -/
inductive CommandName
  | configure | unlock | loadBlock | loadTrunk | setThresholds | setClock | trunkRestore
  | access | release | cancel | sessionRead | measure | resultRead | clearLinkStatus | rejoin
  | ticketOpen | ticketClose | ticketRetest | ticketRead | ticketList | ticketHandover
  | sweepStart | run | stop | step | continueRun | abort | watchSet | watchRead
  | takeEvent | statusDetail | setMask | softReset
  deriving DecidableEq, Repr

/-- A console command with its arguments as values (11.3). -/
inductive Request
  | configure (station : Nat) (auto : AutoChannelArg) (lock : Bool)
  | unlock
  | loadBlock (block : Nat) (form : LoadBlockForm)
  | loadTrunk (trunk rtrunk ctrunk : Nat)
  | setThresholds (t : Thresholds)
  | setClock (value : Nat)
  | trunkRestore (trunk : Nat)
  | access (channel : Option Channel) (line : Line) (force : Bool)
  | release (channel : Option Channel)
  | cancel (channel : Option Channel)
  | sessionRead (channel : Option Channel)
  | measure (channel : Option Channel) (stages : StageSet) (n : SampleArg) (ticket : Bool)
  | resultRead (channel : Option Channel)
  | clearLinkStatus
  | rejoin
  | ticketOpen (line : Line) (cls : Option FaultClass)
  | ticketClose (number : TicketNo)
  | ticketRetest (number : TicketNo) (interval count : Nat)
  | ticketRead (number : TicketNo)
  | ticketList (number : TicketNo)
  | ticketHandover (number : TicketNo) (station : Nat)
  | sweepStart (first last : Line) (stages : StageSet) (n : SampleArg)
  | run
  | stop
  | step
  | continueRun
  | abort
  | watchSet (op : Option WatchOp) (line : Line) (filter : FilterArg)
  | watchRead
  | takeEvent
  | statusDetail
  | setMask (mask : Mask)
  | softReset
  deriving DecidableEq, Repr, Inhabited

/-- The command a request gives. -/
def Request.name : Request → CommandName
  | .configure _ _ _ => .configure
  | .unlock => .unlock
  | .loadBlock _ _ => .loadBlock
  | .loadTrunk _ _ _ => .loadTrunk
  | .setThresholds _ => .setThresholds
  | .setClock _ => .setClock
  | .trunkRestore _ => .trunkRestore
  | .access _ _ _ => .access
  | .release _ => .release
  | .cancel _ => .cancel
  | .sessionRead _ => .sessionRead
  | .measure _ _ _ _ => .measure
  | .resultRead _ => .resultRead
  | .clearLinkStatus => .clearLinkStatus
  | .rejoin => .rejoin
  | .ticketOpen _ _ => .ticketOpen
  | .ticketClose _ => .ticketClose
  | .ticketRetest _ _ _ => .ticketRetest
  | .ticketRead _ => .ticketRead
  | .ticketList _ => .ticketList
  | .ticketHandover _ _ => .ticketHandover
  | .sweepStart _ _ _ _ => .sweepStart
  | .run => .run
  | .stop => .stop
  | .step => .step
  | .continueRun => .continueRun
  | .abort => .abort
  | .watchSet _ _ _ => .watchSet
  | .watchRead => .watchRead
  | .takeEvent => .takeEvent
  | .statusDetail => .statusDetail
  | .setMask _ => .setMask
  | .softReset => .softReset

/-- The rows of spec/opcode_table.json: the part's steps, each whole and indivisible
(95_what_each_step_holds.md). A frame of another station carries its sender's number first. -/
inductive Instr
  -- the console port, byte by byte (R196 to R199)
  | portByteWrite (byte : Byte)
  | resultByteRead
  | portClear (byte : Byte)
  -- console commands, each a whole command phase (R196)
  | configure (station : Nat) (auto : AutoChannelArg) (lock : Bool)
  | unlock
  | loadBlock (block : Nat) (form : LoadBlockForm)
  | loadTrunk (trunk rtrunk ctrunk : Nat)
  | setThresholds (t : Thresholds)
  | setClock (value : Nat)
  | trunkRestore (trunk : Nat)
  | access (channel : Option Channel) (line : Line) (force : Bool)
  | release (channel : Option Channel)
  | cancel (channel : Option Channel)
  | sessionRead (channel : Option Channel)
  | measure (channel : Option Channel) (stages : StageSet) (n : SampleArg) (ticket : Bool)
  | resultRead (channel : Option Channel)
  | clearLinkStatus
  | rejoin
  | ticketOpen (line : Line) (cls : Option FaultClass)
  | ticketClose (number : TicketNo)
  | ticketRetest (number : TicketNo) (interval count : Nat)
  | ticketRead (number : TicketNo)
  | ticketList (number : TicketNo)
  | ticketHandover (number : TicketNo) (station : Nat)
  | sweepStart (first last : Line) (stages : StageSet) (n : SampleArg)
  | run
  | stop
  | step
  | continueRun
  | abort
  | watchSet (op : Option WatchOp) (line : Line) (filter : FilterArg)
  | watchRead
  | takeEvent
  | statusDetail
  | setMask (mask : Mask)
  | softReset
  -- resets and the office clock
  | farewellLimit
  | softResetEnd
  | hardwareReset
  | startupEnd
  | officeClockTick
  -- the arbiter of the Automatic Engine
  | arbiterChoose
  -- own frames
  | frameAttemptStart
  | arbitrationLoss
  | ownAttemptEnd (how : AttemptEnd)
  | urgentFrameEnters
  | holdingAreaEnter
  | markEntersQueue
  | quietRequestQueued (channel : Channel)
  -- frames of other stations, taken
  | claimTaken (sender : Station) (line : Line) (trunk : Trunk) (purpose : Purpose) (channel : Channel)
  | releaseFrameTaken (sender : Station) (line : Line) (trunk : Trunk)
  | presenceTaken (sender : Station) (joining : Bool) (holdings : List Holding) (quiets : List Block)
  | quietTaken (sender : Station) (block : Block)
  | quietEndTaken (sender : Station) (block : Block)
  | quietBusyTaken (sender : Station) (block : Block) (requester : Station)
  | quietClearTaken (sender : Station) (block : Block) (requester : Station)
  | ticketNoteTaken (sender : Station) (entries : List NoteEntry)
  | ticketAddTaken (sender owner : Station) (number : TicketNo) (line : Line) (obs : ObsData)
  | handOfferTaken (sender : Station) (offer : HandOffer)
  | handAcceptTaken (sender offering : Station) (offered newNumber : TicketNo)
  | handRefuseTaken (sender offering : Station) (offered : TicketNo) (reason : RefuseReason)
  | trunkNoticeTaken (sender : Station) (trunk : Trunk) (out : Bool)
  | ownNumberFrame
  -- the line
  | clashFound
  | stuckLine
  | stuckCleared
  | lostFrameHeard (sender : Station) (body : FrameBody)
  | joinSettleEnd
  | presenceTimer
  | peerSilent (station : Station)
  | foreignQuietLapse (station : Station) (block : Block)
  -- own quiets
  | ownQuietLapse (channel : Channel)
  | quietLimit (channel : Channel)
  | quietSettleEnd (channel : Channel)
  -- tickets
  | handoverTimeout (number : TicketNo)
  -- heads
  | headAnswer (channel : Channel) (answer : HeadAnswer)
  | headTimeout (channel : Channel)
  -- relay steps and the shelf
  | step1End (channel : Channel)
  | setupWaitEnd (channel : Channel)
  | operateWaitEnd (channel : Channel)
  | confirmShown (channel : Channel)
  | holdClear (channel : Channel)
  | confirmTimeout (channel : Channel)
  | busyTestEnd (channel : Channel)
  | loopClosureChange (channel : Channel) (closed : Bool)
  | releaseWaitEnd (channel : Channel)
  | guardEnd (channel : Channel)
  | holdSet (channel : Channel)
  | confirmNoLongerShown (channel : Channel)
  deriving DecidableEq, Repr

end Sys2Proof
end

