-- ==== Sys2Proof/Decode.lean ====
section
/-! DEFINITION. The words of the table: no row of spec/opcode_table.json has bits, so no word spells a row. -/

namespace Sys2Proof

/-- The row a word spells by the table's bits: none, since the table gives no row bits and the manual gives
commands "never … byte codes" (00_scope.md). Console bytes reach the part by PORT_BYTE_WRITE. -/
def decodeTableWord (nbits w : Nat) : Option Instr :=
  match nbits, w with
  | _, _ => none

end Sys2Proof
end

