-- ==== Sys2Proof/Machine/Records.lean ====
section
/-! DEFINITION. The records the part keeps and reports: events, results of measurements, sessions,
tickets, sweeps, peers, frames in the transmit queue, and the answers of the console port. Plain data. -/

namespace Sys2Proof.Machine

/-! ### Names of states (each chapter's tables) -/

/-- The ten session states of chapter 2. -/
inductive SessionState
  | idle | claiming | claimed | deferred | connecting | connected | measuring | releasing | guard | closing
  deriving DecidableEq, Repr

/-- The relays of a connect sequence (R26, R27), in the order they are operated. -/
inductive Relay | selector | testRelay | cutOff
  deriving DecidableEq, Repr

/-- Stages of a claim (R112). -/
inductive ClaimStage | none | queued | onWire | held
  deriving DecidableEq, Repr

/-- Reasons of a withdrawal (R120). -/
inductive WithdrawReason | line | trunk
  deriving DecidableEq, Repr

/-- Phases of an own quiet record (R128). -/
inductive QuietPhase | none | pending | requested | settling | held | ending
  deriving DecidableEq, Repr

/-- What a withdrawal of a QUIET on the wire waits for (R128). -/
inductive QuietWithdrawal | limit | ended
  deriving DecidableEq, Repr

/-- Phases of the Measurement Engine (R47). -/
inductive MeasurePhase | idle | quietWait | running
  deriving DecidableEq, Repr

/-- Outcomes of a measurement (R65). -/
inductive MeasureOutcome | done | cancelled | yielded | headTimeout
  deriving DecidableEq, Repr

/-- Ticket states (R142); `opened` is OPEN. -/
inductive TicketState | opened | retest | handover | cleared
  deriving DecidableEq, Repr

/-- Ticket origins (R142). -/
inductive TicketOrigin | operator | sweep | retest | manual | handedIn
  deriving DecidableEq, Repr

/-- Sources of an observation (R144). -/
inductive ObsSource | ownOperator | ownSweep | ownRetest | peer (n : Station)
  deriving DecidableEq, Repr

/-- Run states of the Automatic Engine (R166). -/
inductive RunState | halted | running | stopping | stepping | frozen
  deriving DecidableEq, Repr

/-- Why the engine froze (R166). -/
inductive FreezeCause | watchClaim | watchRequest
  deriving DecidableEq, Repr

/-- Outcomes of an item (R170). -/
inductive ItemOutcome | pass | fail | noisy | timeout | blocked | yielded
  deriving DecidableEq, Repr

/-- Phases of a sweep (R178); `main` is MAIN. -/
inductive SweepPhase | main | deferredPass | complete
  deriving DecidableEq, Repr

/-- Who declared a trunk OUT (R5). -/
inductive DeclaredBy | self | station (n : Station)
  deriving DecidableEq, Repr

/-- Outcomes of the channel commands ACCESS, RELEASE and MEASURE (R38, R68). -/
inductive ChannelOutcome
  | connected | lineInUse | claimLost | noTrunk | accessTimeout | linkError | linkLost | conflict
  | cancelled | released | headTimeout
  deriving DecidableEq, Repr

/-- Reasons of HANDOVER-FAILED (R163). -/
inductive HandoverReason | refused (r : RefuseReason) | timeout | linkError | peerGone
  deriving DecidableEq, Repr

/-- The command that holds a channel's BUSY bit (R205). -/
inductive ChannelCommand | access | release | measure
  deriving DecidableEq, Repr

/-- The port's six phases (R196). -/
inductive PortPhase | starting | expectCommand | expectCount | expectArgument | working | result
  deriving DecidableEq, Repr

/-! ### Events (R202, R203) -/

/-- The event kinds of R203. -/
inductive EventKind
  | accessDone | measureDone | releaseDone | sessionEnded | offHook | onHook | lateConfirm
  | ticketOpened | ticketCleared | ticketMerged | ticketStoreFull | retestExhausted
  | handoverDone | handoverFailed | handoverLate | ticketHandedIn
  | sweepDone | sweepSkipped | blockSkipped | stepDone | stepIdle | frozen | itemResult
  | watchHit | trunkCondition | linkState | peerJoined | peerDropped | clash
  deriving DecidableEq, Repr

/-- The four event classes (R203). -/
inductive EventClass | session | ticket | automatic | office
  deriving DecidableEq, Repr

/-- The class an event kind belongs to (R203). -/
def EventKind.cls : EventKind → EventClass
  | .accessDone => .session
  | .measureDone => .session
  | .releaseDone => .session
  | .sessionEnded => .session
  | .offHook => .session
  | .onHook => .session
  | .lateConfirm => .session
  | .ticketOpened => .ticket
  | .ticketCleared => .ticket
  | .ticketMerged => .ticket
  | .ticketStoreFull => .ticket
  | .retestExhausted => .ticket
  | .handoverDone => .ticket
  | .handoverFailed => .ticket
  | .handoverLate => .ticket
  | .ticketHandedIn => .ticket
  | .sweepDone => .automatic
  | .sweepSkipped => .automatic
  | .blockSkipped => .automatic
  | .stepDone => .automatic
  | .stepIdle => .automatic
  | .frozen => .automatic
  | .itemResult => .automatic
  | .watchHit => .office
  | .trunkCondition => .office
  | .linkState => .office
  | .peerJoined => .office
  | .peerDropped => .office
  | .clash => .office

/-- The four kinds that are channel completions (R203). -/
def EventKind.isCompletion : EventKind → Bool
  | .accessDone => true
  | .measureDone => true
  | .releaseDone => true
  | .sessionEnded => true
  | .offHook => false
  | .onHook => false
  | .lateConfirm => false
  | .ticketOpened => false
  | .ticketCleared => false
  | .ticketMerged => false
  | .ticketStoreFull => false
  | .retestExhausted => false
  | .handoverDone => false
  | .handoverFailed => false
  | .handoverLate => false
  | .ticketHandedIn => false
  | .sweepDone => false
  | .sweepSkipped => false
  | .blockSkipped => false
  | .stepDone => false
  | .stepIdle => false
  | .frozen => false
  | .itemResult => false
  | .watchHit => false
  | .trunkCondition => false
  | .linkState => false
  | .peerJoined => false
  | .peerDropped => false
  | .clash => false

/-- What an event's outcome-or-class field may hold: one outcome, class, state, cause or reason (R202). -/
inductive EventOutcome
  | channel (o : ChannelOutcome)
  | cls (c : FaultClass)
  | link (l : LinkState)
  | linkError
  | trunk (c : TrunkCondition)
  | item (o : ItemOutcome)
  | itemLinkLost
  | freeze (c : FreezeCause)
  | purpose (p : Purpose)
  | handover (r : HandoverReason)
  deriving DecidableEq, Repr

/-- The causes of a session's end that a completion may carry (R42, R202). -/
inductive SessionEndCause | conflict | linkLost
  deriving DecidableEq, Repr

/-- An event record, its fields in the order of R202's table, then the deciding leg and value that a MEASURE-DONE
carries with its class (R64; log entry 39); a field no rule fills is absent. -/
structure Event where
  kind : EventKind
  time : Nat := 0
  channel : Option Channel := none
  line : Option Nat := none
  trunk : Option Trunk := none
  ticket : Option TicketNo := none
  station : Option Station := none
  outcome : Option EventOutcome := none
  linkCause : Option LostCause := none
  counts : Option (Nat × Nat × Nat) := none
  sessionEnd : Option SessionEndCause := none
  lostBefore : Nat := 0
  deciding : Option Deciding := none
  deriving DecidableEq, Repr

/-! ### Configuration Store -/

/-- A present entry of the block map (R2). -/
structure BlockEntry where
  trunks : List Trunk
  rpc : Nat
  cpk : Nat
  setupWait : Nat
  operateWait : Nat
  releaseGuard : Nat
  minLength : Nat
  settlePerKm : Nat
  deriving DecidableEq, Repr

/-- An entry of the trunk table (R5). -/
structure TrunkEntry where
  condition : TrunkCondition
  streak : Nat
  declaredBy : Option DeclaredBy
  rtrunk : Nat
  ctrunk : Nat
  deriving DecidableEq, Repr

/-- The Configuration Store, with the trunk conditions beside the calibration (chapter 1). -/
structure Store where
  configured : Bool
  station : Option Station
  autoChannel : Option Channel
  lock : Bool
  blocks : Vector (Option BlockEntry) 64
  trunks : Vector TrunkEntry 16
  thresholds : Thresholds
  clock : Nat
  deriving DecidableEq, Repr

/-! ### Measurement -/

/-- A head reading: what a request asks for (R45). `fv .tr` is never asked. -/
inductive Reading | fv (leg : Leg) | cap | range (leg : Leg) (r : Range)
  deriving DecidableEq, Repr

/-- A request on the head lines: its reading, the settle or discharge it names in ms, its sample count,
and the time it was sent (R45, R46, R47). -/
structure HeadRequest where
  reading : Reading
  settle : Nat
  samples : Nat
  sentAt : Nat
  deriving DecidableEq, Repr

/-- One leg's foreign voltage (R57). -/
structure FvValue where
  dc : Int
  ac : Nat
  saturated : Bool
  deriving DecidableEq, Repr

/-- The capacitance with its flags (R60). -/
structure CapValue where
  nf : Nat
  overMark : Bool
  underMark : Bool
  deriving DecidableEq, Repr

/-- A measured resistance leg (R59, R65). -/
structure LegValue where
  range : Range
  ohms : Option Nat
  overMark : Bool
  underMark : Bool
  reversed : Bool
  deriving DecidableEq, Repr

/-- The result record (R65). The outcome is absent only while the record is in progress. -/
structure MeasureRecord where
  stages : StageSet
  n : Nat
  fvTG : Option FvValue
  fvRG : Option FvValue
  cap : Option CapValue
  length : Option Nat
  extension : Nat
  legTR : Option LegValue
  legTG : Option LegValue
  legRG : Option LegValue
  cls : Option FaultClass
  deciding : Option Deciding
  distance : Option Nat
  noisy : Bool
  partialMark : Bool
  outcome : Option MeasureOutcome
  deriving DecidableEq, Repr

/-- The copies a MEASURE makes at its acceptance (R17, R47). -/
structure Copies where
  rpc : Nat
  cpk : Nat
  minLength : Nat
  settlePerKm : Nat
  rtrunk : Nat
  ctrunk : Nat
  thresholds : Thresholds
  deriving DecidableEq, Repr

/-- The Measurement Engine's state of one channel (R47). The stage and reading under way are those of
the outstanding request; `raw` holds the numbers of the reading last taken. -/
structure EngineRecord where
  phase : MeasurePhase
  ticketFlag : Bool
  copies : Option Copies
  request : Option HeadRequest
  raw : Option HeadAnswer
  record : Option MeasureRecord
  deriving DecidableEq, Repr

/-! ### Sessions, claims, quiets -/

/-- The session record (R21). -/
structure Session where
  state : SessionState
  purpose : Purpose
  line : Line
  block : Block
  trunk : Trunk
  forced : Bool
  relayStep : Option Nat
  quietHeld : Option Block
  deferredBy : Option Holder
  cancelPending : Bool
  linkedTicket : Option TicketNo
  frozenAtClaim : Bool
  lastResult : Option MeasureRecord
  offHook : Bool
  deriving DecidableEq, Repr

/-- An operate the part has abandoned: the window for late confirms is open while it is present (R33). -/
structure AbandonedOperate where
  step : Nat
  line : Line
  trunk : Trunk
  deriving DecidableEq, Repr

/-- The access drive lines of a channel: the operate drives held, and the release drives given by the
latest release (R26, R27, R31, R33). -/
structure Drives where
  selector : Bool
  monitor : Bool
  cutOffTest : Bool
  released : List Relay
  deriving DecidableEq, Repr

/-- The relay side of a session and its timers (R26 to R33). -/
structure Sequencer where
  outcome : Option ChannelOutcome
  operateElapsed : Bool
  confirmTaken : Bool
  confirmHeldBack : Bool
  inUse : Bool
  releasing : Option Relay
  waitEnd : Option Nat
  confirmLimit : Option Nat
  abandoned : Option AbandonedOperate
  drives : Drives
  deriving DecidableEq, Repr

/-- The claim record (R112). -/
structure ClaimRecord where
  stage : ClaimStage
  withdrawal : Option WithdrawReason
  deriving DecidableEq, Repr

/-- The own quiet record (R128). `settled` says that the 100 ms since the taking have passed (R137). -/
structure QuietRecord where
  phase : QuietPhase
  block : Option Block
  limitTime : Option Nat
  takenAt : Option Nat
  settled : Bool
  waitList : List Holder
  withdrawal : Option QuietWithdrawal
  requestNoted : Bool
  notedBlock : Option Block
  deriving DecidableEq, Repr

/-- A QUIET-BUSY of this channel and the clear that goes with it (R133 to R135): whether the QUIET-BUSY
has been taken, and whether the QUIET-CLEAR has been queued (until then the session owes it). -/
structure OwedClear where
  block : Block
  requester : Station
  busyTaken : Bool
  clearQueued : Bool
  deriving DecidableEq, Repr

/-- The outside lines of a channel: confirm and hold from the shelf, loop closure from the head. -/
structure Pins where
  confirm : Bool
  hold : Bool
  loopClosed : Bool
  deriving DecidableEq, Repr

/-- Everything the part keeps per channel. -/
structure ChannelRecord where
  session : Session
  seq : Sequencer
  claim : ClaimRecord
  quiet : QuietRecord
  clears : List OwedClear
  engine : EngineRecord
  command : Option ChannelCommand
  pins : Pins
  deriving DecidableEq, Repr

/-! ### The Desk Link -/

/-- What a queued frame sends: a built body, or the mark of R85 that builds its body at each attempt. -/
inductive QueuedBody | built (b : FrameBody) | presenceMark | noteMark
  deriving DecidableEq, Repr

/-- A frame of the transmit queue (R82, R86). `first` is the urgency at which it was first queued;
`origin` is the channel whose block queued it, where a channel did. -/
structure QueuedFrame where
  body : QueuedBody
  first : Nat
  urgency : Nat
  entry : Nat
  voids : Nat
  losses : Nat
  aged : Bool
  origin : Option Channel
  deriving DecidableEq, Repr

/-- The slots at a frame's end, which its receivers drive dominant (R75, R78). -/
inductive Slot | heard | objection
  deriving DecidableEq, Repr

/-- The own attempt on the wire (R77): the entry number of its frame, the body as built at its start, and how
many of a TICKET-NOTE's first entries came from the closed-note list (R152). A soft reset and a link loss empty
the queue, so that the attempt's frame is then in no slot and its end changes nothing (R91, R95). -/
structure Attempt where
  entry : Nat
  body : FrameBody
  fromClosedList : Nat
  deriving DecidableEq, Repr

/-- The Link Controller's state (chapter 4). `slot` is the slot this station drove at the end of the latest frame of
another station that it answered, absent before the first (R78). -/
structure Link where
  state : LinkState
  cause : Option LostCause
  queue : List QueuedFrame
  waiting : List QueuedFrame
  holding : List QueuedFrame
  presenceMark : Bool
  nextEntry : Nat
  wire : Option Attempt
  linkError : Bool
  clash : Bool
  joinEnd : Option Nat
  presenceDue : Option Nat
  slot : Option Slot
  deriving DecidableEq, Repr

/-- A quiet block of another station with its lapse time (R96). -/
structure QuietBlock where
  block : Block
  lapse : Nat
  deriving DecidableEq, Repr

/-- A roster entry (R96). -/
structure Peer where
  station : Station
  lastHeard : Nat
  joining : Bool
  holdings : List Holding
  quiets : List QuietBlock
  deriving DecidableEq, Repr

/-! ### Tickets -/

/-- A recorded observation (R144). -/
structure Observation where
  time : Nat
  source : ObsSource
  cls : FaultClass
  deciding : Option Deciding
  noisy : Bool
  deriving DecidableEq, Repr

/-- A retest plan (R142). -/
structure RetestPlan where
  interval : Nat
  remaining : Nat
  nextDue : Nat
  deriving DecidableEq, Repr

/-- A ticket's handover field (R142). -/
structure Handover where
  target : Station
  offeredAt : Nat
  priorRetest : Bool
  lapsed : Bool
  deriving DecidableEq, Repr

/-- A ticket (R142). -/
structure Ticket where
  number : TicketNo
  line : Line
  state : TicketState
  cls : FaultClass
  openedAt : Nat
  origin : TicketOrigin
  observations : List Observation
  plan : Option RetestPlan
  streak : Nat
  announcePending : Bool
  noteTaken : Bool
  noteHeldBack : Bool
  handover : Option Handover
  previousOwner : Option (Station × TicketNo)
  deriving DecidableEq, Repr

/-- An entry of the foreign ticket index (R145). -/
structure IndexEntry where
  line : Line
  owner : Station
  number : TicketNo
  cls : FaultClass
  deriving DecidableEq, Repr

/-- The Ticket Store (chapter 8): tickets in opening order, the index, the closed-note list oldest first,
the next-number counter. -/
structure TicketStore where
  tickets : List Ticket
  index : List IndexEntry
  closedNotes : List NoteEntry
  nextNumber : TicketNo
  deriving DecidableEq, Repr

/-! ### Automatic work and the Line Watch -/

/-- The current item (R166). `aborted` marks an item left by ABORT, whose later reports are ignored
(R176). -/
structure Item where
  purpose : Purpose
  line : Line
  ticket : Option TicketNo
  stages : StageSet
  n : SampleArg
  fromDeferred : Bool
  outcome : Option ItemOutcome
  aborted : Bool
  deriving DecidableEq, Repr

/-- The sweep record (R178). -/
structure Sweep where
  first : Line
  last : Line
  stages : StageSet
  n : SampleArg
  phase : SweepPhase
  cursor : Line
  deferred : List Line
  tested : Nat
  failed : Nat
  skipped : Nat
  deriving DecidableEq, Repr

/-- The Automatic Engine (R166). -/
structure AutoEngine where
  run : RunState
  returnState : Option RunState
  freezeCause : Option FreezeCause
  item : Option Item
  sweep : Option Sweep
  waitingForRoom : Bool
  deriving DecidableEq, Repr

/-- The capture record's last match (R186). -/
structure Capture where
  station : Station
  purpose : Purpose
  trunk : Trunk
  channel : Channel
  time : Nat
  deriving DecidableEq, Repr

/-- The Line Watch (R186). -/
structure Watch where
  op : WatchOp
  line : Line
  filter : WatchFilter
  capture : Option Capture
  hits : Nat
  deriving DecidableEq, Repr

/-! ### Answers of the console port -/

/-- The result codes (R201). -/
inductive ResultCode
  | accepted | badCommand | badArgument | notConfigured | locked | busy | wrongState | linkDown | linkBusy
  | lineHeld | noRoute | noTrunk | automaticChannel | channelInUse | noSession | noTicket | exists_
  | ownedElsewhere | storeFull | noPeer | noEvent
  deriving DecidableEq, Repr, Inhabited

/-- The short summary of a last result (R44). -/
structure ResultSummary where
  cls : Option FaultClass
  deciding : Option Deciding
  noisy : Bool
  partialMark : Bool
  outcome : Option MeasureOutcome
  deriving DecidableEq, Repr

/-- SESSION READ's report: every field of R21, the last result as a summary (R44). -/
structure SessionReport where
  state : SessionState
  purpose : Purpose
  line : Line
  block : Block
  trunk : Trunk
  forced : Bool
  relayStep : Option Nat
  quietHeld : Option Block
  deferredBy : Option Holder
  cancelPending : Bool
  linkedTicket : Option TicketNo
  frozenAtClaim : Bool
  lastResult : Option ResultSummary
  offHook : Bool
  deriving DecidableEq, Repr

/-- An entry of TICKET LIST (R159). -/
structure TicketSummary where
  number : TicketNo
  line : Line
  state : TicketState
  cls : FaultClass
  origin : TicketOrigin
  nextDue : Option Nat
  deriving DecidableEq, Repr

/-- A roster entry as STATUS DETAIL reports it (R109): milliseconds since last heard, and left to each
lapse. -/
structure PeerSummary where
  station : Station
  sinceHeard : Nat
  joining : Bool
  holdings : List Holding
  quiets : List (Block × Nat)
  deriving DecidableEq, Repr

/-- A trunk as STATUS DETAIL reports it (R209). -/
structure TrunkSummary where
  condition : TrunkCondition
  streak : Nat
  declaredBy : Option DeclaredBy
  deriving DecidableEq, Repr

/-- A quiet record as STATUS DETAIL reports it (R128, R209). -/
structure QuietSummary where
  phase : QuietPhase
  block : Option Block
  waitList : List Holder
  deriving DecidableEq, Repr

/-- The current item as STATUS DETAIL reports it (R166). -/
structure ItemSummary where
  purpose : Purpose
  line : Line
  ticket : Option TicketNo
  outcome : Option ItemOutcome
  deriving DecidableEq, Repr

/-- STATUS DETAIL's report, in the order of R209. -/
structure StatusReport where
  configured : Bool
  station : Option Station
  autoChannel : Option Channel
  lock : Bool
  link : LinkState
  cause : Option LostCause
  linkError : Bool
  clash : Bool
  queued : Nat
  held : Nat
  roster : List PeerSummary
  trunks : List TrunkSummary
  quietA : QuietSummary
  quietB : QuietSummary
  run : RunState
  returnState : Option RunState
  freezeCause : Option FreezeCause
  item : Option ItemSummary
  sweep : Option Sweep
  events : Nat
  lost : Nat
  mask : Mask
  clock : Nat
  deriving DecidableEq, Repr

/-- The values ACCEPTED carries (11.3). -/
inductive AnswerValues
  | nothing
  | linkState (l : LinkState)
  | blockEntry (e : Option BlockEntry)
  | trunkValues (rtrunk ctrunk : Nat)
  | thresholds (t : Thresholds)
  | trunk (t : Trunk)
  | session (r : SessionReport)
  | sampleCount (n : Nat)
  | lastResult (r : Option MeasureRecord)
  | ticketNumber (n : TicketNo)
  | retestPlan (interval count : Nat) (nextDue : Option Nat)
  | ticket (t : Ticket)
  | ticketList (entries : List TicketSummary) (more : Bool)
  | sweepRange (first last : Line) (lines : Nat)
  | watch (op : WatchOp) (line : Line) (filter : WatchFilter) (capture : Option Capture) (hits : Nat)
  | event (e : Event)
  | status (r : StatusReport)
  | mask (m : Mask)
  deriving DecidableEq, Repr

/-- A result: its code with the detail of R201. -/
inductive Answer
  | accepted (v : AnswerValues)
  | badCommand
  | badArgument (position : Nat)
  | notConfigured
  | locked
  | busy (channel : Option Channel)
  | wrongState
  | linkDown (state : LinkState)
  | linkBusy
  | lineHeld (holder : Holder)
  | noRoute (block : Block)
  | noTrunk (block : Block)
  | automaticChannel (channel : Option Channel)
  | channelInUse (channel : Channel)
  | noSession (channel : Channel)
  | noTicket (number : TicketNo)
  | exists_ (number : TicketNo)
  | ownedElsewhere (station : Station) (number : TicketNo)
  | storeFull
  | noPeer (station : Station)
  | noEvent
  deriving DecidableEq, Repr

/-- The tables whose fields a result gives, by the record or the part of the report they describe (R197); `detail` is
R201's table of details. -/
inductive RecordTable
  | linkState | blockEntry | trunkValues | trunk | thresholds | session | sampleCount | measurement | ticketNumber
  | retestPlan | ticket | observation | ticketList | ticketEntry | sweepRange | watch | event | report | peer | holding
  | quietBlock | trunkEntry | quiet | engine | item | sweep | port | mask | detail (code : ResultCode)
  deriving DecidableEq, Repr

/-- A value that a field carries: a number (of a line, a block, a trunk, a station or a ticket among others), a flag, or
one of the manual's named values. `entries` is the length of a list, which goes before its entries. -/
inductive FieldValue
  | number (n : Int)
  | flag (b : Bool)
  | entries (n : Nat)
  | channel (c : Channel)
  | purpose (p : Purpose)
  | holder (h : Holder)
  | sessionState (x : SessionState)
  | stages (g : StageSet)
  | range (g : Range)
  | marks (overMark underMark reversed : Bool)
  | cls (c : FaultClass)
  | decidingLeg (d : DecidingLeg)
  | outcome (o : MeasureOutcome)
  | ticketState (x : TicketState)
  | origin (o : TicketOrigin)
  | source (o : ObsSource)
  | eventKind (k : EventKind)
  | eventOutcome (o : EventOutcome)
  | linkState (l : LinkState)
  | lostCause (c : LostCause)
  | sessionEnd (c : SessionEndCause)
  | condition (c : TrunkCondition)
  | declaredBy (d : DeclaredBy)
  | quietPhase (p : QuietPhase)
  | runState (r : RunState)
  | freezeCause (c : FreezeCause)
  | itemOutcome (o : ItemOutcome)
  | sweepPhase (p : SweepPhase)
  | watchOp (o : WatchOp)
  | filter (f : FilterName)
  deriving DecidableEq, Repr

/-- A field of a result: its table, its row there, its part of the row, and its value, none where it is absent
(R197). -/
structure Field where
  table : RecordTable
  row : Nat
  part : Nat
  value : Option FieldValue
  deriving DecidableEq, Repr

/-- The result code of an answer (R201). -/
def Answer.code : Answer → ResultCode
  | .accepted _ => .accepted
  | .badCommand => .badCommand
  | .badArgument _ => .badArgument
  | .notConfigured => .notConfigured
  | .locked => .locked
  | .busy _ => .busy
  | .wrongState => .wrongState
  | .linkDown _ => .linkDown
  | .linkBusy => .linkBusy
  | .lineHeld _ => .lineHeld
  | .noRoute _ => .noRoute
  | .noTrunk _ => .noTrunk
  | .automaticChannel _ => .automaticChannel
  | .channelInUse _ => .channelInUse
  | .noSession _ => .noSession
  | .noTicket _ => .noTicket
  | .exists_ _ => .exists_
  | .ownedElsewhere _ _ => .ownedElsewhere
  | .storeFull => .storeFull
  | .noPeer _ => .noPeer
  | .noEvent => .noEvent

/-- What the bytes of one argument hold: a value the command takes, an identifier it refuses in every state, or no
value it knows (R200). -/
inductive ArgCheck | good | wrong | formless
  deriving DecidableEq, Repr

/-- What the port's form check finds in the argument bytes of a command (R200). -/
inductive FormResult
  | fits (r : Request)
  | badCount
  | badArgument (position : Nat)
  deriving DecidableEq, Repr, Inhabited

end Sys2Proof.Machine
end

