-- ==== Sys2Proof/Config.lean ====
section
/-! DEFINITION. What is fixed in the part: the head constants (3.1), the times the manual names, the
sizes of its stores; and the free values: the byte encodings the manual does not give. -/

namespace Sys2Proof.Config
open Sys2Proof.Machine

/-! ### Free encodings. The manual gives commands, result codes, named argument values and frame fields by name and
"never byte codes" (00_scope.md, How this manual is set out). Nothing may be assumed of these functions (log entries
4 and 24). -/

/-- The command a command byte names, none where it names no command (R196). -/
opaque commandOfByte : Byte → Option CommandName

/-- The channel an argument byte names. -/
opaque channelOfByte : Byte → Option Channel

/-- The automatic channel that a CONFIGURE byte names (R208). -/
opaque autoChannelOfByte : Byte → AutoChannelArg

/-- The line that two bytes carry: any two bytes carry one (R200). -/
opaque lineOfBytes : Byte → Byte → Line

/-- The bit of a stage set byte that stands for each of the five stages, in the order FV, CAP, RES-TR, RES-TG, RES-RG
(R200). -/
opaque stageBit : Fin 5 → Fin 8

/-- The class an argument byte names. -/
opaque classOfByte : Byte → Option FaultClass

/-- The operation that a WATCH SET byte names (R193). -/
opaque operationOfByte : Byte → Option WatchOp

/-- The filter that a WATCH SET byte names, none where it names none of the five (R193). -/
opaque filterOfByte : Byte → Option FilterName

/-- The form check of a command that carries a quantity or a ticket number of more than one byte, in the order
written (R200). -/
opaque formOf : CommandName → List Byte → FormResult

/-- The byte that stands for a result code (R197). -/
opaque resultCodeByte : ResultCode → Byte

/-- The bytes of a value in a part of a table's row (R197). -/
opaque fieldBytes : RecordTable → Nat → Nat → FieldValue → List Byte

/-- The bytes from which the absent mark of a part of a table's row is made (R197). -/
opaque absentBytes : RecordTable → Nat → Nat → List Byte

/-- The number of body bytes of a frame, 0–20 (R75, R76). -/
opaque bodyLength : FrameBody → Fin 21

/-- The body bytes of a frame by their place (R75). -/
opaque bodyByte : FrameBody → Nat → Byte

/-- The body that a kind's body bytes spell, none where they spell none (R78). -/
opaque bodyOfBytes : (kind : Nat) → List Byte → Option FrameBody

/-! ### Head constants (3.1) -/

/-- Source voltage of a range, in mV. -/
def vsrc : Range → Nat
  | .high => 48000
  | .low => 100000

/-- Sense resistor of a range, in ohms. -/
def rs : Range → Nat
  | .high => 1000
  | .low => 10000

/-- Full-scale current of a range, in µA. -/
def ifs : Range → Nat
  | .high => 20000
  | .low => 2000

/-- Samples of an FV reading (R52). -/
def fvSamples : Nat := 40

/-- The time a charge is expected to take, in ms (R46). -/
def chargeTime : Nat := 66

/-! ### Times in ms -/

/-- Step 1 (R26). -/
def step1Time : Nat := 5
/-- One step of the setup wait (R2). -/
def setupUnit : Nat := 10
/-- One step of the operate wait (R2). -/
def operateUnit : Nat := 5
/-- One step of the release guard (R2). -/
def guardUnit : Nat := 50
/-- The confirm limit from an operate drive (R28). -/
def confirmTime : Nat := 400
/-- The busy test (R29). -/
def busyTestTime : Nat := 60
/-- The join settle (R89). -/
def joinTime : Nat := 1500
/-- The presence interval (R103). -/
def presenceInterval : Nat := 1000
/-- The silence limit (R106). -/
def silenceTime : Nat := 3500
/-- A foreign quiet's lapse (R99). -/
def foreignLapse : Nat := 10500
/-- The time beyond a head request's expected length after which it has timed out (R70). -/
def headLimit : Nat := 500
/-- The wait limit of a measurement in QUIET-WAIT (R128). -/
def quietLimit : Nat := 1500

/-! ### Sizes and largest values -/

/-- The office clock's largest value (R16). -/
def clockMax : Nat := 4294967295
/-- Slots of the transmit queue, and how many of them frames of urgency 1–3 may use (R82). -/
def queueSlots : Nat := 12
/-- See `queueSlots`. -/
def lowSlots : Nat := 8
/-- Frames the holding area holds (R84). -/
def holdingSlots : Nat := 4
/-- General slots of the event queue (R203). -/
def eventSlots : Nat := 30
/-- The lost count's and the hit count's largest value (R186, R204). -/
def countMax : Nat := 255
/-- Tickets the store holds (R143). -/
def ticketSlots : Nat := 96
/-- The largest ticket number (R142). -/
def ticketMax : Nat := 9999
/-- Entries of the foreign ticket index (R145). -/
def indexSlots : Nat := 256
/-- Entries of the closed-note list (R151). -/
def closedNoteSlots : Nat := 16
/-- Observations of a ticket (R144). -/
def observationSlots : Nat := 8
/-- Lines of the deferred list (R178). -/
def deferredSlots : Nat := 16
/-- The largest value of a sweep count (R178). -/
def sweepCountMax : Nat := 65535

/-- The defaults of R14. -/
def thresholdDefaults : Thresholds :=
  ⟨20000, 20000, 1000000, 10000, 25000, 8000, 16⟩

/-- The default constants of R2. -/
def blockDefaults : BlockConstants :=
  ⟨137, 52, 1, 4, 1, 0, 25⟩

end Sys2Proof.Config
end

