-- ==== Sys2Proof/Machine/State.lean ====
section
/-! DEFINITION. The part's whole state as plain data, the reasons a step can stop (the spec gives none),
and the state after a hardware reset. -/

namespace Sys2Proof.Machine

/-- The Console Port's own state (chapter 11). The status byte, INT and the BUSY and DONE bits are read from
it and from the sessions (Machine/Flags.lean). -/
structure Port where
  phase : PortPhase
  command : Option CommandName
  remaining : Nat
  args : List Byte
  answer : Option Answer
  result : List Byte
  dataRegister : Byte
  events : List Event
  lost : Nat
  mask : Mask
  deriving DecidableEq, Repr

/-- A soft reset between its acceptance and its end (R211): whether the configuration is kept (R20) and
whether the farewell is still going on (R95). -/
structure SoftReset where
  kept : Bool
  farewell : Bool
  deriving DecidableEq, Repr

/-- Everything the part keeps, and the queue of commands and events that wait for it, first in first out. -/
structure State where
  port : Port
  store : Store
  link : Link
  roster : List Peer
  chanA : ChannelRecord
  chanB : ChannelRecord
  ticketStore : TicketStore
  auto : AutoEngine
  watch : Watch
  softReset : Option SoftReset
  now : Nat
  pending : List Instr
  deriving DecidableEq, Repr

/-- The reasons a step stops with a fault. There are none: every error the manual names is a result code, an
event, a sticky indication or a link state, and the part goes on. -/
inductive Fault
  deriving DecidableEq, Repr

/-- The reasons a step is refused. -/
inductive Refusal
  /-- Raised by an arm of `exec` whose meaning is not written yet, with the row's mnemonic. Safe: nothing is
  claimed of such a step. -/
  | notModelled (mnemonic : String)
  deriving DecidableEq, Repr

/-- What one step answers. -/
abbrev Result := Host.Outcome State Fault Refusal

/-! ### Reset values (R210 and the chapters' own reset clauses) -/

/-- A session record after a hardware reset (R21; purpose, line, block and trunk: log entry 7). -/
def Session.initial : Session where
  state := .idle
  purpose := .operator
  line := 0
  block := 0
  trunk := 0
  forced := false
  relayStep := none
  quietHeld := none
  deferredBy := none
  cancelPending := false
  linkedTicket := none
  frozenAtClaim := false
  lastResult := none
  offHook := false

/-- No access drive given (R43, R210). -/
def Drives.none : Drives where
  selector := false
  monitor := false
  cutOffTest := false
  released := []

/-- The relay side of a channel after a reset (R21, R43). -/
def Sequencer.initial : Sequencer where
  outcome := Option.none
  operateElapsed := false
  confirmTaken := false
  confirmHeldBack := false
  inUse := false
  releasing := Option.none
  waitEnd := Option.none
  confirmLimit := Option.none
  abandoned := Option.none
  drives := Drives.none

/-- A claim record after a reset (R112). -/
def ClaimRecord.initial : ClaimRecord where
  stage := .none
  withdrawal := Option.none

/-- An own quiet record after a reset (R128). -/
def QuietRecord.initial : QuietRecord where
  phase := .none
  block := Option.none
  limitTime := Option.none
  takenAt := Option.none
  settled := false
  waitList := []
  withdrawal := Option.none
  requestNoted := false
  notedBlock := Option.none

/-- A channel's Measurement Engine after a reset (R47). -/
def EngineRecord.initial : EngineRecord where
  phase := .idle
  ticketFlag := false
  copies := none
  request := none
  raw := none
  record := none

/-- A channel after a hardware reset; the outside lines: log entry 7. -/
def ChannelRecord.initial : ChannelRecord where
  session := .initial
  seq := .initial
  claim := .initial
  quiet := .initial
  clears := []
  engine := .initial
  command := none
  pins := ⟨false, false, false⟩

/-- The Console Port after a hardware reset (R203, R204, R206, R210). -/
def Port.initial : Port where
  phase := .starting
  command := none
  remaining := 0
  args := []
  answer := none
  result := []
  dataRegister := 0
  events := []
  lost := 0
  mask := ⟨false, false, false, false⟩

/-- A trunk table entry after a hardware reset (R5). -/
def TrunkEntry.initial : TrunkEntry where
  condition := .inService
  streak := 0
  declaredBy := none
  rtrunk := 0
  ctrunk := 0

/-- The Configuration Store after a hardware reset (R2, R5, R14, R16, R20). -/
def Store.initial : Store where
  configured := false
  station := none
  autoChannel := some .b
  lock := false
  blocks := Vector.replicate 64 none
  trunks := Vector.replicate 16 .initial
  thresholds := Config.thresholdDefaults
  clock := 0

/-- The Link Controller after a hardware reset (R82, R84, R85, R87, R94; no slot driven: log entry 7). -/
def Link.initial : Link where
  state := .off
  cause := none
  queue := []
  waiting := []
  holding := []
  presenceMark := false
  nextEntry := 0
  wire := none
  linkError := false
  clash := false
  joinEnd := none
  presenceDue := none
  slot := none

/-- The Ticket Store after a hardware reset (R143, R145, R151). -/
def TicketStore.initial : TicketStore where
  tickets := []
  index := []
  closedNotes := []
  nextNumber := 1

/-- The Automatic Engine after a hardware reset (R166). -/
def AutoEngine.initial : AutoEngine where
  run := .halted
  returnState := none
  freezeCause := none
  item := none
  sweep := none
  waitingForRoom := false

/-- The Line Watch after a reset (R186). -/
def Watch.initial : Watch where
  op := .off
  line := 0
  filter := .any
  capture := none
  hits := 0

/-- The part right after a hardware reset: every block at its reset values, the port in STARTING until
STARTUP_END (R210; log entry 6). -/
def State.reset : State where
  port := .initial
  store := .initial
  link := .initial
  roster := []
  chanA := .initial
  chanB := .initial
  ticketStore := .initial
  auto := .initial
  watch := .initial
  softReset := none
  now := 0
  pending := []

/-! ### The two channels -/

/-- A channel's records. -/
def State.chan (s : State) : Channel → ChannelRecord
  | .a => s.chanA
  | .b => s.chanB

/-- Replace a channel's records. -/
def State.setChan (c : Channel) (r : ChannelRecord) (s : State) : State :=
  match c with
  | .a => { s with chanA := r }
  | .b => { s with chanB := r }

/-- Change a channel's session record (R21). -/
def State.updSession (c : Channel) (f : Session → Session) (s : State) : State :=
  s.setChan c { s.chan c with session := f (s.chan c).session }

/-- Change a channel's relay side. -/
def State.updSeq (c : Channel) (f : Sequencer → Sequencer) (s : State) : State :=
  s.setChan c { s.chan c with seq := f (s.chan c).seq }

/-- Change a channel's claim record (R112). -/
def State.updClaim (c : Channel) (f : ClaimRecord → ClaimRecord) (s : State) : State :=
  s.setChan c { s.chan c with claim := f (s.chan c).claim }

/-- Change a channel's own quiet record (R128). -/
def State.updQuiet (c : Channel) (f : QuietRecord → QuietRecord) (s : State) : State :=
  s.setChan c { s.chan c with quiet := f (s.chan c).quiet }

/-- Change the clears a channel owes (R133). -/
def State.updClears (c : Channel) (f : List OwedClear → List OwedClear) (s : State) : State :=
  s.setChan c { s.chan c with clears := f (s.chan c).clears }

/-- Change a channel's Measurement Engine (R47). -/
def State.updEngine (c : Channel) (f : EngineRecord → EngineRecord) (s : State) : State :=
  s.setChan c { s.chan c with engine := f (s.chan c).engine }

/-- Change the command that holds a channel's BUSY bit (R205). -/
def State.setCommand (c : Channel) (k : Option ChannelCommand) (s : State) : State :=
  s.setChan c { s.chan c with command := k }

/-- Change a channel's outside lines. -/
def State.updPins (c : Channel) (f : Pins → Pins) (s : State) : State :=
  s.setChan c { s.chan c with pins := f (s.chan c).pins }

/-- Change the Link Controller. -/
def State.updLink (f : Link → Link) (s : State) : State := { s with link := f s.link }

/-- Change the Ticket Store. -/
def State.updTickets (f : TicketStore → TicketStore) (s : State) : State :=
  { s with ticketStore := f s.ticketStore }

/-- Change the Automatic Engine. -/
def State.updAuto (f : AutoEngine → AutoEngine) (s : State) : State := { s with auto := f s.auto }

/-- Change the Console Port. -/
def State.updPort (f : Port → Port) (s : State) : State := { s with port := f s.port }

/-- Change the Configuration Store. -/
def State.updStore (f : Store → Store) (s : State) : State := { s with store := f s.store }

end Sys2Proof.Machine
end

