-- ==== Sys2Proof/Machine/Operands.lean ====
section
/-! DEFINITION. Operand forms: clamping of quantities, checks of identifiers, the forms of LOAD BLOCK, the
stage sets of retests, and the order of the readings of a stage set. -/

namespace Sys2Proof.Machine

/-- A quantity clamped to a range (00_scope.md, Arithmetic). -/
def clampNat (lo hi v : Nat) : Nat := max lo (min hi v)

/-- A whole number clamped to a range (00_scope.md, Arithmetic). -/
def clampInt (lo hi v : Int) : Int := max lo (min hi v)

/-- The block of a line (R1). -/
def blockOf (l : Line) : Block := ⟨l.val / 1024, by omega⟩

/-- A station number as an identifier: 1–15 (R208, R160, R193). -/
def stationOk (n : Nat) : Bool := 1 ≤ n && n ≤ 15

/-- The elements of a list without later copies (R3). -/
def firstCopies : List Trunk → List Trunk
  | [] => []
  | t :: rest => t :: (firstCopies rest).filter (· != t)

/-- A block entry from its preference list and constants, duplicates removed and constants clamped to the
ranges of R2 (R3). -/
def makeBlockEntry (trunks : List Trunk) (k : BlockConstants) : BlockEntry where
  trunks := firstCopies trunks
  rpc := clampNat 20 300 k.rpc
  cpk := clampNat 30 80 k.cpk
  setupWait := clampNat 0 3 k.setupWait
  operateWait := clampNat 1 7 k.operateWait
  releaseGuard := clampNat 0 3 k.releaseGuard
  minLength := clampNat 0 30000 k.minLength
  settlePerKm := clampNat 0 100 k.settlePerKm

/-- The trunks that a list of numbers names, none if one is above 15 (R3). -/
def trunksOf : List Nat → Option (List Trunk)
  | [] => some []
  | n :: rest =>
    if h : n < 16 then (trunksOf rest).map (⟨n, h⟩ :: ·) else none

/-- The seven thresholds clamped to the ranges of R14 (R15). -/
def clampThresholds (t : Thresholds) : Thresholds where
  rshort := clampNat 1000 200000 t.rshort
  rground := clampNat 1000 200000 t.rground
  rinsul := clampNat 100000 20000000 t.rinsul
  vdcLimit := clampNat 1000 60000 t.vdcLimit
  vacLimit := clampNat 1000 60000 t.vacLimit
  longLoop := clampNat 0 30000 t.longLoop
  sampleCount := clampNat 4 64 t.sampleCount

/-- The N of a measurement: 0 asks for the office default; clamped to 4–64 (R49). -/
def sampleCountOf (given default : Nat) : Nat :=
  clampNat 4 64 (if given = 0 then default else given)

/-- The watch filter an argument names, none where R193 refuses it. -/
def filterOf : FilterArg → Option WatchFilter
  | .any => some .any
  | .own => some .own
  | .ownOperator => some .ownOperator
  | .ownAutomatic => some .ownAutomatic
  | .station n => if stationOk n then some (.station n) else none
  | .other => none

/-- A retest's stage set, from its ticket's class (R167). -/
def retestStages : FaultClass → StageSet
  | .foreignVoltage => ⟨true, false, false, false, false⟩
  | .short => ⟨true, false, true, false, false⟩
  | .ground => ⟨true, false, false, true, true⟩
  | .openLine => ⟨true, true, false, false, false⟩
  | .lowInsulation => ⟨true, true, true, true, true⟩
  | .pass => ⟨true, true, true, true, true⟩

/-- Whether a measurement with this stage set needs quiet (R49). -/
def needsQuiet (s : StageSet) : Bool := s.cap || s.resTG || s.resRG

/-- The first reading of the first stage named from RES-RG on. -/
def readingFromRG (s : StageSet) : Option Reading :=
  if s.resRG then some (.range .rg .high) else none

/-- The first reading of the first stage named from RES-TG on. -/
def readingFromTG (s : StageSet) : Option Reading :=
  if s.resTG then some (.range .tg .high) else readingFromRG s

/-- The first reading of the first stage named from RES-TR on. -/
def readingFromTR (s : StageSet) : Option Reading :=
  if s.resTR then some (.range .tr .high) else readingFromTG s

/-- The first reading of the first stage named from CAP on. -/
def readingFromCap (s : StageSet) : Option Reading :=
  if s.cap then some .cap else readingFromTR s

/-- The first reading of a measurement (R51, R52). -/
def firstReading (s : StageSet) : Option Reading :=
  if s.fv then some (.fv .tg) else readingFromCap s

/-- The first reading of the stage after the one this reading ends (R51). -/
def readingAfter (s : StageSet) : Reading → Option Reading
  | .fv .tg => some (.fv .rg)
  | .fv _ => readingFromCap s
  | .cap => readingFromTR s
  | .range .tr _ => readingFromTG s
  | .range .tg _ => readingFromRG s
  | .range .rg _ => none

end Sys2Proof.Machine
end

