-- ==== Sys2Proof/Machine/Arith.lean ====
section
/-! DEFINITION. The arithmetic of a measurement: foreign voltage, resistance, capacitance, length, settle
extension, class, deciding leg and value, distance (R45, R56 to R64). Divisions truncate toward zero unless
their rule rounds. -/

namespace Sys2Proof.Machine

/-- A division rounded to nearest, halves up. -/
def roundDiv (a b : Nat) : Nat := (2 * a + b) / (2 * b)

/-- The square root rounded down, one bit at a time from bit `k - 1`. -/
def sqrtBits : Nat → Nat → Nat → Nat
  | 0, r, _ => r
  | k + 1, r, v =>
    if (r + 2 ^ k) * (r + 2 ^ k) ≤ v then sqrtBits k (r + 2 ^ k) v else sqrtBits k r v

/-- The square root of a variance in counts squared, rounded down (R57); a variance is below 2^24. -/
def rootDown (v : Nat) : Nat := sqrtBits 12 0 v

/-- An answer's numbers taken within their possible ranges, for `n` samples (R45). -/
def limitAnswer (n : Nat) (a : HeadAnswer) : HeadAnswer where
  sum := clampInt (-(2048 * n)) (2047 * n) a.sum
  sumSquares := min (4194304 * n) a.sumSquares
  peak := min 2048 a.peak
  time := min 65535 a.time

/-- The variance in counts squared of `n` samples (R57). -/
def variance (n : Nat) (sum : Int) (sumSquares : Nat) : Nat :=
  ((n * sumSquares : Int) - sum * sum).toNat / (n * n)

/-- One leg's foreign voltage from an FV reading's limited numbers (R57). -/
def fvOf (a : HeadAnswer) : FvValue where
  dc := (a.sum * 250000).tdiv (2048 * Config.fvSamples)
  ac := rootDown (variance Config.fvSamples a.sum a.sumSquares) * 250000 / 2048
  saturated := 2040 ≤ a.peak

/-- The foreign DC of a leg (R58). -/
def foreignDC (r : MeasureRecord) (leg : Leg) : Int :=
  match r.fvTG, r.fvRG with
  | some tg, some rg =>
    match leg with
    | .tg => tg.dc
    | .rg => rg.dc
    | .tr => clampInt (-250000) 250000 (tg.dc - rg.dc)
  | _, _ => 0

/-- The current in nA (R59). -/
def legCurrent (range : Range) (sum : Int) (n : Nat) : Int :=
  (sum * Config.ifs range * 1000).tdiv (2048 * n)

/-- A leg's value from its last range reading: the first case of R59 that applies. -/
def legOf (range : Range) (sum : Int) (n : Nat) (dc : Int) (rtrunk : Nat) : LegValue :=
  let i := legCurrent range sum n
  let vnet : Int := Config.vsrc range - dc
  if vnet ≤ 0 ∨ i < 0 then ⟨range, none, false, false, true⟩
  else if sum.natAbs < n then ⟨range, some 50000000, true, false, false⟩
  else if range = .high ∧ 2040 * n ≤ sum.natAbs then ⟨range, some 0, false, true, false⟩
  else
    let rx := (vnet * 1000000).tdiv i - Config.rs range - rtrunk
    if rx < 0 then ⟨range, some 0, false, true, false⟩
    else if 50000000 < rx then ⟨range, some 50000000, true, false, false⟩
    else ⟨range, some rx.toNat, false, false, false⟩

/-- The capacitance with its flags, from the charge time (R60). -/
def capOf (t ctrunk : Nat) : CapValue where
  nf := roundDiv (t * 100000) 693147 - ctrunk
  overMark := 65535 ≤ t
  underMark := t < 10

/-- The length in m, from the charge time and the capacitance (R60). -/
def lengthOf (t nf cpk : Nat) : Nat :=
  if 65535 ≤ t then 30000
  else if t < 10 then 0
  else clampNat 0 30000 (roundDiv (nf * 1000) cpk)

/-- The settle extension for the length found by CAP (R56). -/
def extensionOf (length longLoop settlePerKm : Nat) : Nat :=
  if length ≤ longLoop then 0
  else min 1000 ((length - longLoop) / 1000 * settlePerKm)

/-- The settle a range reading asks for (R56). -/
def rangeSettle (range : Range) (extension : Nat) : Nat :=
  match range with
  | .high => 40 + extension
  | .low => 400 + extension

/-- A record's value for a leg. -/
def MeasureRecord.leg (r : MeasureRecord) : Leg → Option LegValue
  | .tr => r.legTR
  | .tg => r.legTG
  | .rg => r.legRG

/-- A leg's resistance, where it was measured and has one. -/
def MeasureRecord.ohms (r : MeasureRecord) (l : Leg) : Option Nat :=
  (r.leg l).bind (·.ohms)

/-- Whether a leg was found REVERSED. -/
def MeasureRecord.isReversed (r : MeasureRecord) (l : Leg) : Bool :=
  (r.leg l).any (·.reversed)

/-- A value offered for FOREIGN-VOLTAGE (R63). -/
structure FvOffer where
  leg : Leg
  component : Component
  value : Nat
  deriving DecidableEq, Repr

/-- The DC offer of an FV leg above the limit (R63). -/
def offerDC (t : Thresholds) (l : Leg) (v : Option FvValue) : List FvOffer :=
  match v with
  | some f => if t.vdcLimit < f.dc.natAbs then [⟨l, .dc, f.dc.natAbs⟩] else []
  | none => []

/-- The AC offer of an FV leg above the limit (R63). -/
def offerAC (t : Thresholds) (l : Leg) (v : Option FvValue) : List FvOffer :=
  match v with
  | some f => if t.vacLimit < f.ac then [⟨l, .ac, f.ac⟩] else []
  | none => []

/-- The two offers of a SATURATED FV leg (R63). -/
def offerSaturated (l : Leg) (v : Option FvValue) : List FvOffer :=
  match v with
  | some f => if f.saturated then [⟨l, .dc, f.dc.natAbs⟩, ⟨l, .ac, f.ac⟩] else []
  | none => []

/-- The offer of a REVERSED resistance leg (R63). -/
def offerReversed (r : MeasureRecord) (l : Leg) : List FvOffer :=
  if r.isReversed l then [⟨l, .dc, (foreignDC r l).natAbs⟩] else []

/-- Every offered value, in the order of R63. -/
def fvOffers (t : Thresholds) (r : MeasureRecord) : List FvOffer :=
  offerDC t .tg r.fvTG ++ offerDC t .rg r.fvRG ++ offerAC t .tg r.fvTG ++ offerAC t .rg r.fvRG ++
  offerSaturated .tg r.fvTG ++ offerSaturated .rg r.fvRG ++
  offerReversed r .tr ++ offerReversed r .tg ++ offerReversed r .rg

/-- The largest offer, the first of equal ones (R63). -/
def largestOffer : List FvOffer → Option FvOffer
  | [] => none
  | o :: rest =>
    match largestOffer rest with
    | none => some o
    | some p => if o.value < p.value then some p else some o

/-- The lowest of the legs that have a value, the first of equal ones (R64). -/
def lowestLeg (r : MeasureRecord) : List Leg → Option (Leg × Nat)
  | [] => none
  | l :: rest =>
    match r.ohms l, lowestLeg r rest with
    | none, m => m
    | some v, none => some (l, v)
    | some v, some (k, w) => if w < v then some (k, w) else some (l, v)

/-- Whether a leg has a value below a limit. -/
def MeasureRecord.legBelow (r : MeasureRecord) (l : Leg) (limit : Nat) : Bool :=
  (r.ohms l).any (· < limit)

/-- The class of a measurement that ends DONE: the first whose condition holds (R62). FOREIGN-VOLTAGE holds
exactly when R63 has a value to offer. -/
def classOf (k : Copies) (r : MeasureRecord) : FaultClass :=
  let t := k.thresholds
  if !(fvOffers t r).isEmpty then .foreignVoltage
  else if r.legBelow .tr t.rshort then .short
  else if r.legBelow .tg t.rground || r.legBelow .rg t.rground then .ground
  else if 0 < k.minLength && r.length.any (· < k.minLength) then .openLine
  else if r.legBelow .tr t.rinsul || r.legBelow .tg t.rinsul || r.legBelow .rg t.rinsul then .lowInsulation
  else .pass

/-- The deciding leg and value of a class (R63, R64). -/
def decidingOf (k : Copies) (r : MeasureRecord) : FaultClass → Option Deciding
  | .foreignVoltage => (largestOffer (fvOffers k.thresholds r)).map fun o => ⟨.leg o.leg (some o.component), o.value⟩
  | .short => (r.ohms .tr).map fun v => ⟨.leg .tr none, v⟩
  | .ground => (lowestLeg r [.tg, .rg]).map fun p => ⟨.leg p.1 none, p.2⟩
  | .openLine => r.length.map fun v => ⟨.length, v⟩
  | .lowInsulation => (lowestLeg r [.tr, .tg, .rg]).map fun p => ⟨.leg p.1 none, p.2⟩
  | .pass => none

/-- The distance to a short in m (R61). -/
def distanceOf (rx rpc : Nat) : Nat := clampNat 0 30000 (roundDiv (rx * 1000) (2 * rpc))

/-- A record classified as it ends DONE (R61, R62, R67). -/
def classified (k : Copies) (r : MeasureRecord) : MeasureRecord :=
  { r with
    cls := some (classOf k r)
    deciding := decidingOf k r (classOf k r)
    distance := if classOf k r = .short then (r.ohms .tr).map (distanceOf · k.rpc) else none
    outcome := some .done }

/-- Whether the FV values cut the measurement short (R53). -/
def fvCuts (t : Thresholds) (r : MeasureRecord) : Bool :=
  r.fvTG.any (fun f => 2 * t.vacLimit < f.ac || f.saturated) ||
  r.fvRG.any (fun f => 2 * t.vacLimit < f.ac || f.saturated)

end Sys2Proof.Machine
end

