-- ==== Sys2Proof/Machine/Answers.lean ====
section
/-! DEFINITION. What follows a result's code and count: the fields of each record in the order of its table, an absent
field as an absent mark, and the details of refusals (R197, R201; log entries 4 and 51). -/

namespace Sys2Proof.Machine

/-! ### Fields -/

/-- The absent mark of a part of a table's row: free bytes, kept apart from those of the number 0 there (R197). -/
def absentMark (t : RecordTable) (row part : Nat) : List Byte :=
  let m := Config.absentBytes t row part
  if m = Config.fieldBytes t row part (.number 0) then 0 :: m else m

/-- The bytes of a field: its value's, or its absent mark (R197). -/
def Field.bytes (f : Field) : List Byte :=
  match f.value with
  | some v => Config.fieldBytes f.table f.row f.part v
  | none => absentMark f.table f.row f.part

/-- The values of one row of a table, in the order of its cell. -/
abbrev Row := List (Option FieldValue)

/-- The fields of consecutive rows of a table, from a row on (R197). -/
def fieldsFrom (t : RecordTable) (row : Nat) (rs : List Row) : List Field :=
  (rs.mapIdx fun i r => r.mapIdx fun j v => ⟨t, row + i, j, v⟩).flatten

/-- The fields of a table's rows, from its first on (R197). -/
def fields (t : RecordTable) (rs : List Row) : List Field := fieldsFrom t 0 rs

/-- A number that is always present. -/
def num (n : Nat) : Option FieldValue := some (.number n)

/-- A number that may be absent. -/
def numOr (n : Option Nat) : Option FieldValue := n.map fun (k : Nat) => .number k

/-- A flag. -/
def yesNo (b : Bool) : Option FieldValue := some (.flag b)

/-- A row of several parts that is absent as a whole, or present (R197; log entry 51). -/
def orAbsent (o : Option α) (parts : α → Row) : Row :=
  match o with
  | none => [none]
  | some a => parts a

/-- A list: its length, then its entries in order (log entry 51). -/
def listRow (values : List FieldValue) : Row := some (.entries values.length) :: values.map some

/-! ### Records -/

/-- A block map entry (R2), or the absent mark of the removal form (R4). -/
def blockEntryFields (e : Option BlockEntry) : List Field :=
  fields .blockEntry
    (match e with
     | none => [[none]]
     | some e =>
       [listRow (e.trunks.map fun t => .number t.val), [num e.rpc], [num e.cpk], [num e.setupWait],
        [num e.operateWait], [num e.releaseGuard], [num e.minLength], [num e.settlePerKm]])

/-- The seven thresholds (R14). -/
def thresholdFields (t : Thresholds) : List Field :=
  fields .thresholds
    [[num t.rshort], [num t.rground], [num t.rinsul], [num t.vdcLimit], [num t.vacLimit], [num t.longLoop],
     [num t.sampleCount]]

/-- The deciding leg and value (R65). -/
def decidingRow (d : Option Deciding) : Row :=
  orAbsent d fun d => [some (.decidingLeg d.leg), num d.value]

/-- The session record, its last result as a summary (R21, R44). -/
def sessionFields (r : SessionReport) : List Field :=
  fields .session
    ([[some (.sessionState r.state)], [some (.purpose r.purpose)], [num r.line.val, num r.block.val, num r.trunk.val],
      [yesNo r.forced], [numOr r.relayStep], [numOr (r.quietHeld.map (·.val))], [r.deferredBy.map .holder],
      [yesNo r.cancelPending], [numOr r.linkedTicket], [yesNo r.frozenAtClaim]] ++
     (match r.lastResult with
      | none => [[none], [], [], []]
      | some m =>
        [[m.cls.map .cls], decidingRow m.deciding, [yesNo m.noisy, yesNo m.partialMark], [m.outcome.map .outcome]]) ++
     [[yesNo r.offHook]])

/-- One leg's foreign voltage (R65). -/
def fvRow (v : Option FvValue) : Row :=
  orAbsent v fun v => [some (.number v.dc), num v.ac, yesNo v.saturated]

/-- One measured leg (R65). -/
def legRow (v : Option LegValue) : Row :=
  orAbsent v fun v =>
    [some (.range v.range), numOr v.ohms, some (.marks v.overMark v.underMark v.reversed)]

/-- The result record (R65), or the absent mark of a last result that is absent (R73). -/
def measurementFields (r : Option MeasureRecord) : List Field :=
  fields .measurement
    (match r with
     | none => [[none]]
     | some r =>
       [[some (.stages r.stages), num r.n]] ++
       (if r.fvTG.isNone && r.fvRG.isNone then [[none], []] else [fvRow r.fvTG, fvRow r.fvRG]) ++
       [orAbsent r.cap fun v => [num v.nf, some (.marks v.overMark v.underMark false)],
        [numOr r.length], [num r.extension], legRow r.legTR, legRow r.legTG, legRow r.legRG,
        [r.cls.map .cls], decidingRow r.deciding, [numOr r.distance], [yesNo r.noisy, yesNo r.partialMark],
        [r.outcome.map .outcome]])

/-- An observation (R144). -/
def observationFields (o : Observation) : List Field :=
  fields .observation
    [[num o.time], [some (.source o.source)], [some (.cls o.cls)], decidingRow o.deciding, [yesNo o.noisy]]

/-- A ticket, its observations oldest first (R142, R159). -/
def ticketFields (t : Ticket) : List Field :=
  fields .ticket
    [[num t.number], [num t.line.val], [some (.ticketState t.state)], [some (.cls t.cls)], [num t.openedAt],
     [some (.origin t.origin)], [some (.entries t.observations.length)]] ++
  t.observations.flatMap observationFields ++
  fieldsFrom .ticket 7
    [orAbsent t.plan fun p => [num p.interval, num p.remaining, num p.nextDue],
     [num t.streak], [yesNo t.announcePending], [yesNo t.noteTaken], [yesNo t.noteHeldBack],
     orAbsent t.handover fun h =>
       [num h.target, num h.offeredAt, some (.ticketState (if h.priorRetest then .retest else .opened)),
        yesNo h.lapsed],
     orAbsent t.previousOwner fun p => [num p.1, num p.2]]

/-- An entry of TICKET LIST (R159). -/
def ticketEntryFields (t : TicketSummary) : List Field :=
  fields .ticketEntry
    [[num t.number], [num t.line.val], [some (.ticketState t.state)], [some (.cls t.cls)], [some (.origin t.origin)],
     [numOr t.nextDue]]

/-- A sweep record, or its absent mark (R178, R209). -/
def sweepFields (w : Option Sweep) : List Field :=
  fields .sweep
    (match w with
     | none => [[none]]
     | some w =>
       [[num w.first.val, num w.last.val], [some (.stages w.stages)], [num w.n.val], [some (.sweepPhase w.phase)],
        [num w.cursor.val], listRow (w.deferred.map fun l => .number l.val),
        [num w.tested, num w.failed, num w.skipped]])

/-- The name of a source filter (R186). -/
def filterName : WatchFilter → FilterName
  | .any => .any
  | .own => .own
  | .ownOperator => .ownOperator
  | .ownAutomatic => .ownAutomatic
  | .station _ => .station

/-- The station of a source filter, where it names one (R194). -/
def filterStation : WatchFilter → Row
  | .station n => [num n]
  | _ => []

/-- The watch setting and the capture record (R186, R194). -/
def watchFields (op : WatchOp) (l : Line) (f : WatchFilter) (k : Option Capture) (hits : Nat) : List Field :=
  fields .watch
    [[some (.watchOp op)], [num l.val], some (.filter (filterName f)) :: filterStation f,
     orAbsent k fun k =>
       [num k.station, some (.purpose k.purpose), num k.trunk.val, some (.channel k.channel), num k.time],
     [num hits]]

/-- An event record in the order of R202's table; the deciding leg and value of a MEASURE-DONE follow it
(log entry 39). -/
def eventFields (e : Event) : List Field :=
  fields .event
    ([[some (.eventKind e.kind)], [num e.time], [e.channel.map .channel], [numOr e.line], [numOr (e.trunk.map (·.val))],
      [numOr e.ticket], [numOr e.station], [e.outcome.map .eventOutcome], [e.linkCause.map .lostCause],
      orAbsent e.counts fun k => [num k.1, num k.2.1, num k.2.2],
      [e.sessionEnd.map .sessionEnd], [num e.lostBefore]] ++
     (match e.deciding with
      | none => []
      | some d => [decidingRow (some d)]))

/-! ### STATUS DETAIL (R209) -/

/-- A roster entry (R109). -/
def peerFields (p : PeerSummary) : List Field :=
  fields .peer [[num p.station], [num p.sinceHeard], [yesNo p.joining], [some (.entries p.holdings.length)]] ++
  p.holdings.flatMap (fun h => fields .holding [[num h.line.val], [num h.trunk.val], [some (.purpose h.purpose)]]) ++
  fieldsFrom .peer 4 [[some (.entries p.quiets.length)]] ++
  p.quiets.flatMap fun q => fields .quietBlock [[num q.1.val], [num q.2]]

/-- A trunk's condition, streak and declared-out-by (R5, R209). -/
def trunkEntryFields (t : TrunkSummary) : List Field :=
  fields .trunkEntry [[some (.condition t.condition)], [num t.streak], [t.declaredBy.map .declaredBy]]

/-- A quiet record: phase, block and wait list (R128, R209). -/
def quietFields (q : QuietSummary) : List Field :=
  fields .quiet [[some (.quietPhase q.phase)], [numOr (q.block.map (·.val))], listRow (q.waitList.map .holder)]

/-- The current item: kind, line, linked ticket and outcome, or its absent mark (R166, R209). -/
def itemFields (i : Option ItemSummary) : List Field :=
  fields .item
    (match i with
     | none => [[none]]
     | some i => [[some (.purpose i.purpose)], [num i.line.val], [numOr i.ticket], [i.outcome.map .itemOutcome]])

/-- The event mask, in the order of SET MASK (R206). -/
def maskRows (m : Mask) : List Row := [[yesNo m.session], [yesNo m.ticket], [yesNo m.automatic], [yesNo m.office]]

/-- The status report: configuration, link, roster, trunks, quiets, engine, port (R209). -/
def statusFields (r : StatusReport) : List Field :=
  fields .report
    [[yesNo r.configured], [numOr r.station], [r.autoChannel.map .channel], [yesNo r.lock], [some (.linkState r.link)],
     [r.cause.map .lostCause], [yesNo r.linkError], [yesNo r.clash], [num r.queued], [num r.held],
     [some (.entries r.roster.length)]] ++
  r.roster.flatMap peerFields ++ r.trunks.flatMap trunkEntryFields ++ quietFields r.quietA ++ quietFields r.quietB ++
  fields .engine [[some (.runState r.run)], [r.returnState.map .runState], [r.freezeCause.map .freezeCause]] ++
  itemFields r.item ++ sweepFields r.sweep ++
  fields .port ([[num r.events], [num r.lost]] ++ maskRows r.mask ++ [[num r.clock]])

/-! ### Answers -/

/-- The fields of ACCEPTED's values, in order (11.3, R197). -/
def answerFields : AnswerValues → List Field
  | .nothing => []
  | .linkState l => fields .linkState [[some (.linkState l)]]
  | .blockEntry e => blockEntryFields e
  | .trunkValues r c => fields .trunkValues [[num r], [num c]]
  | .thresholds t => thresholdFields t
  | .trunk t => fields .trunk [[num t.val]]
  | .session r => sessionFields r
  | .sampleCount n => fields .sampleCount [[num n]]
  | .lastResult r => measurementFields r
  | .ticketNumber n => fields .ticketNumber [[num n]]
  | .retestPlan i k d => fields .retestPlan [[num i], [num k], [numOr d]]
  | .ticket t => ticketFields t
  | .ticketList es more =>
    fields .ticketList [[some (.entries es.length)]] ++ es.flatMap ticketEntryFields ++
      fieldsFrom .ticketList 1 [[yesNo more]]
  | .sweepRange f l n => fields .sweepRange [[num f.val], [num l.val], [num n]]
  | .watch op l f k hits => watchFields op l f k hits
  | .event e => eventFields e
  | .status r => statusFields r
  | .mask m => fields .mask (maskRows m)

/-- The bytes of fields in order (R197). -/
def fieldsBytes (fs : List Field) : List Byte := fs.flatMap Field.bytes

/-- The bytes of a refusal's detail that has one value or is absent (R201). -/
def detailBytes (k : ResultCode) (values : Row) : List Byte := fieldsBytes (fields (.detail k) [values])

/-- The bytes of a result after its code and count: ACCEPTED's values field by field, or the detail of a refusal. A
trunk, a block, a station and a position that stand alone are one byte; every other value has free bytes (R197, R201;
log entry 4). -/
def payloadBytes : Answer → List Byte
  | .accepted (.trunk t) => [BitVec.ofNat 8 t.val]
  | .accepted v => fieldsBytes (answerFields v)
  | .badCommand => []
  | .badArgument n => [BitVec.ofNat 8 n]
  | .notConfigured => []
  | .locked => []
  | .busy c => detailBytes .busy [c.map .channel]
  | .wrongState => []
  | .linkDown l => detailBytes .linkDown [some (.linkState l)]
  | .linkBusy => []
  | .lineHeld (.station n) => [BitVec.ofNat 8 n]
  | .lineHeld .own => detailBytes .lineHeld [some (.holder .own)]
  | .noRoute b => [BitVec.ofNat 8 b.val]
  | .noTrunk b => [BitVec.ofNat 8 b.val]
  | .automaticChannel c => detailBytes .automaticChannel [c.map .channel]
  | .channelInUse c => detailBytes .channelInUse [some (.channel c)]
  | .noSession c => detailBytes .noSession [some (.channel c)]
  | .noTicket n => detailBytes .noTicket [num n]
  | .exists_ n => detailBytes .exists_ [num n]
  | .ownedElsewhere m n => detailBytes .ownedElsewhere [num m, num n]
  | .storeFull => []
  | .noPeer n => [BitVec.ofNat 8 n]
  | .noEvent => []

end Sys2Proof.Machine
end

