-- ==== Sys2Proof/Machine/Flags.lean ====
section
/-! DEFINITION. What the console processor reads at any moment without a command: the BUSY and DONE bits, the
status byte, INT and EVENT-WAITING; and the note mark. Each is computed from the state (log entry 8). -/

namespace Sys2Proof.Machine

/-- Whether an event is the completion of a channel (R203). -/
def Event.completes (e : Event) (c : Channel) : Bool :=
  e.kind.isCompletion && e.channel == some c

/-- General slots in use (R203). -/
def generalCount (events : List Event) : Nat :=
  (events.filter fun e => !e.kind.isCompletion).length

/-- Whether a session exists that the Automatic Engine began (R22). -/
def Session.isAutomatic (x : Session) : Bool :=
  x.state != .idle && x.purpose.automatic

/-- A channel's BUSY bit: a command has not completed, or an automatic session exists (R205). -/
def State.busy (s : State) (c : Channel) : Bool :=
  (s.chan c).command.isSome || (s.chan c).session.isAutomatic

/-- A channel's DONE bit: its completion is in the event queue (R205). -/
def State.done (s : State) (c : Channel) : Bool :=
  s.port.events.any (·.completes c)

/-- READY: the port takes the next byte, or has a result byte to be read (R195, R196). -/
def PortPhase.ready : PortPhase → Bool
  | .starting => false
  | .expectCommand => true
  | .expectCount => true
  | .expectArgument => true
  | .working => false
  | .result => true

/-- TO-CONSOLE: the port is in its result phase (R195, R196). -/
def PortPhase.toConsole : PortPhase → Bool
  | .result => true
  | _ => false

/-- COMMAND-ACTIVE: a command byte has been taken and its result phase has not ended (R195, R196). -/
def PortPhase.commandActive : PortPhase → Bool
  | .starting => false
  | .expectCommand => false
  | .expectCount => true
  | .expectArgument => true
  | .working => true
  | .result => true

/-- The status byte, bit 7 first; it reads 0 in STARTING (R195). -/
def State.statusByte (s : State) : Byte :=
  if s.port.phase = .starting then 0
  else
    BitVec.ofBool s.port.phase.ready ++ BitVec.ofBool s.port.phase.toConsole ++
    BitVec.ofBool s.port.phase.commandActive ++ BitVec.ofBool (!s.port.events.isEmpty) ++
    BitVec.ofBool (s.busy .a) ++ BitVec.ofBool (s.done .a) ++
    BitVec.ofBool (s.busy .b) ++ BitVec.ofBool (s.done .b)

/-- Whether the mask masks a class (R206). -/
def maskHides (m : Mask) : EventClass → Bool
  | .session => m.session
  | .ticket => m.ticket
  | .automatic => m.automatic
  | .office => m.office

/-- INT: an unmasked event is queued; released in STARTING (R206). -/
def State.interrupt (s : State) : Bool :=
  s.port.phase != .starting && s.port.events.any fun e => !maskHides s.port.mask e.kind.cls

/-- Whether the station sends frames of its own queue and takes frames: JOINING or ACTIVE, and no reset under
way (R87, R95). -/
def State.onLine (s : State) : Bool :=
  (s.link.state == .joining || s.link.state == .active) && s.port.phase != .starting

/-- Whether the Ticket Store has entries to announce (R151). -/
def TicketStore.hasNotes (t : TicketStore) : Bool :=
  !t.closedNotes.isEmpty || t.tickets.any fun k => k.announcePending && !k.noteHeldBack

/-- The note mark (R85, R151). -/
def State.noteMark (s : State) : Bool :=
  s.onLine && s.ticketStore.hasNotes && !s.link.queue.any (·.body == .noteMark)

end Sys2Proof.Machine
end

