-- ==== Sys2Proof/Machine/Ops.lean ====
section
/-! DEFINITION. The shared operations of the Console Port: events entering the queue, results, the command
phase around a command, and the millisecond of idling. -/

namespace Sys2Proof.Machine

/-! ### Events (R202 to R204) -/

/-- An event enters the queue: it takes the office clock and the lost count, which returns to 0 (R204). -/
def enterEvent (e : Event) (s : State) : State :=
  { s with port := { s.port with
      events := s.port.events ++ [{ e with time := s.store.clock, lostBefore := s.port.lost }]
      lost := 0 } }

/-- A block hands the port an event that is no completion: it enters a general slot, or is dropped and counted
(R204). -/
def emit (e : Event) (s : State) : State :=
  if generalCount s.port.events < Config.eventSlots then enterEvent e s
  else { s with port := { s.port with lost := min Config.countMax (s.port.lost + 1) } }

/-- A channel's completion enters its reserved slot, when that slot is free (R203), and BUSY clears (R38,
R205). -/
def complete (c : Channel) (e : Event) (s : State) : State :=
  (if s.done c then s else enterEvent { e with channel := some c } s).setCommand c none

/-- Write a session's end into the channel's waiting completion (R42). -/
def writeSessionEnd (c : Channel) (cause : SessionEndCause) (s : State) : State :=
  { s with port := { s.port with
      events := s.port.events.map fun e =>
        if e.completes c then { e with sessionEnd := some cause } else e } }

/-- A LINK-STATE event with the link's state as it stands (R87). -/
def emitLinkState (s : State) : State :=
  emit { kind := .linkState, outcome := some (.link s.link.state), linkCause := s.link.cause } s

/-! ### Blocks and trunks -/

/-- The entry of a block (R2). -/
def State.blockEntry (s : State) (b : Block) : Option BlockEntry := s.store.blocks[b.val]

/-- The entry of a trunk (R5). -/
def State.trunkEntry (s : State) (t : Trunk) : TrunkEntry := s.store.trunks[t.val]

/-- Replace a trunk's entry. -/
def State.setTrunk (t : Trunk) (e : TrunkEntry) (s : State) : State :=
  s.updStore fun r => { r with trunks := r.trunks.set t.val e }

/-- Replace a block's entry. -/
def State.setBlock (b : Block) (e : Option BlockEntry) (s : State) : State :=
  s.updStore fun r => { r with blocks := r.blocks.set b.val e }

/-- A block's waits in ms, setup, operate and guard (R2, R17). A session's block is present while the session
exists (R3); the defaults stand in for an absent one. -/
def State.setupTime (s : State) (b : Block) : Nat :=
  ((s.blockEntry b).map (·.setupWait)).getD Config.blockDefaults.setupWait * Config.setupUnit

/-- See `State.setupTime`. -/
def State.operateTime (s : State) (b : Block) : Nat :=
  ((s.blockEntry b).map (·.operateWait)).getD Config.blockDefaults.operateWait * Config.operateUnit

/-- See `State.setupTime`. -/
def State.guardTime (s : State) (b : Block) : Nat :=
  ((s.blockEntry b).map (·.releaseGuard)).getD Config.blockDefaults.releaseGuard * Config.guardUnit

/-! ### Results (R197, R201) -/

/-- Whether a result's count has two bytes: every result of STATUS DETAIL, its report or a refusal (R197). -/
def countIsWide (k : Option CommandName) (a : Answer) : Bool :=
  k == some .statusDetail || (match a with | .accepted (.status _) => true | _ => false)

/-- The count bytes: two, most significant first, for STATUS DETAIL, else one (R197). -/
def countBytes (wide : Bool) (n : Nat) : List Byte :=
  if wide then [BitVec.ofNat 8 (n / 256), BitVec.ofNat 8 n] else [BitVec.ofNat 8 n]

/-- The most bytes a count can announce (R197). -/
def countLimit (wide : Bool) : Nat := if wide then 65535 else 255

/-- A result as the port gives it out: code, count, following bytes (R197). `k` is the command of a phase that is given
byte by byte. -/
def resultBytes (k : Option CommandName) (a : Answer) : List Byte :=
  let body := (payloadBytes a).take (countLimit (countIsWide k a))
  Config.resultCodeByte a.code :: (countBytes (countIsWide k a) body.length ++ body)

/-- The port holds a result and is in a phase: RESULT, or WORKING while it is being built (R196). `k` is the command
whose bytes have been written. -/
def holdResult (phase : PortPhase) (k : Option CommandName) (a : Answer) (s : State) : State :=
  { s with port := { s.port with
      phase := phase, command := none, remaining := 0, args := []
      answer := some a
      result := resultBytes k a } }

/-- A console command given whole: taken in EXPECT-COMMAND, its result phase begun; in any other phase no
command is taken (R196, R198; log entry 2). -/
def commandPhase (take : State → Answer × State) (s : State) : State :=
  if s.port.phase = .expectCommand then holdResult .result none (take s).1 (take s).2 else s

/-- ACCEPTED with no values. -/
def accepted (s : State) : Answer × State := (.accepted .nothing, s)

/-- A refusal: it changes nothing (R200). -/
def refuse (a : Answer) (s : State) : Answer × State := (a, s)

/-! ### Idling -/

/-- A millisecond passes with no command and no event: the millisecond timer counts, and a port in WORKING
enters RESULT (log entries 3 and 5). -/
def idle (s : State) : State :=
  { s with
    now := s.now + 1
    port := { s.port with phase := if s.port.phase = .working then .result else s.port.phase } }

end Sys2Proof.Machine
end

