-- ==== Sys2Proof/Machine/TicketOps.lean ====
section
/-! DEFINITION. The Ticket Store's own operations: finding, adding, evicting and removing tickets, the index,
the closed-note list, observations, and the return of a handover (R142 to R145, R151, R163). -/

namespace Sys2Proof.Machine

/-- An open ticket is one in OPEN, RETEST or HANDOVER (R142). -/
def Ticket.isOpen (t : Ticket) : Bool := t.state != .cleared

/-- The store's ticket for a line. -/
def TicketStore.byLine (ts : TicketStore) (l : Line) : Option Ticket := ts.tickets.find? (·.line == l)

/-- The store's ticket with a number. -/
def TicketStore.byNumber (ts : TicketStore) (n : TicketNo) : Option Ticket :=
  ts.tickets.find? (·.number == n)

/-- The index entry for a line (R145). -/
def TicketStore.indexFor (ts : TicketStore) (l : Line) : Option IndexEntry := ts.index.find? (·.line == l)

/-- Change the ticket with a number. -/
def updateTicket (n : TicketNo) (f : Ticket → Ticket) (ts : TicketStore) : TicketStore :=
  { ts with tickets := ts.tickets.map fun t => if t.number = n then f t else t }

/-- Remove the ticket with a number. -/
def removeTicket (n : TicketNo) (ts : TicketStore) : TicketStore :=
  { ts with tickets := ts.tickets.filter (·.number != n) }

/-- A ticket's note entry: open for an open ticket, closed for a CLEARED one (R152). -/
def noteEntryOf (t : Ticket) : NoteEntry := ⟨t.line, t.number, t.isOpen, t.cls⟩

/-- A ticket's closed entry (R151). -/
def closedEntryOf (t : Ticket) : NoteEntry := ⟨t.line, t.number, false, t.cls⟩

/-- A closed entry joins the closed-note list; a full list loses its oldest (R151). -/
def addClosedNote (e : NoteEntry) (ts : TicketStore) : TicketStore :=
  { ts with closedNotes :=
      (if ts.closedNotes.length < Config.closedNoteSlots then ts.closedNotes else ts.closedNotes.drop 1) ++ [e] }

/-- Whether a ticket can be opened or taken in: room, or a CLEARED ticket to evict (R143). -/
def TicketStore.hasRoom (ts : TicketStore) : Bool :=
  decide (ts.tickets.length < Config.ticketSlots) || ts.tickets.any (·.state == .cleared)

/-- Make room in a full store by evicting the first CLEARED ticket; the closed entry of an announce-pending one
moves to the closed-note list (R143). -/
def evict (ts : TicketStore) : TicketStore :=
  if ts.tickets.length < Config.ticketSlots then ts
  else
    match ts.tickets.find? (·.state == .cleared) with
    | none => ts
    | some t =>
      removeTicket t.number (if t.announcePending then addClosedNote (closedEntryOf t) ts else ts)

/-- The number after a ticket number, wrapping from 9,999 to 1 (R143). -/
def numberAfter (n : TicketNo) : TicketNo := if n < Config.ticketMax then n + 1 else 1

/-- The first number from `n` on that no ticket has; `fuel` tickets can be in the way (R143). -/
def freeNumber (ts : TicketStore) : Nat → TicketNo → TicketNo
  | 0, n => n
  | fuel + 1, n => if ts.tickets.any (·.number == n) then freeNumber ts fuel (numberAfter n) else n

/-- The number the next ticket takes (R143). -/
def newNumber (ts : TicketStore) : TicketNo := freeNumber ts ts.tickets.length ts.nextNumber

/-- Add a ticket at the end of the store, room being made first; the counter moves one past its number
(R143). -/
def addTicket (mk : TicketNo → Ticket) (ts : TicketStore) : TicketStore :=
  let r := evict ts
  { r with tickets := r.tickets ++ [mk (newNumber r)], nextNumber := numberAfter (newNumber r) }

/-- The number that `addTicket` gives. -/
def numberGiven (ts : TicketStore) : TicketNo := newNumber (evict ts)

/-- Add or replace the index entry for a line; a full index takes no new line (R145). -/
def putIndex (e : IndexEntry) (ts : TicketStore) : TicketStore :=
  { ts with index :=
      if ts.index.any (·.line == e.line) then ts.index.map fun x => if x.line = e.line then e else x
      else if ts.index.length < Config.indexSlots then ts.index ++ [e]
      else ts.index }

/-- Remove the index entry for a line. -/
def dropIndexLine (l : Line) (ts : TicketStore) : TicketStore :=
  { ts with index := ts.index.filter (·.line != l) }

/-- Mark every open ticket announce-pending: when this station joins and when another joins (R151). -/
def announceOpen (ts : TicketStore) : TicketStore :=
  { ts with tickets := ts.tickets.map fun t => if t.isOpen then { t with announcePending := true } else t }

/-- Note held back becomes no for one ticket (R161). -/
def releaseNote (n : TicketNo) (ts : TicketStore) : TicketStore :=
  updateTicket n (fun t => { t with noteHeldBack := false }) ts

/-- Note held back becomes no for every ticket (R161). -/
def releaseAllNotes (ts : TicketStore) : TicketStore :=
  { ts with tickets := ts.tickets.map fun t => { t with noteHeldBack := false } }

/-- An event of a ticket (R165). -/
def ticketEvent (k : EventKind) (t : Ticket) : Event :=
  { kind := k, ticket := some t.number, line := some t.line.val }

/-- A TICKET-OPENED, TICKET-CLEARED or RETEST-EXHAUSTED of a ticket, with its class (R165). -/
def ticketClassEvent (k : EventKind) (t : Ticket) : Event :=
  { ticketEvent k t with outcome := some (.cls t.cls) }

/-- An observation joins a list; a full one loses its oldest (R144). -/
def addObservation (o : Observation) (l : List Observation) : List Observation :=
  (if l.length < Config.observationSlots then l else l.drop 1) ++ [o]

/-- What an observation does to its ticket (R144). -/
def observed (o : Observation) (t : Ticket) : Ticket :=
  let u := { t with observations := addObservation o t.observations }
  if o.cls.failing && !o.noisy then
    if t.state = .cleared then
      { u with cls := o.cls, streak := 0, state := .opened, announcePending := true }
    else
      { u with
        cls := o.cls
        streak := 0
        announcePending := t.announcePending || (t.noteTaken && t.cls != o.cls) }
  else u

/-- Append an observation to the ticket with a number; a reopened ticket queues TICKET-OPENED (R144). -/
def appendObservation (n : TicketNo) (o : Observation) (s : State) : State :=
  match s.ticketStore.byNumber n with
  | none => s
  | some t =>
    let s' := s.updTickets (updateTicket n (observed o))
    if t.state = .cleared && o.cls.failing && !o.noisy then
      emit (ticketClassEvent .ticketOpened (observed o t)) s'
    else s'

/-- A ticket back from HANDOVER in its prior state; a lapsed field is kept (R163). -/
def handoverReturned (keepLapsed : Bool) (t : Ticket) : Ticket :=
  match t.handover with
  | none => t
  | some h =>
    { t with
      state := if h.priorRetest then .retest else .opened
      handover := if keepLapsed then some { h with lapsed := true } else none }

/-- A handover in progress fails: the ticket returns and HANDOVER-FAILED is queued with the reason (R163). -/
def failHandover (t : Ticket) (h : Handover) (r : HandoverReason) (s : State) : State :=
  emit { ticketEvent .handoverFailed t with station := some h.target, outcome := some (.handover r) }
    (s.updTickets (updateTicket t.number (handoverReturned (r = .timeout))))

/-- The handover that is in progress on a ticket. -/
def Ticket.inHandover (t : Ticket) : Option Handover :=
  if t.state = .handover then t.handover else none

end Sys2Proof.Machine
end

