-- ==== Sys2Proof/WellFormed.lean ====
section
/-! DEFINITION. Which frames fit their kind (R76, R78), and which rows are well formed: a row about a frame of
another station carries a station number 1–15 and a body that fits its kind. -/

namespace Sys2Proof

/-- A station number 1–15 (R75). -/
def stationFits (n : Station) : Bool := 1 ≤ n && n ≤ 15

/-- A ticket number 1–9,999 (R142). -/
def numberFits (n : TicketNo) : Bool := 1 ≤ n && n ≤ 9999

/-- A value a body field of four bytes can carry: a deciding value, an age in s, a time to next due. -/
def wordFits (n : Nat) : Bool := n ≤ 4294967295

/-- An observation's fields fit: a deciding value is a body quantity (R144). A class PASS with a deciding leg and value
fits, and is stored as it comes: the model's choice (log entry 48). -/
def ObsData.fits (o : ObsData) : Bool := o.deciding.all fun d => wordFits d.value

/-- A note entry fits: its number, and a failing class (R142, R151). -/
def NoteEntry.fits (e : NoteEntry) : Bool := numberFits e.number && e.cls.failing

/-- A retest plan inside a HAND-OFFER fits: interval 1–240 min, count 1–15 (R142, R160). -/
def OfferPlan.fits (p : OfferPlan) : Bool :=
  1 ≤ p.interval && p.interval ≤ 240 && 1 ≤ p.remaining && p.remaining ≤ 15 && wordFits p.dueIn

/-- A HAND-OFFER's body fits (R160). -/
def HandOffer.fits (o : HandOffer) : Bool :=
  stationFits o.target && numberFits o.number && o.cls.failing && wordFits o.age &&
  o.plan.all OfferPlan.fits && o.obs.fits

/-- A body fits its kind (R76, R78; log entry 9). -/
def FrameBody.fits : FrameBody → Bool
  | .release _ _ => true
  | .quietBusy _ r => stationFits r
  | .quietClear _ r => stationFits r
  | .quietEnd _ => true
  | .claim _ _ _ _ => true
  | .quiet _ => true
  | .ticketNote es => 1 ≤ es.length && es.length ≤ 4 && es.all NoteEntry.fits
  | .ticketAdd o n _ obs => stationFits o && numberFits n && obs.fits
  | .handOffer o => o.fits
  | .handAccept o n m => stationFits o && numberFits n && numberFits m
  | .handRefuse o n _ => stationFits o && numberFits n
  | .trunkNotice _ _ => true
  | .presence _ hs qs =>
    hs.length ≤ 2 && qs.length ≤ 2 && decide (hs.map (fun h => (h.line, h.trunk))).Nodup && decide qs.Nodup

/-- A frame another station can have sent: its sender's number and its body fit (R78). -/
def frameFits (sender : Station) (b : FrameBody) : Bool := stationFits sender && b.fits

/-- The frame a row says was taken from another station, with its sender. -/
def Instr.frame : Instr → Option (Station × FrameBody)
  | .claimTaken s l t p c => some (s, .claim l t p c)
  | .releaseFrameTaken s l t => some (s, .release l t)
  | .presenceTaken s j hs qs => some (s, .presence j hs qs)
  | .quietTaken s b => some (s, .quiet b)
  | .quietEndTaken s b => some (s, .quietEnd b)
  | .quietBusyTaken s b r => some (s, .quietBusy b r)
  | .quietClearTaken s b r => some (s, .quietClear b r)
  | .ticketNoteTaken s es => some (s, .ticketNote es)
  | .ticketAddTaken s o n l obs => some (s, .ticketAdd o n l obs)
  | .handOfferTaken s o => some (s, .handOffer o)
  | .handAcceptTaken s o n m => some (s, .handAccept o n m)
  | .handRefuseTaken s o n r => some (s, .handRefuse o n r)
  | .trunkNoticeTaken s t o => some (s, .trunkNotice t o)
  | .lostFrameHeard s b => some (s, b)
  | _ => none

/-- A row is well formed: a frame it carries fits, and a station it names is 1–15. -/
def Instr.wf (i : Instr) : Bool :=
  match i with
  | .peerSilent n => stationFits n
  | .foreignQuietLapse n _ => stationFits n
  | .handoverTimeout n => numberFits n
  | i => i.frame.all fun p => frameFits p.1 p.2

end Sys2Proof
end

