-- ==== Sys2Proof/Machine/Wire.lean ====
section
/-! DEFINITION. The frame on the wire: kinds and their first urgencies, the arbitration field, the check value, the
inserted bits, and the receiver's check (R74 to R78). Bit times are left out (log entry 24). -/

namespace Sys2Proof.Machine

/-- The urgency at which a kind is first queued (R76). -/
def urgencyOf : FrameBody → Nat
  | .release _ _ => 0
  | .quietBusy _ _ => 0
  | .quietClear _ _ => 0
  | .quietEnd _ => 0
  | .claim _ _ _ _ => 1
  | .quiet _ => 1
  | .ticketNote _ => 2
  | .ticketAdd _ _ _ _ => 2
  | .handOffer _ => 2
  | .handAccept _ _ _ => 2
  | .handRefuse _ _ _ => 2
  | .trunkNotice _ _ => 2
  | .presence _ _ _ => 3

/-- The kind numbers, in the order of the kinds table (R75, R76). -/
def kindOf : FrameBody → Nat
  | .release _ _ => 0
  | .quietBusy _ _ => 1
  | .quietClear _ _ => 2
  | .quietEnd _ => 3
  | .claim _ _ _ _ => 4
  | .quiet _ => 5
  | .ticketNote _ => 6
  | .ticketAdd _ _ _ _ => 7
  | .handOffer _ => 8
  | .handAccept _ _ _ => 9
  | .handRefuse _ _ _ => 10
  | .trunkNotice _ _ => 11
  | .presence _ _ _ => 12

/-- The urgency at which a queued body is first queued: a mark's frame is a PRESENCE or a TICKET-NOTE. -/
def queuedUrgency : QueuedBody → Nat
  | .built b => urgencyOf b
  | .presenceMark => 3
  | .noteMark => 2

/-- The arbitration field: urgency, sender station, kind, most significant first (R75). -/
def arbitrationField (urgency : BitVec 2) (sender : BitVec 4) (kind : BitVec 4) : BitVec 10 :=
  urgency ++ sender ++ kind

/-- The bits of a word, most significant first (R75). -/
def bitsOf {w : Nat} (v : BitVec w) : List Bool := (List.range w).map fun i => v.getMsbD i

/-- One bit into the check register: generator x^16 + x^12 + x^5 + 1 (R75). -/
def checkBit (r : BitVec 16) (b : Bool) : BitVec 16 :=
  if (r.getMsbD 0).xor b then (r <<< 1) ^^^ 0x1021#16 else r <<< 1

/-- The check value of a run of bits, initial value all ones (R75). -/
def checkValue (bits : List Bool) : BitVec 16 := bits.foldl checkBit 0xffff#16

/-- The body bytes of a frame, most significant bit first; at most 20 (R75, R76). -/
def bodyBytes (b : FrameBody) : List Byte := (List.range (Config.bodyLength b).val).map (Config.bodyByte b)

/-- The bits from urgency to the end of the body: what the check value covers (R75). -/
def coveredBits (urgency : BitVec 2) (sender : BitVec 4) (b : FrameBody) : List Bool :=
  bitsOf (arbitrationField urgency sender (BitVec.ofNat 4 (kindOf b))) ++
  bitsOf (BitVec.ofNat 5 (bodyBytes b).length) ++
  (bodyBytes b).flatMap bitsOf

/-- Insert one bit of the opposite level after every five equal bits (R74). `run` equal bits of level `last`
have just been sent. -/
def insertBits : List Bool → Bool → Nat → List Bool
  | [], _, _ => []
  | b :: rest, last, run =>
    if b = last ∧ run = 4 then b :: (!b) :: insertBits rest (!b) 1
    else if b = last then b :: insertBits rest b (run + 1)
    else b :: insertBits rest b 1

/-- Remove the inserted bits; none where a bit after five equal bits is not of the opposite level (R74, R78). -/
def removeBits : List Bool → Bool → Nat → Option (List Bool)
  | [], _, run => if run = 5 then none else some []
  | b :: rest, last, run =>
    if run = 5 then if b = last then none else removeBits rest b 1
    else if b = last then (removeBits rest b (run + 1)).map (b :: ·)
    else (removeBits rest b 1).map (b :: ·)

/-- What a sender puts on the line for one frame, a dominant bit as `false`: start bit through check value with
its inserted bits, the two slots sent recessive, seven recessive end bits (R74, R75). -/
def frameBits (urgency : BitVec 2) (sender : BitVec 4) (b : FrameBody) : List Bool :=
  let covered := coveredBits urgency sender b
  insertBits (false :: (covered ++ bitsOf (checkValue covered))) true 0 ++ List.replicate 9 true

/-- The number that bits spell, most significant first (R75). -/
def numberOf (bits : List Bool) : Nat := bits.foldl (fun n b => 2 * n + b.toNat) 0

/-- The first bytes that bits spell (R75). -/
def bytesOf : Nat → List Bool → List Byte
  | 0, _ => []
  | n + 1, bits => BitVec.ofNat 8 (numberOf (bits.take 8)) :: bytesOf n (bits.drop 8)

/-- Why a receiver's check fails (R78). -/
inductive CheckFailure | insertion | length | kind | sender | body | checkValue
  deriving DecidableEq, Repr

/-- What a receiver's check finds (R78). -/
inductive FrameCheck
  | passed (sender : Station) (body : FrameBody)
  | failed (why : CheckFailure)
  deriving DecidableEq, Repr

/-- The check of a frame's bits from urgency through check value, their inserted bits removed (R75, R78). -/
def checkFields (bits : List Bool) : FrameCheck :=
  let sender := numberOf ((bits.drop 2).take 4)
  let kind := numberOf ((bits.drop 6).take 4)
  let length := numberOf ((bits.drop 10).take 5)
  if 20 < length then .failed .length
  else if 12 < kind then .failed .kind
  else if !stationFits sender then .failed .sender
  else
    match Config.bodyOfBytes kind (bytesOf length (bits.drop 15)) with
    | none => .failed .body
    | some b =>
      if !b.fits || kindOf b != kind then .failed .body
      else if bits.drop (15 + 8 * length) = bitsOf (checkValue (bits.take (15 + 8 * length))) then .passed sender b
      else .failed .checkValue

/-- A receiver's check of what it reads from the start bit to the heard slot (R74, R78). -/
def checkFrame (read : List Bool) : FrameCheck :=
  match removeBits read true 0 with
  | none => .failed .insertion
  | some bits => checkFields (bits.drop 1)

/-- The slot that a receiver drives dominant: heard after a passed check, objection after a failed one (R78). -/
def slotFor (passed : Bool) : Slot := if passed then .heard else .objection

/-- Whether a check has passed. -/
def FrameCheck.isPassed : FrameCheck → Bool
  | .passed _ _ => true
  | .failed _ => false

/-- The line's level for the bits several stations send: dominant if any sends a dominant bit (R74). -/
def lineLevel (sent : List Bool) : Bool := sent.all id

/-- One bit of arbitration: a station that sends a recessive bit and reads a dominant one has lost (R77). -/
def losesBit (sent line : Bool) : Bool := sent && !line

end Sys2Proof.Machine
end

