-- ==== Sys2Proof/Machine/Transmit.lean ====
section
/-! DEFINITION. The transmit queue, the waiting urgency-0 frames, the holding area and the marks (R82 to R86).
-/

namespace Sys2Proof.Machine

/-- A frame first queued at urgency 1, 2 or 3 (R82). -/
def QueuedFrame.low (f : QueuedFrame) : Bool := f.first != 0

/-- Frames in the queue first queued at urgency 1–3 (R82). -/
def lowCount (q : List QueuedFrame) : Nat := (q.filter QueuedFrame.low).length

/-- Room for a frame of urgency 1–3 after `ahead` others have entered: fewer than 8 of that group, fewer than
12 in all, and no urgency-0 frame waiting for a slot (R82, R83; log entry 16). -/
def Link.roomLow (l : Link) (ahead : Nat) : Bool :=
  decide (lowCount l.queue + ahead < Config.lowSlots) && decide (l.queue.length + ahead < Config.queueSlots) &&
    l.waiting.isEmpty

/-- Whether a frame is on the wire (R77). -/
def Link.onWire (l : Link) (f : QueuedFrame) : Bool := l.wire.any (·.entry == f.entry)

/-- A frame as it enters: its kind's urgency, counts of 0 (R82). -/
def newFrame (body : QueuedBody) (origin : Option Channel) (entry : Nat) : QueuedFrame where
  body := body
  first := queuedUrgency body
  urgency := queuedUrgency body
  entry := entry
  voids := 0
  losses := 0
  aged := false
  origin := origin

/-- A frame enters the queue with the next entry order (R82). -/
def enqueue (body : QueuedBody) (origin : Option Channel) (s : State) : State :=
  s.updLink fun l =>
    { l with queue := l.queue ++ [newFrame body origin l.nextEntry], nextEntry := l.nextEntry + 1 }

/-- LINK-ERROR is set; a change from clear queues a LINK-STATE event with outcome LINK-ERROR (R94). -/
def setLinkError (s : State) : State :=
  if s.link.linkError then s
  else emit { kind := .linkState, outcome := some .linkError } (s.updLink fun l => { l with linkError := true })

/-- The Ticket Store is told that one of its frames has been dropped: a HAND-OFFER's handover fails (R163), and
a HAND-ACCEPT's ticket need not hold its note back (R161). The handover is found by the ticket's number and the target
alone, so that the drop of an older offer fails a newer handover too: the model's choice (log entry 47). -/
def tellDropped (b : FrameBody) (s : State) : State :=
  match b with
  | .handOffer o =>
    match s.ticketStore.byNumber o.number with
    | none => s
    | some t =>
      match t.inHandover with
      | none => s
      | some h => if h.target = o.target then failHandover t h .linkError s else s
  | .handAccept _ _ n => s.updTickets (releaseNote n)
  | _ => s

/-- See `tellDropped`; a mark's frame has no block waiting for it. -/
def tellDroppedFrame (f : QueuedFrame) (s : State) : State :=
  match f.body with
  | .built b => tellDropped b s
  | .presenceMark => s
  | .noteMark => s

/-- A frame comes to the holding area; a full one drops the frame that has waited longest (R84). -/
def holdFrame (f : QueuedFrame) (s : State) : State :=
  match s.link.holding with
  | [] => s.updLink fun l => { l with holding := [f] }
  | oldest :: rest =>
    if rest.length + 1 < Config.holdingSlots then s.updLink fun l => { l with holding := l.holding ++ [f] }
    else
      tellDroppedFrame oldest (setLinkError (s.updLink fun l => { l with holding := rest ++ [f] }))

/-- A frame of urgency 1–3 has left the queue: the Automatic Engine no longer waits for room (R166). -/
def lowFrameLeft (s : State) : State := s.updAuto fun a => { a with waitingForRoom := false }

/-- A frame leaves the queue. -/
def removeFrame (f : QueuedFrame) (s : State) : State :=
  (if f.low then lowFrameLeft s else s).updLink fun l => { l with queue := l.queue.filter (·.entry != f.entry) }

/-- The frame a withdrawal or a displacement takes out of the queue, where one is queued: the last that
satisfies a condition and is not on the wire. -/
def Link.lastOffWire (l : Link) (p : QueuedFrame → Bool) : Option QueuedFrame :=
  l.queue.reverse.find? fun f => p f && !l.onWire f

/-- What becomes of a displaced frame: a PRESENCE returns to its mark, a TICKET-NOTE to the computed note mark,
any other goes to the holding area with counts of 0 (R83). -/
def displaced (f : QueuedFrame) (s : State) : State :=
  match f.body with
  | .presenceMark => s.updLink fun l => { l with presenceMark := true }
  | .noteMark => s
  | .built _ => holdFrame { f with voids := 0, losses := 0 } s

/-- An urgency-0 frame comes to the queue: it enters a free slot that none waits for; it displaces the newest frame
first queued at urgency 2 or 3 of a full queue, whether others wait or not; or it waits for a slot behind those that
wait (R82, R83). -/
def offerUrgent (b : FrameBody) (origin : Option Channel) (s : State) : State :=
  let wait := s.updLink fun l => { l with waiting := l.waiting ++ [newFrame (.built b) origin 0] }
  if s.link.queue.length < Config.queueSlots then
    if s.link.waiting.isEmpty then enqueue (.built b) origin s else wait
  else
    match s.link.lastOffWire fun f => decide (2 ≤ f.first) with
    | none => wait
    | some f => displaced f (enqueue (.built b) origin (removeFrame f s))

/-- A TICKET-ADD, HAND-OFFER, HAND-ACCEPT, HAND-REFUSE or TRUNK-NOTICE comes to the queue: it enters where
there is room and none waits in the holding area, else it waits there (R82, R84). -/
def offerNotice (b : FrameBody) (s : State) : State :=
  if s.link.holding.isEmpty && s.link.roomLow 0 then enqueue (.built b) none s
  else holdFrame (newFrame (.built b) none 0) s

/-- The frame with a channel's CLAIM, QUIET or other frame of a kind. -/
def Link.channelFrame (l : Link) (c : Channel) (kind : Nat) : Option QueuedFrame :=
  l.queue.find? fun f =>
    f.origin == some c && (match f.body with | .built b => kindOf b == kind | _ => false)

/-- A channel's queued CLAIM. -/
def Link.claimFrame (l : Link) (c : Channel) : Option QueuedFrame := l.channelFrame c 4

/-- A channel's queued QUIET. -/
def Link.quietFrame (l : Link) (c : Channel) : Option QueuedFrame := l.channelFrame c 5

/-- Whether a frame of a channel is on the wire. -/
def frameOnWire (l : Link) (f : Option QueuedFrame) : Bool := f.any l.onWire

/-- Remove a frame where there is one. -/
def removeIfQueued (f : Option QueuedFrame) (s : State) : State :=
  match f with
  | none => s
  | some f => removeFrame f s

/-- Frames that wait for room ahead of a set presence mark: the holding area's (R85). -/
def aheadOfPresence (l : Link) : Nat := l.holding.length

/-- Frames that wait for room ahead of a note mark (R85). -/
def aheadOfNote (l : Link) : Nat := l.holding.length + (if l.presenceMark then 1 else 0)

/-- Frames that wait for room ahead of a PENDING quiet (R85). -/
def aheadOfQuiet (s : State) : Nat := aheadOfNote s.link + (if s.noteMark then 1 else 0)

/-- Empty the queue, the waiting frames, the holding area and the marks (R88, R91, R95). -/
def emptyLink (l : Link) : Link :=
  { l with queue := [], waiting := [], holding := [], presenceMark := false }

end Sys2Proof.Machine
end

