-- ==== Sys2Proof/Machine/Tickets.lean ====
section
/-! DEFINITION. What results, retests, notes and additions do to tickets (R146 to R154), and the answers to
handovers (R161 to R163). -/

namespace Sys2Proof.Machine

/-- A clock reading some seconds from now, at most the clock's largest value: R183 states this limit for a postponed
retest; for the next due of a measured one (R148), of a TICKET RETEST (R158) and of a plan handed in (R161) it is the
model's choice (log entry 18). -/
def State.dueIn (s : State) (seconds : Nat) : Nat := min Config.clockMax (s.store.clock + seconds)

/-- A ticket just opened (R146). -/
def openedTicket (l : Line) (cls : FaultClass) (origin : TicketOrigin) (clock : Nat) (obs : List Observation)
    (n : TicketNo) : Ticket where
  number := n
  line := l
  state := .opened
  cls := cls
  openedAt := clock
  origin := origin
  observations := obs
  plan := none
  streak := 0
  announcePending := true
  noteTaken := false
  noteHeldBack := false
  handover := none
  previousOwner := none

/-- The ticket concerned, as the Ticket Store answers: its number, and its owner when it is another station's
(R146). -/
abbrev TicketAnswer := Option TicketNo × Option Station

/-- The origin of a ticket opened from a result's source (R146). -/
def originOf : ObsSource → TicketOrigin
  | .ownOperator => .operator
  | .ownSweep => .sweep
  | .ownRetest => .retest
  | .peer _ => .handedIn

/-- A failing result that is not NOISY, for a line (R146): own ticket, index entry, new ticket, no room. -/
def storeFailure (l : Line) (o : Observation) (s : State) : TicketAnswer × State :=
  match s.ticketStore.byLine l with
  | some t => ((some t.number, none), appendObservation t.number o s)
  | none =>
    match s.ticketStore.indexFor l with
    | some e => ((some e.number, some e.owner), offerNotice (.ticketAdd e.owner e.number l ⟨o.cls, o.deciding⟩) s)
    | none =>
      if s.ticketStore.hasRoom then
        let n := numberGiven s.ticketStore
        let mk := openedTicket l o.cls (originOf o.source) s.store.clock [o]
        ((some n, none), emit (ticketClassEvent .ticketOpened (mk n)) (s.updTickets (addTicket mk)))
      else
        ((none, none), emit { kind := .ticketStoreFull, line := some l.val, outcome := some (.cls o.cls) } s)

/-- A NOISY failing result: it joins the own ticket's list, where there is one (R147). -/
def storeNoisy (l : Line) (o : Observation) (s : State) : TicketAnswer × State :=
  match s.ticketStore.byLine l with
  | some t => ((some t.number, none), appendObservation t.number o s)
  | none => ((none, none), s)

/-- A result is handed to the Ticket Store for a line (R146, R147). -/
def storeResult (l : Line) (o : Observation) (s : State) : TicketAnswer × State :=
  if !o.cls.failing then ((none, none), s)
  else if o.noisy then storeNoisy l o s
  else storeFailure l o s

/-- A ticket's plan with a new next due and remaining count. -/
def replan (t : Ticket) (due remaining : Nat) : Ticket :=
  { t with plan := t.plan.map fun p => { p with nextDue := due, remaining := remaining } }

/-- A ticket is cleared (R149). -/
def clearedTicket (t : Ticket) : Ticket :=
  { t with state := .cleared, plan := none, announcePending := t.noteTaken }

/-- What the first case after a retest's count has changed does (R148). -/
def settleRetest (t : Ticket) (s : State) : State :=
  if 2 ≤ t.streak then
    emit (ticketClassEvent .ticketCleared t) (s.updTickets (updateTicket t.number fun _ => clearedTicket t))
  else if t.plan.all (·.remaining == 0) then
    emit (ticketClassEvent .retestExhausted t)
      (s.updTickets (updateTicket t.number fun _ => { t with plan := none, state := .opened }))
  else s.updTickets (updateTicket t.number fun _ => t)

/-- A ticket in RETEST after a retest result has been appended to it (R148). -/
def retested (o : Observation) (due : Nat) (t : Ticket) : Ticket :=
  let left := (t.plan.map (·.remaining)).getD 0
  if o.noisy then replan t due left
  else if o.cls.failing then replan t due (left - 1)
  else { replan t due (left - 1) with streak := min 2 (t.streak + 1) }

/-- A retest's result, handed in with its linked ticket's number (R148). -/
def retestResult (n : TicketNo) (l : Line) (o : Observation) (s : State) : State :=
  match s.ticketStore.byNumber n with
  | none => s
  | some t =>
    match t.state with
    | .retest =>
      let s := appendObservation n o s
      let u := retested o (s.dueIn ((t.plan.map (·.interval)).getD 0 * 60)) (observed o t)
      if o.noisy then s.updTickets (updateTicket n fun _ => u) else settleRetest u s
    | .opened => (storeResult l o s).2
    | .handover => s
    | .cleared => s

/-- A retest that did not measure is postponed, while its ticket is in RETEST (R183). -/
def postponeRetest (n : TicketNo) (seconds : Nat) (s : State) : State :=
  s.updTickets (updateTicket n fun t =>
    if t.state = .retest then replan t (s.dueIn seconds) ((t.plan.map (·.remaining)).getD 0) else t)

/-! ### Notes -/

/-- The entries a note is given, and how many of them are from the closed-note list (R152). -/
def noteEntries (ts : TicketStore) : List NoteEntry × Nat :=
  let closed := ts.closedNotes.take 4
  let marked := (ts.tickets.filter fun t => t.announcePending && !t.noteHeldBack).map noteEntryOf
  (closed ++ marked.take (4 - closed.length), closed.length)

/-- A ticket entry of a note that has been taken (R152). -/
def entryTaken (e : NoteEntry) (ts : TicketStore) : TicketStore :=
  updateTicket e.number
    (fun t =>
      { t with
        noteTaken := t.noteTaken || e.isOpen
        announcePending := t.announcePending && noteEntryOf t != e }) ts

/-- An own note has been taken; its first `k` entries came from the closed-note list (R152). -/
def noteTaken (es : List NoteEntry) (k : Nat) (ts : TicketStore) : TicketStore :=
  (es.drop k).foldl (fun r e => entryTaken e r)
    { ts with closedNotes := ts.closedNotes.filter fun e => !(es.take k).contains e }

/-- The latest failing observation of a ticket that is not noisy (R154). -/
def latestFinding (t : Ticket) : Option Observation :=
  t.observations.reverse.find? fun o => o.cls.failing && !o.noisy

/-- The own ticket merges into the ticket of station T's entry; `owesClosed` in the third case (R154). -/
def mergeTicket (n : Station) (e : NoteEntry) (t : Ticket) (owesClosed : Bool) (s : State) : State :=
  let added :=
    if t.isOpen then
      match latestFinding t with
      | some o => offerNotice (.ticketAdd n e.number e.line ⟨o.cls, o.deciding⟩) s
      | none => s
    else s
  let removed := added.updTickets fun ts =>
    putIndex ⟨e.line, n, e.number, e.cls⟩
      (removeTicket t.number (if owesClosed then addClosedNote (closedEntryOf t) ts else ts))
  emit { ticketEvent .ticketMerged t with station := some n } removed

/-- One entry of a note taken from station `n` (R153, R154). -/
def takeNoteEntry (n : Station) (e : NoteEntry) (s : State) : State :=
  if e.isOpen then
    match s.ticketStore.byLine e.line with
    | none => s.updTickets (putIndex ⟨e.line, n, e.number, e.cls⟩)
    | some t =>
      if !t.noteTaken then mergeTicket n e t false s
      else if s.store.station.getD 0 < n then
        s.updTickets (updateTicket t.number fun t => { t with announcePending := true })
      else mergeTicket n e t true s
  else
    match s.ticketStore.indexFor e.line with
    | some x => if x.owner = n ∧ x.number = e.number then s.updTickets (dropIndexLine e.line) else s
    | none => s

/-- A TICKET-NOTE taken from station `n`, entry by entry (R153). -/
def takeNote (n : Station) (es : List NoteEntry) (s : State) : State :=
  es.foldl (fun r e => takeNoteEntry n e r) s

/-! ### Additions and handovers -/

/-- A TICKET-ADD taken from station `n` that names this station as owner (R150). -/
def takeAddition (n : Station) (number : TicketNo) (l : Line) (obs : ObsData) (s : State) : State :=
  match s.ticketStore.byNumber number with
  | some t =>
    if t.line = l then appendObservation number ⟨s.store.clock, .peer n, obs.cls, obs.deciding, false⟩ s else s
  | none => s

/-- The ticket that a HAND-OFFER from station `n` brings (R161). -/
def handedInTicket (n : Station) (o : HandOffer) (s : State) (number : TicketNo) : Ticket where
  number := number
  line := o.line
  state := if o.plan.isSome then .retest else .opened
  cls := o.cls
  openedAt := s.store.clock - o.age
  origin := .handedIn
  observations := [⟨s.store.clock, .peer n, o.obs.cls, o.obs.deciding, false⟩]
  plan := o.plan.map fun p => ⟨p.interval, p.remaining, s.dueIn p.dueIn⟩
  streak := 0
  announcePending := true
  noteTaken := false
  noteHeldBack := true
  handover := none
  previousOwner := some (n, o.number)

/-- A HAND-OFFER to this station is refused or taken in (R161). -/
def takeOffer (n : Station) (o : HandOffer) (s : State) : State :=
  if s.link.state ≠ .active then offerNotice (.handRefuse n o.number .notActive) s
  else if (s.ticketStore.byLine o.line).isSome then offerNotice (.handRefuse n o.number .duplicate) s
  else if !s.ticketStore.hasRoom then offerNotice (.handRefuse n o.number .full) s
  else
    let number := numberGiven s.ticketStore
    let mk := handedInTicket n o s
    let s := s.updTickets fun ts => dropIndexLine o.line (addTicket mk ts)
    emit { ticketClassEvent .ticketHandedIn (mk number) with station := some n }
      (offerNotice (.handAccept n o.number number) s)

/-- A HAND-ACCEPT of this station's offer, from station `m` (R162). -/
def takeAccept (m : Station) (offered : TicketNo) (s : State) : State :=
  match s.ticketStore.byNumber offered with
  | none => s
  | some t =>
    match t.handover with
    | none => s
    | some h =>
      if h.target ≠ m then s
      else if t.state = .handover then
        emit { ticketEvent .handoverDone t with station := some m } (s.updTickets (removeTicket offered))
      else if h.lapsed then
        emit { ticketEvent .handoverLate t with station := some m } (s.updTickets (removeTicket offered))
      else s

/-- A HAND-REFUSE of this station's offer, from station `m` (R163). -/
def takeRefusal (m : Station) (offered : TicketNo) (r : RefuseReason) (s : State) : State :=
  match s.ticketStore.byNumber offered with
  | none => s
  | some t =>
    match t.handover with
    | none => s
    | some h =>
      if h.target ≠ m then s
      else if t.state = .handover then failHandover t h (.refused r) s
      else if h.lapsed then s.updTickets (updateTicket offered fun t => { t with handover := none })
      else s

/-- The handovers to a station that is dropped fail, in store order (R107). -/
def failHandoversTo (n : Station) (s : State) : State :=
  s.ticketStore.tickets.foldl
    (fun r t =>
      match t.inHandover with
      | none => r
      | some h => if h.target = n then failHandover t h .peerGone r else r) s

/-- A handover unanswered for 3,000 ms ends by TIMEOUT (R163). -/
def handoverTimesOut (n : TicketNo) (s : State) : State :=
  match s.ticketStore.byNumber n with
  | none => s
  | some t =>
    match t.inHandover with
    | none => s
    | some h => failHandover t h .timeout s

/-- Every HANDOVER ticket returns to its prior state with no event, at a soft reset (R164). -/
def returnHandovers (ts : TicketStore) : TicketStore :=
  { ts with tickets := ts.tickets.map fun t =>
      if t.state = .handover then handoverReturned false t else t }

end Sys2Proof.Machine
end

