-- ==== Sys2Proof/Machine/Engine.lean ====
section
/-! DEFINITION. The Automatic Engine: an item's outcome and what it does to the sweep or the ticket, the item's
end, freezing and halting (R166, R170, R171, R177, R178, R181 to R184). -/

namespace Sys2Proof.Machine

/-- The engine becomes HALTED (R166). -/
def halted (a : AutoEngine) : AutoEngine :=
  { a with run := .halted, returnState := none, freezeCause := none, waitingForRoom := false }

/-- A sweep count goes up, saturating (R178). -/
def countUp (n by_ : Nat) : Nat := min Config.sweepCountMax (n + by_)

/-- Change the sweep record, where there is one. -/
def updSweep (f : Sweep → Sweep) (s : State) : State := s.updAuto fun a => { a with sweep := a.sweep.map f }

/-- Change the current item, where there is one. -/
def updItem (f : Item → Item) (s : State) : State := s.updAuto fun a => { a with item := a.item.map f }

/-- The current item becomes absent. -/
def dropItem (s : State) : State := s.updAuto fun a => { a with item := none }

/-- The engine becomes HALTED (R166). -/
def haltEngine (s : State) : State := s.updAuto halted

/-- The sweep completes when its deferred list is empty in DEFERRED-PASS: SWEEP-DONE with its counts (R182). -/
def completeSweep (s : State) : State :=
  match s.auto.sweep with
  | none => s
  | some w =>
    if w.phase = .deferredPass ∧ w.deferred = [] then
      emit { kind := .sweepDone, counts := some (w.tested, w.failed, w.skipped) }
        (updSweep (fun w => { w with phase := .complete }) s)
    else s

/-- The cursor moves past a line: to the next line, or to DEFERRED-PASS past the last (R180). -/
def cursorPast (l : Line) (w : Sweep) : Sweep :=
  if h : l.val + 1 < 65536 then
    if l.val < w.last.val then { w with cursor := ⟨l.val + 1, h⟩ } else { w with phase := .deferredPass }
  else { w with phase := .deferredPass }

/-- A SWEEP-SKIPPED for a line, counted as skipped (R181, R182). -/
def skipLine (l : Line) (s : State) : State :=
  emit { kind := .sweepSkipped, line := some l.val }
    (updSweep (fun w => { w with skipped := countUp w.skipped 1 }) s)

/-- What an outcome that is counted adds to the sweep's counts (R181). -/
def countOutcome (o : ItemOutcome) (w : Sweep) : Sweep :=
  match o with
  | .pass => { w with tested := countUp w.tested 1 }
  | .fail => { w with tested := countUp w.tested 1, failed := countUp w.failed 1 }
  | .noisy => { w with tested := countUp w.tested 1 }
  | .timeout => { w with skipped := countUp w.skipped 1 }
  | .blocked => w
  | .yielded => w

/-- Whether an outcome puts a line off: BLOCKED or YIELDED (R181, R182). -/
def ItemOutcome.putsOff : ItemOutcome → Bool
  | .blocked => true
  | .yielded => true
  | _ => false

/-- A line is put off: it joins the deferred list, or a full list passes it over (R181). -/
def deferLine (l : Line) (s : State) : State :=
  match s.auto.sweep with
  | none => s
  | some w =>
    if w.deferred.contains l then s
    else if w.deferred.length < Config.deferredSlots then
      updSweep (fun w => { w with deferred := w.deferred ++ [l] }) s
    else skipLine l s

/-- A sweep item's outcome acts on the sweep record (R181, R182). -/
def sweepOutcome (i : Item) (o : ItemOutcome) (s : State) : State :=
  if i.fromDeferred then
    let s := updSweep (fun w => { w with deferred := w.deferred.filter (· != i.line) }) s
    let s := if o.putsOff then skipLine i.line s else updSweep (countOutcome o) s
    completeSweep s
  else
    let s := if o.putsOff then deferLine i.line s else updSweep (countOutcome o) s
    completeSweep (updSweep (cursorPast i.line) s)

/-- An outcome that did not measure postpones a retest's ticket (R183). -/
def retestOutcome (n : TicketNo) (o : ItemOutcome) (s : State) : State :=
  match o with
  | .blocked => postponeRetest n 120 s
  | .timeout => postponeRetest n 120 s
  | .yielded => postponeRetest n 300 s
  | .pass => s
  | .fail => s
  | .noisy => s

/-- What ITEM-RESULT carries for an outcome, none where no ITEM-RESULT is queued (R171). -/
def itemResultOutcome (o : ItemOutcome) (cls : Option FaultClass) : Option EventOutcome :=
  match o with
  | .fail => cls.map .cls
  | .timeout => some (.item .timeout)
  | .yielded => some (.item .yielded)
  | .noisy => if cls.any FaultClass.failing then some (.item .noisy) else none
  | .pass => none
  | .blocked => none

/-- The ITEM-RESULT of an outcome, where one is queued (R171). -/
def emitItemResult (i : Item) (o : ItemOutcome) (cls : Option FaultClass) (ans : TicketAnswer) (s : State) :
    State :=
  match itemResultOutcome o cls with
  | none => s
  | some v =>
    emit
      { kind := .itemResult
        channel := s.store.autoChannel
        line := some i.line.val
        ticket := if i.purpose = .retest then i.ticket else ans.1
        station := if i.purpose = .retest then none else ans.2
        outcome := some v } s

/-- The current item, where its outcome can still be fixed: the first report counts, and none for an item left
by ABORT (R170, R176). -/
def State.openItem (s : State) : Option Item :=
  match s.auto.item with
  | some i => if i.outcome.isSome || i.aborted then none else some i
  | none => none

/-- An item's outcome is fixed and acts at once (R170, R171, R181 to R183). -/
def fixOutcome (i : Item) (o : ItemOutcome) (cls : Option FaultClass) (ans : TicketAnswer) (s : State) : State :=
  let s := updItem (fun i => { i with outcome := some o }) s
  let s := emitItemResult i o cls ans s
  match i.purpose, i.ticket with
  | .retest, some n => retestOutcome n o s
  | .sweep, _ => sweepOutcome i o s
  | _, _ => s

/-- A report that measured nothing reaches the engine (R170). -/
def report (o : ItemOutcome) (s : State) : State :=
  match s.openItem with
  | none => s
  | some i => fixOutcome i o none (none, none) s

/-- The outcome of a measurement that ended DONE (R170). -/
def measuredOutcome (cls : FaultClass) (noisy : Bool) : ItemOutcome :=
  if noisy then .noisy else if cls.failing then .fail else .pass

/-- A DONE measurement reaches the engine: its result is handed to the Ticket Store and the outcome is fixed
(R169, R170). -/
def reportMeasured (cls : FaultClass) (deciding : Option Deciding) (noisy : Bool) (s : State) : State :=
  match s.openItem with
  | none => s
  | some i =>
    let o := measuredOutcome cls noisy
    match i.purpose, i.ticket with
    | .retest, some n =>
      fixOutcome i o (some cls) (none, none)
        (retestResult n i.line ⟨s.store.clock, .ownRetest, cls, deciding, noisy⟩ s)
    | _, _ =>
      let r := storeResult i.line ⟨s.store.clock, .ownSweep, cls, deciding, noisy⟩ s
      fixOutcome i o (some cls) r.1 r.2

/-- STEP-DONE for an item (R171). -/
def stepDone (i : Item) : Event :=
  { kind := .stepDone
    line := some i.line.val
    ticket := i.ticket
    outcome := some (match i.outcome with | some o => .item o | none => .itemLinkLost) }

/-- The item ends: its session has become IDLE, or it ends without one (R171). An item left by ABORT leaves the run
state as it is, so that a STOP taken over it after a new RUN stays in STOPPING: the model's choice (log entry 53). -/
def itemEnds (s : State) : State :=
  match s.auto.item with
  | none => s
  | some i =>
    let s := dropItem s
    if i.aborted then s
    else
      match s.auto.run with
      | .running => s
      | .stepping => haltEngine (emit (stepDone i) s)
      | .stopping => haltEngine s
      | .halted => s
      | .frozen => s

/-- The Line Watch stops the engine at a line (R177). -/
def freeze (cause : FreezeCause) (l : Line) (s : State) : State :=
  emit { kind := .frozen, line := some l.val, outcome := some (.freeze cause) }
    (s.updAuto fun a => { a with run := .frozen, returnState := some a.run, freezeCause := some cause })

/-- Whether the engine's run state lets a stop act (R190 to R192). -/
def stopActs (r : RunState) : Bool := r == .running || r == .stepping

end Sys2Proof.Machine
end

