-- ==== Sys2Proof/Machine/View.lean ====
section
/-! DEFINITION. The Office View's roster: what each taken frame does to it and what it answers (R96 to R101,
R108, R111). -/

namespace Sys2Proof.Machine

/-- The roster's entry for a station. -/
def State.peer (s : State) (n : Station) : Option Peer := s.roster.find? (·.station == n)

/-- Change a station's entry. -/
def updatePeer (n : Station) (f : Peer → Peer) (s : State) : State :=
  { s with roster := s.roster.map fun p => if p.station = n then f p else p }

/-- Put an entry in its place by station number (R97). -/
def insertPeer (p : Peer) : List Peer → List Peer
  | [] => [p]
  | q :: rest => if p.station < q.station then p :: q :: rest else q :: insertPeer p rest

/-- A PEER-JOINED, with JOINING or ACTIVE in its outcome field (R111). -/
def peerJoined (n : Station) (joining : Bool) : Event :=
  { kind := .peerJoined, station := some n, outcome := some (.link (if joining then .joining else .active)) }

/-- A frame has been taken from station `n`: its entry is added or its last heard moved (R97). `joining` is the
joining flag of a PRESENCE, no for every other kind; a joining PRESENCE from a station whose entry shows
joining no queues a PEER-JOINED too (R111), before the other events of that frame: the model's choice (log entry
40). -/
def heardPeer (n : Station) (joining : Bool) (s : State) : State :=
  match s.peer n with
  | none =>
    emit (peerJoined n joining)
      { s with roster := insertPeer ⟨n, s.now, false, [], []⟩ s.roster }
  | some p =>
    let s' := updatePeer n (fun q => { q with lastHeard := s.now }) s
    if joining && !p.joining then emit (peerJoined n true) s' else s'

/-- The station that holds a line in the view, the lowest of several (R108). -/
def lineHolder (s : State) (l : Line) : Option Station :=
  (s.roster.find? fun p => p.holdings.any (·.line == l)).map (·.station)

/-- Whether a trunk is held in the view (R108). -/
def trunkHeldInView (s : State) (t : Trunk) : Bool := s.roster.any fun p => p.holdings.any (·.trunk == t)

/-- The station that has quieted a block in the view (R108). -/
def quietHolder (s : State) (b : Block) : Option Station :=
  (s.roster.find? fun p => p.quiets.any (·.block == b)).map (·.station)

/-- A CLAIM's pair joins its station's holdings (R98). -/
def addHolding (h : Holding) (l : List Holding) : List Holding :=
  if l.any fun x => x.line == h.line && x.trunk == h.trunk then
    l.map fun x => if x.line = h.line ∧ x.trunk = h.trunk then { x with purpose := h.purpose } else x
  else (if l.length < 2 then l else l.drop 1) ++ [h]

/-- A RELEASE's pair leaves its station's holdings (R98). -/
def removeHolding (line : Line) (trunk : Trunk) (l : List Holding) : List Holding :=
  l.filter fun x => !(x.line == line && x.trunk == trunk)

/-- An own quiet stands while its record is SETTLING, HELD or ENDING (R128). -/
def QuietRecord.stands (q : QuietRecord) : Bool :=
  q.phase == .settling || q.phase == .held || q.phase == .ending

/-- Whether a channel's own quiet stands on a block (R128). -/
def quietStandsOn (s : State) (c : Channel) (b : Block) : Bool :=
  (s.chan c).quiet.stands && (s.chan c).quiet.block == some b

/-- Whether an own quiet stands on a block (R99). -/
def ownQuietOn (s : State) (b : Block) : Bool := quietStandsOn s .a b || quietStandsOn s .b b

/-- What a QUIET taken for a block is in this view (R99). -/
inductive QuietFinding | recorded | reassertion | void
  deriving DecidableEq, Repr

/-- What the view finds of a QUIET from station `n` for block `b` (R99). -/
def findQuiet (s : State) (n : Station) (b : Block) : QuietFinding :=
  if (s.peer n).any fun p => p.quiets.any (·.block == b) then .reassertion
  else if (quietHolder s b).isSome || ownQuietOn s b then .void
  else .recorded

/-- The block that must leave a station's two quiet blocks before another is added (R99). -/
def displacedQuiet (s : State) (n : Station) : Option Block :=
  match (s.peer n).map (·.quiets) with
  | some (q :: _ :: _) => some q.block
  | _ => none

/-- A quiet block joins a station's entry with its lapse time (R99). -/
def addQuiet (n : Station) (b : Block) (s : State) : State :=
  updatePeer n (fun p => { p with quiets := p.quiets ++ [⟨b, s.now + Config.foreignLapse⟩] }) s

/-- A quiet block leaves a station's entry (R100). -/
def removeQuiet (n : Station) (b : Block) (s : State) : State :=
  updatePeer n (fun p => { p with quiets := p.quiets.filter (·.block != b) }) s

/-- Whether a station's entry lists a quiet on a block. -/
def listsQuiet (s : State) (n : Station) (b : Block) : Bool :=
  (s.peer n).any fun p => p.quiets.any (·.block == b)

/-- The quiet blocks of a station's entry after its PRESENCE (R101): those still listed, then the new ones that
no other entry lists and on which no own quiet stands. -/
def presenceQuiets (s : State) (p : Peer) (listed : List Block) : List QuietBlock :=
  (p.quiets.filter fun q => listed.contains q.block) ++
  ((listed.filter fun b =>
      !(p.quiets.any (·.block == b)) && !ownQuietOn s b &&
        !(s.roster.any fun o => o.station != p.station && o.quiets.any (·.block == b))).map
    fun b => ⟨b, s.now + Config.foreignLapse⟩)

/-- The blocks that leave a station's entry by its PRESENCE (R101). -/
def presenceEnds (p : Peer) (listed : List Block) : List Block :=
  (p.quiets.map (·.block)).filter fun b => !listed.contains b

/-- The blocks that a PRESENCE adds to its station's entry (R101). -/
def presenceAdds (s : State) (p : Peer) (listed : List Block) : List Block :=
  ((presenceQuiets s p listed).map (·.block)).filter fun b => !(p.quiets.any (·.block == b))

/-- A PRESENCE replaces its station's entry (R101). -/
def replacePeer (n : Station) (joining : Bool) (hs : List Holding) (listed : List Block) (s : State) : State :=
  updatePeer n (fun p =>
    { p with holdings := hs, quiets := presenceQuiets s p listed, joining := joining }) s

end Sys2Proof.Machine
end

