-- ==== Sys2Proof/Machine/Relays.lean ====
section
/-! DEFINITION. The relay steps of a channel: drives, the go rule, operate steps, late confirms, release drives
(R24, R26, R27, R31, R33). -/

namespace Sys2Proof.Machine

/-- Who has quieted a block for a channel's session: a station in the view, or the channel's other session's own
quiet (R24). -/
def quietedBy (s : State) (c : Channel) (b : Block) : Option Holder :=
  match quietHolder s b with
  | some n => some (.station n)
  | none => if quietStandsOn s c.other b then some .own else none

/-- Step 1 begins with the selector drive (R26). -/
def beginStep1 (c : Channel) (s : State) : State :=
  (s.updSession c fun x => { x with state := .connecting, relayStep := some 1, deferredBy := none }).updSeq c
    fun q =>
      { q with
        waitEnd := some (s.now + Config.step1Time)
        releasing := none
        drives := { q.drives with selector := true, released := [] } }

/-- The relay side as an operate step begins: its wait and its 400 ms run from the drive, and the window for late
confirms is closed (R27, R28, R33). A confirm line that still shows an earlier confirm is not looked at, a new
CONFIRM_SHOWN is awaited: the model's choice (log entry 43). -/
def operateBegins (now wait : Nat) (q : Sequencer) : Sequencer :=
  { q with
    operateElapsed := false
    confirmTaken := false
    confirmHeldBack := false
    waitEnd := some (now + wait)
    confirmLimit := some (now + Config.confirmTime)
    abandoned := none }

/-- Step 3 begins with the monitor operate drive (R27). -/
def beginStep3 (c : Channel) (s : State) : State :=
  (s.updSession c fun x => { x with state := .connecting, relayStep := some 3, deferredBy := none }).updSeq c
    fun q =>
      { operateBegins s.now (s.operateTime (s.chan c).session.block) q with
        drives := { q.drives with monitor := true, released := [] } }

/-- Step 4, the busy test, begins; a loop already closed is in use (R29). -/
def beginStep4 (c : Channel) (s : State) : State :=
  (s.updSession c fun x => { x with relayStep := some 4 }).updSeq c fun q =>
    { q with
      waitEnd := some (s.now + Config.busyTestTime)
      confirmLimit := none
      inUse := (s.chan c).pins.loopClosed }

/-- Step 5 begins with the cut-off and test drive (R27). -/
def beginStep5 (c : Channel) (s : State) : State :=
  (s.updSession c fun x => { x with relayStep := some 5 }).updSeq c fun q =>
    { operateBegins s.now (s.operateTime (s.chan c).session.block) q with
      drives := { q.drives with cutOffTest := true, released := [] } }

/-- The go rule (R24). -/
def goRule (c : Channel) (s : State) : State :=
  let x := (s.chan c).session
  match quietedBy s c x.block with
  | some h =>
    (s.updSession c fun x => { x with state := .deferred, deferredBy := some h }).updSeq c fun q =>
      { q with waitEnd := none }
  | none =>
    if x.frozenAtClaim then s.updSession c fun x => { x with state := .claimed, deferredBy := none }
    else if x.relayStep = none then beginStep1 c s
    else beginStep3 c s

/-- Step 2 begins with its setup wait; a wait of 0 ends it as it begins, and the go rule is applied (R26). -/
def beginStep2 (c : Channel) (s : State) : State :=
  let wait := s.setupTime (s.chan c).session.block
  let s := (s.updSession c fun x => { x with relayStep := some 2 }).updSeq c fun q =>
    { q with waitEnd := some (s.now + wait) }
  if wait = 0 then goRule c s else s

/-- A quiet that deferred a session has ended: deferred by becomes absent and the go rule is applied (R25). -/
def undefer (c : Channel) (h : Holder) (b : Block) (s : State) : State :=
  let x := (s.chan c).session
  if x.state = .deferred ∧ x.deferredBy = some h ∧ x.block = b then
    goRule c (s.updSession c fun x => { x with deferredBy := none })
  else s

/-- The sessions deferred by a quiet go on as it ends, channel A before channel B (R100). -/
def undeferBoth (h : Holder) (b : Block) (s : State) : State := undefer .b h b (undefer .a h b s)

/-- A session in CLAIMED on a block that has just been quieted goes to DEFERRED (R131, R133). -/
def deferClaimed (c : Channel) (h : Holder) (s : State) : State :=
  s.updSession c fun x => { x with state := .deferred, deferredBy := some h }

/-- Whether an operate step runs whose confirm has not been taken (R27). -/
def awaitsConfirm (r : ChannelRecord) : Bool :=
  r.session.state == .connecting && (r.session.relayStep == some 3 || r.session.relayStep == some 5) &&
    !r.seq.confirmTaken

/-- The step under way is stopped; an operate awaiting its confirm is abandoned (R28, R33). -/
def abandonOperate (c : Channel) (s : State) : State :=
  let x := (s.chan c).session
  s.updSeq c fun q =>
    { q with
      waitEnd := none
      confirmLimit := none
      abandoned :=
        if awaitsConfirm (s.chan c) then some ⟨x.relayStep.getD 3, x.line, x.trunk⟩ else q.abandoned }

/-- The drives with one relay released (R31). -/
def releasedDrives (r : Relay) (d : Drives) : Drives :=
  match r with
  | .cutOff => { d with cutOffTest := false, released := [.cutOff] }
  | .testRelay => { d with monitor := false, released := [.testRelay] }
  | .selector => { d with selector := false, released := [.selector] }

/-- A release drive is given, and the block's operate wait begins (R31). -/
def giveRelease (c : Channel) (r : Relay) (s : State) : State :=
  s.updSeq c fun q =>
    { q with
      releasing := some r
      waitEnd := some (s.now + s.operateTime (s.chan c).session.block)
      confirmLimit := none
      drives := releasedDrives r q.drives }

/-- The first release step that applies, from the relay step field (R31). -/
def firstRelease : Option Nat → Option Relay
  | none => none
  | some n => if n = 5 then some .cutOff else if 3 ≤ n then some .testRelay else some .selector

/-- The release step after one, none after the last (R31). -/
def nextRelease : Relay → Option Relay
  | .cutOff => some .testRelay
  | .testRelay => some .selector
  | .selector => none

/-- The drives after a late confirm's release drive: the test relay, and for an abandoned step 5 the cut-off too
(R33). -/
def lateDrives (step : Nat) (d : Drives) : Drives :=
  if step = 5 then { d with monitor := false, cutOffTest := false, released := [.cutOff, .testRelay] }
  else { d with monitor := false, released := [.testRelay] }

/-- A late confirm: a release drive for the abandoned relay, and a LATE-CONFIRM event (R33). -/
def lateConfirm (c : Channel) (a : AbandonedOperate) (s : State) : State :=
  emit { kind := .lateConfirm, channel := some c, line := some a.line.val, trunk := some a.trunk }
    (s.updSeq c fun q => { q with confirmHeldBack := false, drives := lateDrives a.step q.drives })

end Sys2Proof.Machine
end

