-- ==== Sys2Proof/Machine/Requests.lean ====
section
/-! DEFINITION. The requests on the head lines, their expected length, and the start of a measurement (R45, R46, R49,
R51, R52, R54, R56, R70). -/

namespace Sys2Proof.Machine

/-- The request for a reading (R45, R52, R54, R56). -/
def requestFor (r : MeasureRecord) (now : Nat) (rd : Reading) : HeadRequest :=
  match rd with
  | .fv _ => ⟨rd, 20, Config.fvSamples, now⟩
  | .cap => ⟨rd, 50, 0, now⟩
  | .range _ g => ⟨rd, rangeSettle g r.extension, r.n, now⟩

/-- The length a request is expected to take: its settle or discharge, then its charge or its samples at one a
millisecond (R46). -/
def expectedLength (q : HeadRequest) : Nat :=
  q.settle + (match q.reading with | .cap => Config.chargeTime | _ => q.samples)

/-- Whether a channel's request has been outstanding for 500 ms beyond its expected length (R70). -/
def headTimedOut (c : Channel) (s : State) : Bool :=
  (s.chan c).engine.request.any fun q => q.sentAt + expectedLength q + Config.headLimit ≤ s.now

/-- Send the request for a reading (R45, R46). -/
def sendRequest (c : Channel) (rd : Reading) (s : State) : State :=
  s.updEngine c fun e => { e with request := e.record.map fun r => requestFor r s.now rd }

/-- The engine enters RUNNING and sends the first request of the first stage (R49, R51). -/
def startRunning (c : Channel) (noisy : Bool) (s : State) : State :=
  s.updEngine c fun e =>
    let record := e.record.map fun r => { r with noisy := r.noisy || noisy }
    { e with
      phase := .running
      record := record
      request := record.bind fun r => (firstReading r.stages).map (requestFor r s.now) }

end Sys2Proof.Machine
end

