-- ==== Sys2Proof/Machine/Quiet.lean ====
section
/-! DEFINITION. The Quiet Unit: own quiet records, wait lists, QUIET-BUSY and QUIET-CLEAR, disturbance marks
(R128 to R141). -/

namespace Sys2Proof.Machine

/-- Whether a quiet record holds or wants a block on the line: REQUESTED, SETTLING, HELD or ENDING (R129). -/
def QuietRecord.occupies (q : QuietRecord) (b : Block) : Bool :=
  (q.phase == .requested || q.stands) && q.block == some b

/-- Whether a channel's PENDING record finds its block free (R129). -/
def quietFree (s : State) (c : Channel) : Bool :=
  match (s.chan c).quiet.block with
  | none => false
  | some b => (quietHolder s b).isNone && !(s.chan c.other).quiet.occupies b

/-- Whether a channel's record is PENDING and its block free (R129). -/
def quietServable (s : State) (c : Channel) : Bool := (s.chan c).quiet.phase == .pending && quietFree s c

/-- Channel A's PENDING record goes before channel B's on one block (R129). -/
def yieldsToA (s : State) (c : Channel) : Bool :=
  c == .b && quietServable s .a && s.chanA.quiet.block == s.chanB.quiet.block

/-- Frames that wait for room ahead of a channel's PENDING quiet (R85). -/
def aheadOfChannelQuiet (s : State) (c : Channel) : Nat :=
  aheadOfQuiet s + (if c = .b ∧ quietServable s .a then 1 else 0)

/-- Frames that wait for room ahead of the Automatic Engine's new choice (R85). -/
def aheadOfEngine (s : State) : Nat :=
  aheadOfChannelQuiet s .b + (if quietServable s .b && !yieldsToA s .b then 1 else 0)

/-- Whether a channel's PENDING record queues its QUIET now (R85, R129). -/
def quietMayQueue (s : State) (c : Channel) : Bool :=
  s.link.state == .active && s.onLine && quietServable s c && !yieldsToA s c &&
    s.link.roomLow (aheadOfChannelQuiet s c)

/-- A record's QUIET enters the queue and the record becomes REQUESTED (R129). -/
def queueQuiet (c : Channel) (b : Block) (s : State) : State :=
  (enqueue (.built (.quiet b)) (some c) s).updQuiet c fun q => { q with phase := .requested }

/-- The Measurement Engine asks for quiet on a block: the record takes the limit time and enters PENDING, or
notes the request until the record of the channel's previous measurement has ended (R129; log entry 32). -/
def askQuiet (c : Channel) (b : Block) (s : State) : State :=
  s.updQuiet c fun q =>
    if q.phase = .none then
      { q with phase := .pending, block := some b, limitTime := some (s.now + Config.quietLimit) }
    else
      { q with requestNoted := true, notedBlock := some b, limitTime := some (s.now + Config.quietLimit) }

/-- A record whose quiet or request has ended: NONE, with only the limit time and noted block of a noted request kept
(R139). -/
def recordCleared (q : QuietRecord) : QuietRecord :=
  if q.requestNoted then
    { QuietRecord.initial with requestNoted := true, notedBlock := q.notedBlock, limitTime := q.limitTime }
  else .initial

/-- A record with a noted request enters PENDING with the noted block (R139). -/
def notedEnters (q : QuietRecord) : QuietRecord :=
  if q.requestNoted then
    { q with phase := .pending, block := q.notedBlock, requestNoted := false, notedBlock := none }
  else q

/-- A record that has ended and has taken up its noted request (R139). -/
def recordEnded (q : QuietRecord) : QuietRecord := notedEnters (recordCleared q)

/-- A channel's record tests R129: PENDING, its block free and room in the queue, it queues its QUIET. -/
def serveQuiet (c : Channel) (s : State) : State :=
  match (s.chan c).quiet.block with
  | none => s
  | some b => if quietMayQueue s c then queueQuiet c b s else s

/-- NOISY is written into the record of a running measurement (R66). -/
def markNoisy (c : Channel) (s : State) : State :=
  s.updEngine c fun e =>
    if e.phase = .running then { e with record := e.record.map fun r => { r with noisy := true } } else e

/-- A holder joins a record's wait list, once (R136). -/
def joinWait (c : Channel) (h : Holder) (s : State) : State :=
  s.updQuiet c fun q => if q.waitList.contains h then q else { q with waitList := q.waitList ++ [h] }

/-- A SETTLING record whose 100 ms have passed and whose wait list is empty becomes HELD and lets its measurement start
(R137). -/
def startIfSettled (c : Channel) (s : State) : State :=
  let q := (s.chan c).quiet
  if q.phase = .settling ∧ q.settled = true ∧ q.waitList = [] ∧ (s.chan c).engine.phase = .quietWait then
    startRunning c false (s.updQuiet c fun q => { q with phase := .held })
  else s

/-- A holder leaves a record's wait list; the last to leave a record whose settle has ended lets its measurement start
(R136, R137). -/
def leaveWait (c : Channel) (h : Holder) (s : State) : State :=
  startIfSettled c (s.updQuiet c fun q => { q with waitList := q.waitList.filter (· != h) })

/-- A QUIET-BUSY is queued, and the channel's session owes the requester a clear (R133). -/
def queueBusy (c : Channel) (b : Block) (n : Station) (s : State) : State :=
  offerUrgent (.quietBusy b n) (some c) (s.updClears c (· ++ [⟨b, n, false, false⟩]))

/-- Whether a session owes a station a clear (R134). -/
def owesClear (r : ChannelRecord) (b : Block) (n : Station) : Bool :=
  r.clears.any fun k => k.block == b && k.requester == n && !k.clearQueued

/-- A session enters RELEASING on its block: a foreign quiet there is answered QUIET-BUSY unless the sequence
already owes that station a clear (R134); the other channel's record lists or marks it (R136, R138). A clear owed to
another station does not hold the answer back: the model's choice (log entry 45). -/
def releaseDisturbs (c : Channel) (s : State) : State :=
  let b := (s.chan c).session.block
  let s :=
    match quietHolder s b with
    | none => s
    | some n => if owesClear (s.chan c) b n then s else queueBusy c b n s
  let q := (s.chan c.other).quiet
  if q.block ≠ some b then s
  else if q.phase = .settling then joinWait c.other .own s
  else if q.phase = .held then markNoisy c.other s
  else s

/-- A relay sequence ends: a QUIET-CLEAR is queued for each clear the session owes, in the order owed (R135), and
own leaves the other record's wait list (R136). -/
def sequenceEnds (c : Channel) (s : State) : State :=
  let owed := (s.chan c).clears.filter (!·.clearQueued)
  let s := s.updClears c fun l => l.map fun k => { k with clearQueued := true }
  let s := owed.foldl (fun r k => offerUrgent (.quietClear k.block k.requester) (some c) r) s
  leaveWait c.other .own s

/-- A QUIET-END is queued and the record becomes ENDING, its wait list emptied (R139). -/
def endQuiet (c : Channel) (s : State) : State :=
  match (s.chan c).quiet.block with
  | none => s
  | some b =>
    offerUrgent (.quietEnd b) (some c) (s.updQuiet c fun q => { q with phase := .ending, waitList := [] })

/-- A measurement that asked for quiet has ended: the record acts by its phase (R139). -/
def quietEndAsked (c : Channel) (s : State) : State :=
  match (s.chan c).quiet.phase with
  | .none => s
  | .pending => s.updQuiet c fun _ => .initial
  | .requested =>
    if frameOnWire s.link (s.link.quietFrame c) then
      s.updQuiet c fun q =>
        { q with withdrawal := some .ended, requestNoted := false, notedBlock := Option.none }
    else (removeIfQueued (s.link.quietFrame c) s).updQuiet c fun _ => .initial
  | .settling => endQuiet c s
  | .held => endQuiet c s
  | .ending => s.updQuiet c fun q => { q with requestNoted := false, notedBlock := Option.none }

/-- An own quiet ends, by its QUIET-END taken or dropped: the record becomes NONE, quiet held becomes absent, and the
other channel is served, first its session deferred by own, then its record PENDING on the block; a noted request enters
PENDING after that (R139). The record that this turns PENDING waits for QUIET_REQUEST_QUEUED (log entry 41). -/
def ownQuietEnds (c : Channel) (s : State) : State :=
  match (s.chan c).quiet.block with
  | none => s
  | some b =>
    let s := (s.updQuiet c recordCleared).updSession c fun x => { x with quietHeld := none }
    let s := undefer c.other .own b s
    let s := if (s.chan c.other).quiet.block = some b then serveQuiet c.other s else s
    s.updQuiet c notedEnters

/-- What the taking of an own QUIET does to the other channel's session on its block (R131). -/
def answerOwnQuiet (c : Channel) (b : Block) (s : State) : State :=
  let x := (s.chan c.other).session
  if x.block ≠ b then s
  else
    match x.state with
    | .claimed => deferClaimed c.other .own s
    | .connecting =>
      if (x.relayStep.getD 0) ≥ 3 ∧ (s.chan c).quiet.phase = .settling then joinWait c .own s else s
    | .releasing => if (s.chan c).quiet.phase = .settling then joinWait c .own s else s
    | _ => s

/-- The record as its QUIET is taken: SETTLING, or by the withdrawal pending HELD or SETTLING before its end
(R130, R131, R137). -/
def quietTakenRecord (now : Nat) (q : QuietRecord) : QuietRecord :=
  { q with
    phase := if q.withdrawal = some .limit then .held else .settling
    takenAt := some now
    settled := false
    withdrawal := none }

/-- An own QUIET has been taken (R130, R131). -/
def ownQuietTaken (c : Channel) (s : State) : State :=
  match (s.chan c).quiet.block with
  | none => s
  | some b =>
    let ended := (s.chan c).quiet.withdrawal = some .ended
    let s := s.updQuiet c (quietTakenRecord s.now)
    let s := s.updSession c fun x => if x.state = .idle then x else { x with quietHeld := some b }
    let s := if ended then endQuiet c s else s
    answerOwnQuiet c b s

/-- An attempt of an own QUIET has ended in any way but taken; a withdrawal pending takes it out of the queue
(R130). -/
def quietNotTaken (c : Channel) (f : QueuedFrame) (s : State) : State :=
  if (s.chan c).quiet.withdrawal.isSome then (removeFrame f s).updQuiet c recordEnded else s

/-- An own QUIET has been dropped: the record returns to PENDING (R130). -/
def quietDropped (c : Channel) (s : State) : State := s.updQuiet c fun q => { q with phase := .pending }

/-- A foreign quiet recorded on a block withdraws an own REQUESTED quiet there; the record returns to PENDING
(R132). -/
def withdrawRequested (c : Channel) (b : Block) (s : State) : State :=
  let q := (s.chan c).quiet
  if q.phase = .requested ∧ q.block = some b ∧ ¬ frameOnWire s.link (s.link.quietFrame c) then
    (removeIfQueued (s.link.quietFrame c) s).updQuiet c fun q => { q with phase := .pending }
  else s

/-- What a channel's session on a newly quieted block answers to the requester (R133). -/
def answerQuiet (c : Channel) (b : Block) (n : Station) (s : State) : State :=
  let x := (s.chan c).session
  if x.block ≠ b then s
  else
    match x.state with
    | .claimed => deferClaimed c (.station n) s
    | .connecting => if x.relayStep.getD 0 ≥ 3 then queueBusy c b n s else s
    | .releasing => queueBusy c b n s
    | _ => s

/-- A QUIET-BUSY addressed to this station, from station `n` (R136, R138). -/
def busyHeard (c : Channel) (b : Block) (n : Station) (s : State) : State :=
  let q := (s.chan c).quiet
  if q.block ≠ some b then s
  else if q.phase = .settling then joinWait c (.station n) s
  else if q.phase = .held then markNoisy c s
  else s

/-- A QUIET-CLEAR addressed to this station, from station `n`; it acts in SETTLING (R136, R138). -/
def clearHeard (c : Channel) (b : Block) (n : Station) (s : State) : State :=
  let q := (s.chan c).quiet
  if q.block = some b ∧ q.phase = .settling then leaveWait c (.station n) s else s

/-- A list of owed clears with the first entry that satisfies a condition changed. -/
def changeFirst (p : OwedClear → Bool) (f : OwedClear → Option OwedClear) : List OwedClear → List OwedClear
  | [] => []
  | k :: rest => if p k then (f k).toList ++ rest else k :: changeFirst p f rest

/-- The entry of a QUIET-BUSY that has not been taken. -/
def busyEntry (b : Block) (n : Station) (k : OwedClear) : Bool :=
  k.block == b && k.requester == n && !k.busyTaken

/-- The entry of a QUIET-CLEAR that has been queued. -/
def clearEntry (b : Block) (n : Station) (k : OwedClear) : Bool :=
  k.block == b && k.requester == n && k.clearQueued

/-- An own QUIET-BUSY has been taken (R95, R133). -/
def ownBusyTaken (c : Channel) (b : Block) (n : Station) (s : State) : State :=
  s.updClears c (changeFirst (busyEntry b n) fun k => some { k with busyTaken := true })

/-- An own QUIET-BUSY has been dropped: its clear is cancelled (R135). A QUIET-CLEAR already queued for it stays in the
queue and is sent: the model's choice (log entry 49). -/
def ownBusyDropped (c : Channel) (b : Block) (n : Station) (s : State) : State :=
  s.updClears c (changeFirst (busyEntry b n) fun _ => none)

/-- An own QUIET-CLEAR has been taken or dropped (R135). That a drop forgets the entry too, so that a later farewell
sends no QUIET-CLEAR for its QUIET-BUSY (R95), is the model's choice (log entry 52). -/
def ownClearGone (c : Channel) (b : Block) (n : Station) (s : State) : State :=
  s.updClears c (changeFirst (clearEntry b n) fun _ => none)

/-- A station leaves every own wait list, as it is dropped from the roster (R107, R136). -/
def leaveWaits (n : Station) (s : State) : State := leaveWait .b (.station n) (leaveWait .a (.station n) s)

end Sys2Proof.Machine
end

