-- ==== Sys2Proof/Machine/Route.lean ====
section
/-! DEFINITION. Route choice and the checks of a claim (R7, R114). -/

namespace Sys2Proof.Machine

/-- Whether an own session holds a trunk: from route choice until the session is IDLE (R7). -/
def ownHoldsTrunk (s : State) (t : Trunk) : Bool :=
  (s.chanA.session.state != .idle && s.chanA.session.trunk == t) ||
  (s.chanB.session.state != .idle && s.chanB.session.trunk == t)

/-- A trunk of a condition that is free in the view and in the own sessions (R7). -/
def trunkFree (s : State) (k : TrunkCondition) (t : Trunk) : Bool :=
  (s.trunkEntry t).condition == k && !trunkHeldInView s t && !ownHoldsTrunk s t

/-- What route choice gives (R7). -/
inductive Route | trunk (t : Trunk) | noRoute | noTrunk
  deriving DecidableEq, Repr

/-- Route choice for a line: the first free IN-SERVICE trunk of the block's list, else the first free SUSPECT
one (R7). -/
def chooseRoute (s : State) (l : Line) : Route :=
  match s.blockEntry (blockOf l) with
  | none => .noRoute
  | some e =>
    match e.trunks.find? (trunkFree s .inService) with
    | some t => .trunk t
    | none =>
      match e.trunks.find? (trunkFree s .suspect) with
      | some t => .trunk t
      | none => .noTrunk

/-- What the checks of a claim find (R114). -/
inductive ClaimCheck
  | passes (t : Trunk)
  | linkDown
  | lineHeld (h : Holder)
  | noRoute
  | noTrunk
  | linkBusy
  deriving DecidableEq, Repr

/-- The holder of a line against a claim on channel `c`: a station in the view, or the other own session
(R114, steps 2 and 3). -/
def claimHolder (s : State) (c : Channel) (l : Line) : Option Holder :=
  match lineHolder s l with
  | some n => some (.station n)
  | none =>
    if (s.chan c.other).session.state ≠ .idle ∧ (s.chan c.other).session.line = l then some .own else none

/-- The checks of a claim on channel `c`, in order; `ahead` frames enter the queue before its CLAIM (R114;
log entry 16). -/
def checkClaim (s : State) (c : Channel) (l : Line) (ahead : Nat) : ClaimCheck :=
  if s.link.state ≠ .active then .linkDown
  else
    match claimHolder s c l with
    | some h => .lineHeld h
    | none =>
      match chooseRoute s l with
      | .noRoute => .noRoute
      | .noTrunk => .noTrunk
      | .trunk t => if s.link.roomLow ahead then .passes t else .linkBusy

/-- A claim is queued and its session begins (R23, R115, R168). -/
def beginSession (c : Channel) (p : Purpose) (l : Line) (t : Trunk) (forced : Bool) (ticket : Option TicketNo)
    (s : State) : State :=
  enqueue (.built (.claim l t p c)) (some c)
    (((s.updSession c fun x =>
        { x with
          state := .claiming
          purpose := p
          line := l
          block := blockOf l
          trunk := t
          forced := forced
          linkedTicket := ticket
          lastResult := none }).updSeq c fun q =>
        { q with outcome := none, inUse := false }).updClaim c fun k =>
        { k with stage := .queued, withdrawal := none })

end Sys2Proof.Machine
end

