-- ==== Sys2Proof/Machine/Sessions.lean ====
section
/-! DEFINITION. How a session leaves its line: releasing, guard, closing, idle, its report, reversal by CANCEL
or ABORT, conflict, link loss (R21, R31, R32, R36 to R42, R72). -/

namespace Sys2Proof.Machine

/-- The session record as its session becomes IDLE (R21). -/
def idleSession (x : Session) : Session :=
  { x with
    state := .idle
    line := 0
    block := 0
    trunk := 0
    relayStep := none
    quietHeld := none
    deferredBy := none
    cancelPending := false
    linkedTicket := none
    frozenAtClaim := false
    offHook := false }

/-- The relay side as its session becomes IDLE; the window for late confirms and the drives stay (R33). -/
def idleSequencer (q : Sequencer) : Sequencer :=
  { q with
    outcome := none
    operateElapsed := false
    confirmTaken := false
    inUse := false
    releasing := none
    waitEnd := none
    confirmLimit := none }

/-- The channel's records as its session becomes IDLE (R21, R112). -/
def clearSession (c : Channel) (s : State) : State :=
  ((s.updSession c idleSession).updSeq c idleSequencer).updClaim c fun _ => .initial

/-- A completion of a session's line and trunk (R38). -/
def completionOf (k : EventKind) (x : Session) (o : EventOutcome) (station : Option Station) : Event :=
  { kind := k, line := some x.line.val, trunk := some x.trunk, outcome := some o, station := station }

/-- An operator session ends by CONFLICT or LINK-LOST with no ACCESS or RELEASE pending: the cause goes into the
waiting completion, or SESSION-ENDED is queued (R42). -/
def sessionEnded (c : Channel) (x : Session) (cause : SessionEndCause) (s : State) : State :=
  if s.done c then (writeSessionEnd c cause s).setCommand c none
  else
    complete c
      { kind := .sessionEnded, line := some x.line.val, trunk := some x.trunk, sessionEnd := some cause } s

/-- An operator session's end is reported, by what the channel has pending (R38, R42). -/
def reportEnd (c : Channel) (x : Session) (o : ChannelOutcome) (station : Option Station) (s : State) : State :=
  match (s.chan c).command with
  | some .access => complete c (completionOf .accessDone x (.channel o) station) s
  | some .release => complete c (completionOf .releaseDone x (.channel o) station) s
  | _ =>
    match o with
    | .conflict => sessionEnded c x .conflict s
    | .linkLost => sessionEnded c x .linkLost s
    | _ => s

/-- A session becomes IDLE with its outcome: an operator session's end is reported to the console, an automatic
one's to the engine, whose item ends (R38, R41, R42, R171). -/
def finishSession (c : Channel) (o : ChannelOutcome) (station : Option Station) (s : State) : State :=
  let x := (s.chan c).session
  let s := clearSession c s
  if x.purpose.automatic then itemEnds s else reportEnd c x o station s

/-- A session becomes IDLE with the outcome fixed for it, else with one given (R32, R35). -/
def finishFixed (c : Channel) (o : ChannelOutcome) (s : State) : State :=
  finishSession c ((s.chan c).seq.outcome.getD o) none s

/-- A session enters CLOSING and queues its RELEASE (R32, R124). -/
def enterClosing (c : Channel) (s : State) : State :=
  let x := (s.chan c).session
  offerUrgent (.release x.line x.trunk) (some c)
    ((s.updSession c fun x => { x with state := .closing }).updSeq c fun q =>
      { q with waitEnd := none, releasing := none })

/-- A session enters GUARD; a guard of 0 ends as it begins (R32, R135). -/
def enterGuard (c : Channel) (s : State) : State :=
  let wait := s.guardTime (s.chan c).session.block
  let s :=
    (s.updSession c fun x => { x with state := .guard }).updSeq c fun q =>
      { q with releasing := none, waitEnd := some (s.now + wait) }
  let s := sequenceEnds c s
  if wait = 0 then enterClosing c s else s

/-- A session must release: it enters RELEASING with the first release step that applies, or CLOSING where it has
driven no relay (R31, R134). -/
def enterReleasing (c : Channel) (s : State) : State :=
  match firstRelease (s.chan c).session.relayStep with
  | none => enterClosing c s
  | some r =>
    giveRelease c r
      (releaseDisturbs c (s.updSession c fun x => { x with state := .releasing }))

/-- An outcome is fixed for a session, unless one is (R36). -/
def fixSession (c : Channel) (o : ChannelOutcome) (s : State) : State :=
  s.updSeq c fun q => { q with outcome := some (q.outcome.getD o) }

/-- A measurement under way is abandoned: its record is discarded and the Quiet Unit is told (R72). -/
def abandonMeasurement (c : Channel) (s : State) : State :=
  let e := (s.chan c).engine
  let s := s.updEngine c fun _ => .initial
  if e.phase ≠ .idle ∧ e.record.any (fun r => needsQuiet r.stages) then quietEndAsked c s else s

/-- A session that holds its pair is reversed toward IDLE from the state it has reached (R36, R39, R41). -/
def reverseSession (c : Channel) (s : State) : State :=
  match (s.chan c).session.state with
  | .claimed => enterClosing c s
  | .deferred => enterReleasing c s
  | .connecting => enterReleasing c (abandonOperate c s)
  | .connected => enterReleasing c (s.updSession c fun x => { x with relayStep := some 5 })
  | .measuring =>
    enterReleasing c (abandonMeasurement c (s.updSession c fun x => { x with relayStep := some 5 }))
  | _ => s

/-- The states in which a session holds its pair and has not begun to end (R116). -/
def SessionState.active : SessionState → Bool
  | .claimed => true
  | .deferred => true
  | .connecting => true
  | .connected => true
  | .measuring => true
  | _ => false

/-- CANCEL of an ACCESS, or ABORT, from the state the session has reached (R36, R37, R41). -/
def cancelSession (c : Channel) (s : State) : State :=
  match (s.chan c).session.state with
  | .claiming =>
    let s := fixSession c .cancelled s
    if frameOnWire s.link (s.link.claimFrame c) then s.updSession c fun x => { x with cancelPending := true }
    else finishSession c .cancelled none (removeIfQueued (s.link.claimFrame c) s)
  | st => if st.active then reverseSession c (fixSession c .cancelled s) else s

/-- Another station holds the session's line or trunk: an active session ends with cause CONFLICT; one already
ending is not changed (R39, R41). -/
def conflict (c : Channel) (s : State) : State :=
  if (s.chan c).session.state.active then
    let s := if (s.chan c).session.isAutomatic then report .blocked s else s
    reverseSession c (fixSession c .conflict s)
  else s

/-- Every access drive of a channel is released at once, an operate awaiting its confirm is abandoned and a
measurement is discarded (R40, R43). -/
def dropDrives (c : Channel) (s : State) : State :=
  ((abandonOperate c s).updSeq c fun q => { q with drives := .none }).updEngine c fun _ => .initial

/-- A session ends at once with cause LINK-LOST (R40, R185). -/
def loseSession (c : Channel) (s : State) : State :=
  let s := dropDrives c s
  if (s.chan c).session.state = .idle then s else finishSession c .linkLost none s

end Sys2Proof.Machine
end

