-- ==== Sys2Proof/Machine/Trunks.lean ====
section
/-! DEFINITION. Trunk conditions and their notices: a timeout, a confirm in time, a notice taken, a restore
(R5, R8 to R13, R110). -/

namespace Sys2Proof.Machine

/-- Store a trunk's entry; a change of its condition queues TRUNK-CONDITION (R8). -/
def changeTrunk (t : Trunk) (e : TrunkEntry) (s : State) : State :=
  if (s.trunkEntry t).condition = e.condition then s.setTrunk t e
  else
    emit
      { kind := .trunkCondition
        line := some t.val
        outcome := some (.trunk e.condition)
        station := match e.declaredBy with
          | some (.station n) => some n
          | _ => none }
      (s.setTrunk t e)

/-- A TRUNK-NOTICE is queued, only in JOINING or ACTIVE (R9, R13, R110). -/
def queueTrunkNotice (t : Trunk) (out : Bool) (s : State) : State :=
  if s.onLine then offerNotice (.trunkNotice t out) s else s

/-- A trunk's entry after a confirm timeout (R9). -/
def afterTimeout (e : TrunkEntry) : TrunkEntry :=
  match e.condition with
  | .inService => { e with condition := .suspect, streak := 1 }
  | .suspect =>
    if e.streak < 2 then { e with streak := e.streak + 1 }
    else { e with condition := .out, streak := 3, declaredBy := some .self }
  | .out => { e with streak := min 3 (e.streak + 1) }

/-- A confirm timeout through a trunk acts on its entry; a trunk that goes OUT is announced (R9). The own claims
that name it are withdrawn by the Claim Unit (R12). The notice is queued before TRUNK-CONDITION, so that the events of
a frame dropped from a full holding area come first: the model's choice (log entry 40). -/
def chargeTimeout (t : Trunk) (s : State) : State :=
  let e := s.trunkEntry t
  let goesOut := (afterTimeout e).condition = .out ∧ e.condition ≠ .out
  changeTrunk t (afterTimeout e) (if goesOut then queueTrunkNotice t true s else s)

/-- Whether a timeout would make a trunk OUT (R9). -/
def timeoutTakesOut (e : TrunkEntry) : Bool :=
  (afterTimeout e).condition == .out && e.condition != .out

/-- A confirm in time through a trunk acts on its entry (R10). -/
def creditConfirm (t : Trunk) (s : State) : State :=
  let e := s.trunkEntry t
  changeTrunk t
    { e with streak := 0, condition := if e.condition = .suspect then .inService else e.condition } s

/-- A TRUNK-NOTICE taken from another station acts on its trunk (R11). -/
def takeTrunkNotice (n : Station) (t : Trunk) (out : Bool) (s : State) : State :=
  let e := s.trunkEntry t
  if out then changeTrunk t { e with condition := .out, declaredBy := some (.station n) } s
  else changeTrunk t { e with condition := .inService, streak := 0, declaredBy := none } s

/-- The trunk is returned to service here; one that was OUT is announced restored (R13). -/
def restoreTrunk (t : Trunk) (s : State) : State :=
  let e := s.trunkEntry t
  changeTrunk t { e with condition := .inService, streak := 0, declaredBy := none }
    (if e.condition = .out then queueTrunkNotice t false s else s)

/-- The sixteen trunks in number order. -/
def allTrunks : List Trunk := List.finRange 16

/-- An out notice is queued for each trunk declared out by self, in trunk number order (R104, R105). -/
def announceTrunks (s : State) : State :=
  allTrunks.foldl
    (fun r t => if (r.trunkEntry t).declaredBy = some .self then queueTrunkNotice t true r else r) s

end Sys2Proof.Machine
end

