-- ==== Sys2Proof/Machine/Measure.lean ====
section
/-! DEFINITION. The Measurement Engine: starting, readings, ends; the entry to CONNECTED, the yield and the
confirm that lead to them (R27, R30, R34, R45 to R56, R65 to R71, R137, R140). -/

namespace Sys2Proof.Machine

/-- The copies a measurement makes at its acceptance (R17, R49). -/
def copiesFor (s : State) (b : Block) (t : Trunk) : Copies :=
  let e := (s.blockEntry b).getD (makeBlockEntry [] Config.blockDefaults)
  let k := s.trunkEntry t
  ⟨e.rpc, e.cpk, e.minLength, e.settlePerKm, k.rtrunk, k.ctrunk, s.store.thresholds⟩

/-- A record as a measurement starts: stage set and N, every other field absent or clear (R49). -/
def freshRecord (stages : StageSet) (n : Nat) : MeasureRecord where
  stages := stages
  n := n
  fvTG := none
  fvRG := none
  cap := none
  length := none
  extension := 0
  legTR := none
  legTG := none
  legRG := none
  cls := none
  deciding := none
  distance := none
  noisy := false
  partialMark := false
  outcome := none

/-- A measurement starts on a CONNECTED session (R49, R50). -/
def startMeasurement (c : Channel) (stages : StageSet) (n : Nat) (ticket : Bool) (s : State) : State :=
  let x := (s.chan c).session
  let s := s.updEngine c fun _ =>
    { EngineRecord.initial with
      phase := .quietWait
      ticketFlag := ticket
      copies := some (copiesFor s x.block x.trunk)
      record := some (freshRecord stages n) }
  let s := s.updSession c fun x => { x with state := .measuring }
  if needsQuiet stages then askQuiet c x.block s else startRunning c false s

/-- The sample count a measurement will use (R49). -/
def State.samplesUsed (s : State) (n : SampleArg) : Nat := sampleCountOf n.val s.store.thresholds.sampleCount

/-! ### Readings -/

/-- Write a leg's value into a record. -/
def setLeg (l : Leg) (v : LegValue) (r : MeasureRecord) : MeasureRecord :=
  match l with
  | .tr => { r with legTR := some v }
  | .tg => { r with legTG := some v }
  | .rg => { r with legRG := some v }

/-- The record after the CAP reading: capacitance, length, extension (R54, R56, R60). -/
def withCap (k : Copies) (t : Nat) (r : MeasureRecord) : MeasureRecord :=
  let c := capOf t k.ctrunk
  let length := lengthOf t c.nf k.cpk
  { r with
    cap := some c
    length := some length
    extension := extensionOf length k.thresholds.longLoop k.settlePerKm }

/-- The record after a leg's last range reading (R55, R59). -/
def withLeg (k : Copies) (l : Leg) (g : Range) (sum : Int) (r : MeasureRecord) : MeasureRecord :=
  setLeg l (legOf g sum r.n (foreignDC r l) k.rtrunk) r

/-- What an answer's limited numbers write, and the reading that follows, none after the last stage (R51 to
R55). -/
def afterReading (k : Copies) (rd : Reading) (a : HeadAnswer) (r : MeasureRecord) :
    MeasureRecord × Option Reading :=
  match rd with
  | .fv .tg => ({ r with fvTG := some (fvOf a) }, readingAfter r.stages (.fv .tg))
  | .fv l =>
    let r := { r with fvRG := some (fvOf a) }
    if fvCuts k.thresholds r then
      ({ r with partialMark := (readingAfter r.stages (.fv l)).isSome }, none)
    else (r, readingAfter r.stages (.fv l))
  | .cap => (withCap k a.time r, readingAfter r.stages .cap)
  | .range l .high =>
    if a.sum.natAbs < 64 * r.n then (r, some (.range l .low))
    else (withLeg k l .high a.sum r, readingAfter r.stages (.range l .high))
  | .range l .low => (withLeg k l .low a.sum r, readingAfter r.stages (.range l .low))

/-! ### Ends -/

/-- A measurement ends with a record: the Quiet Unit is told, the record becomes the last result, the engine is
IDLE (R65, R67, R69 to R71). -/
def closeMeasurement (c : Channel) (r : MeasureRecord) (s : State) : State :=
  let s := if needsQuiet r.stages then quietEndAsked c s else s
  (s.updSession c fun x => { x with lastResult := some r }).updEngine c fun _ => .initial

/-- The session returns to CONNECTED (R30). -/
def backToConnected (c : Channel) (s : State) : State :=
  s.updSession c fun x => { x with state := .connected }

/-- The MEASURE-DONE of an operator measurement, with the deciding leg and value that go with a class (R64, R68; log
entry 39). -/
def measureDone (c : Channel) (o : EventOutcome) (d : Option Deciding) (ans : TicketAnswer) (s : State) : State :=
  let x := (s.chan c).session
  complete c
    { kind := .measureDone
      line := some x.line.val
      trunk := some x.trunk
      outcome := some o
      ticket := ans.1
      station := ans.2
      deciding := d } s

/-- An automatic session whose measurement has ended is released (R169). -/
def releaseAutomatic (c : Channel) (s : State) : State :=
  enterReleasing c (s.updSession c fun x => { x with relayStep := some 5 })

/-- A measurement reaches its end with outcome DONE (R67, R169). -/
def measurementDone (c : Channel) (k : Copies) (r : MeasureRecord) (s : State) : State :=
  let e := (s.chan c).engine
  let cls := classOf k r
  let r := classified k r
  let x := (s.chan c).session
  let s := backToConnected c (closeMeasurement c r s)
  if x.purpose.automatic then
    releaseAutomatic c (reportMeasured cls r.deciding r.noisy s)
  else if cls.failing && e.ticketFlag then
    let p := storeResult x.line ⟨s.store.clock, .ownOperator, cls, r.deciding, r.noisy⟩ s
    measureDone c (.cls cls) r.deciding p.1 p.2
  else measureDone c (.cls cls) r.deciding (none, none) s

/-- A measurement ends CANCELLED or HEAD-TIMEOUT with the readings already answered (R69, R70). -/
def cutMeasurement (c : Channel) (o : MeasureOutcome) (done : ChannelOutcome) (s : State) : State :=
  match (s.chan c).engine.record with
  | none => s
  | some r =>
    let x := (s.chan c).session
    let s := backToConnected c (closeMeasurement c { r with outcome := some o } s)
    if x.purpose.automatic then releaseAutomatic c (report .timeout s)
    else measureDone c (.channel done) none (none, none) s

/-- An automatic session on a closed loop yields (R34, R71). -/
def yieldSession (c : Channel) (s : State) : State :=
  let s :=
    match (s.chan c).session.state, (s.chan c).engine.record with
    | .measuring, some r => closeMeasurement c { r with outcome := some .yielded } s
    | _, _ => s
  releaseAutomatic c (report .yielded s)

/-- A head answer to the outstanding request is taken (R46, R51). -/
def takeAnswer (c : Channel) (a : HeadAnswer) (s : State) : State :=
  let e := (s.chan c).engine
  match e.request, e.copies, e.record with
  | some q, some k, some r =>
    let a := limitAnswer q.samples a
    let p := afterReading k q.reading a r
    let s := s.updEngine c fun e => { e with request := none, raw := some a, record := some p.1 }
    match p.2 with
    | some rd => sendRequest c rd s
    | none => measurementDone c k p.1 s
  | _, _, _ => s

/-! ### Quiet and the start -/

/-- The 100 ms since the taking of an own QUIET have passed: the measurement starts, or waits for the last entry of the
wait list to leave (R137). -/
def settleEnds (c : Channel) (s : State) : State :=
  if (s.chan c).quiet.phase = .settling then
    startIfSettled c (s.updQuiet c fun q => { q with settled := true })
  else s

/-- What the limit time does to the record, by its phase (R137; log entry 32). -/
def limitRecord (c : Channel) (s : State) : State :=
  match (s.chan c).quiet.phase with
  | .none => s
  | .pending => s.updQuiet c fun _ => .initial
  | .requested =>
    if frameOnWire s.link (s.link.quietFrame c) then
      s.updQuiet c fun q =>
        { q with
          withdrawal := some (q.withdrawal.getD .limit), requestNoted := false, notedBlock := Option.none }
    else (removeIfQueued (s.link.quietFrame c) s).updQuiet c fun _ => .initial
  | .settling => s.updQuiet c fun q => { q with phase := .held, waitList := [] }
  | .held => s
  | .ending => s.updQuiet c fun q => { q with requestNoted := false, notedBlock := Option.none }

/-- 1,500 ms after acceptance a measurement still in QUIET-WAIT starts NOISY (R137). -/
def limitReached (c : Channel) (s : State) : State :=
  if (s.chan c).engine.phase = .quietWait then startRunning c true (limitRecord c s) else s

/-- A HELD own quiet lapses: QUIET-END is queued and the measurement is marked (R140). -/
def quietLapses (c : Channel) (s : State) : State :=
  if (s.chan c).quiet.phase = .held then markNoisy c (endQuiet c s) else s

/-! ### Operate steps -/

/-- The session enters CONNECTED (R30, R50, R135). -/
def enterConnected (c : Channel) (s : State) : State :=
  let x := (s.chan c).session
  let closed := (s.chan c).pins.loopClosed
  let s :=
    (s.updSession c fun x => { x with state := .connected, offHook := closed }).updSeq c fun q =>
      { q with waitEnd := none, confirmLimit := none }
  let s := sequenceEnds c s
  if x.purpose.automatic then
    if closed then yieldSession c s
    else
      match s.auto.item with
      | some i => startMeasurement c i.stages (s.samplesUsed i.n) false s
      | none => s
  else
    let s := complete c (completionOf .accessDone x (.channel .connected) none) s
    if closed then emit { kind := .offHook, channel := some c, line := some x.line.val } s else s

/-- An operate step ends: step 4 after step 3, CONNECTED after step 5 (R27). -/
def operateEnds (c : Channel) (s : State) : State :=
  if (s.chan c).session.relayStep = some 3 then beginStep4 c s else enterConnected c s

/-- The confirm of an operate step is taken; it ends the step once the operate wait has elapsed (R10, R27). -/
def takeConfirm (c : Channel) (s : State) : State :=
  let elapsed := (s.chan c).seq.operateElapsed
  let s := creditConfirm (s.chan c).session.trunk
    (s.updSeq c fun q => { q with confirmTaken := true, confirmHeldBack := false, confirmLimit := none })
  if elapsed then operateEnds c s else s

end Sys2Proof.Machine
end

