-- ==== Sys2Proof/Machine/WatchOps.lean ====
section
/-! DEFINITION. What the Line Watch does with claims and requests (R186 to R192). -/

namespace Sys2Proof.Machine

/-- Whether a filter admits a claim: of this station or of station `n`, with a purpose (R187). -/
def filterAdmits (f : WatchFilter) (own : Bool) (n : Station) (p : Purpose) : Bool :=
  match f with
  | .any => true
  | .own => own
  | .ownOperator => own && p == .operator
  | .ownAutomatic => own && p.automatic
  | .station m => !own && n == m

/-- The capture takes a match and the hit count goes up, saturating (R186). -/
def captureMatch (k : Capture) (s : State) : State :=
  { s with watch := { s.watch with capture := some k, hits := min Config.countMax (s.watch.hits + 1) } }

/-- This station's number, as captures and events give it. -/
def State.ownStation (s : State) : Station := s.store.station.getD 0

/-- A WATCH-HIT is queued unless one waits in the event queue (R189). -/
def emitWatchHit (l : Line) (n : Station) (c : Channel) (p : Purpose) (s : State) : State :=
  if s.port.events.any (·.kind == .watchHit) then s
  else
    emit
      { kind := .watchHit
        line := some l.val
        station := some n
        channel := some c
        outcome := some (.purpose p) } s

/-- A taken CLAIM reaches a watch in MONITOR (R188). -/
def monitorClaim (own : Bool) (n : Station) (l : Line) (t : Trunk) (p : Purpose) (c : Channel) (s : State) :
    State :=
  if s.watch.op = .monitor ∧ s.watch.line = l ∧ filterAdmits s.watch.filter own n p = true then
    emitWatchHit l n c p (captureMatch ⟨n, p, t, c, s.store.clock⟩ s)
  else s

/-- Whether a stop operation watches an own automatic claim on a line (R187, R190, R191). -/
def stopWatches (s : State) (op : WatchOp) (l : Line) (p : Purpose) : Bool :=
  s.watch.op == op && s.watch.line == l && p.automatic && filterAdmits s.watch.filter true s.ownStation p

/-- An own automatic CLAIM taken for the watched line in STOP-ON-CLAIM: the stop acts, or is only captured
(R191, R192). -/
def stopAtClaim (c : Channel) (s : State) : State :=
  let x := (s.chan c).session
  if stopWatches s .stopOnClaim x.line x.purpose then
    let acts := stopActs s.auto.run && !x.cancelPending
    let s := captureMatch ⟨s.ownStation, x.purpose, x.trunk, c, s.store.clock⟩ s
    if acts then freeze .watchClaim x.line (s.updSession c fun x => { x with frozenAtClaim := true }) else s
  else s

/-- An own CLAIM taken reaches the Line Watch (R188, R191). -/
def watchOwnClaim (c : Channel) (s : State) : State :=
  let x := (s.chan c).session
  stopAtClaim c (monitorClaim true s.ownStation x.line x.trunk x.purpose c s)

end Sys2Proof.Machine
end

