-- ==== Sys2Proof/Machine/Claims.lean ====
section
/-! DEFINITION. The Claim Unit: withdrawals, re-routes, conflicts, the own claim's attempts (R12, R39, R102, R112
to R125). -/

namespace Sys2Proof.Machine

/-- A claim ends without having been taken: its CLAIM leaves the queue and the session becomes IDLE. An automatic
one is BLOCKED (R120, R122). -/
def endClaim (c : Channel) (o : ChannelOutcome) (station : Option Station) (s : State) : State :=
  let x := (s.chan c).session
  let s := removeIfQueued (s.link.claimFrame c) s
  let s := if x.purpose.automatic then report .blocked s else s
  finishSession c (if x.cancelPending then .cancelled else o) station s

/-- A withdrawn operator claim takes another trunk of its line, behind every frame then queued with its counts
at 0, or ends NO-TRUNK (R121). -/
def rerouteClaim (c : Channel) (station : Option Station) (s : State) : State :=
  match chooseRoute s (s.chan c).session.line, s.link.claimFrame c with
  | .trunk t, some f =>
    let x := (s.chan c).session
    (s.updSession c fun x => { x with trunk := t }).updLink fun l =>
      { l with
        queue :=
          l.queue.filter (·.entry != f.entry) ++
            [{ f with
                body := .built (.claim x.line t x.purpose c), entry := l.nextEntry, voids := 0, losses := 0 }]
        nextEntry := l.nextEntry + 1 }
  | _, _ => endClaim c .noTrunk station s

/-- A pair of a line and a trunk that another station holds. -/
abbrev Pair := Line × Trunk

/-- Whether a session's line is among pairs another station holds. -/
def lineContested (x : Session) (ps : List Pair) : Bool := ps.any (·.1 == x.line)

/-- Whether a session's trunk is among pairs another station holds. -/
def trunkContested (x : Session) (ps : List Pair) : Bool := ps.any (·.2 == x.trunk)

/-- The first pass over one channel: withdrawals that end the session, and conflicts (R102, R119, R120). -/
def contestFirst (n : Station) (ps : List Pair) (c : Channel) (s : State) : State :=
  let r := s.chan c
  let x := r.session
  if r.claim.stage = .queued then
    if lineContested x ps then endClaim c .claimLost (some n) s
    else if trunkContested x ps && x.purpose.automatic then endClaim c .claimLost (some n) s
    else s
  else if lineContested x ps || trunkContested x ps then conflict c s
  else s

/-- The second pass over one channel: the re-route of an operator claim (R119, R121). -/
def contestSecond (n : Station) (ps : List Pair) (c : Channel) (s : State) : State :=
  let r := s.chan c
  if r.claim.stage = .queued && trunkContested r.session ps then rerouteClaim c (some n) s else s

/-- Pairs that another station holds reach both own sessions: every withdrawal that ends a session and every conflict,
then the re-routes, channel A before channel B (R102, R119). That the conflicts and withdrawals, too, are made for
channel A before channel B is the model's choice (log entry 40). -/
def contest (n : Station) (ps : List Pair) (s : State) : State :=
  contestSecond n ps .b (contestSecond n ps .a (contestFirst n ps .b (contestFirst n ps .a s)))

/-- Another station's RELEASE names a line or trunk that an active own session holds (R125). -/
def releaseContests (p : Pair) (c : Channel) (s : State) : State :=
  let x := (s.chan c).session
  if x.state.active && (lineContested x [p] || trunkContested x [p]) then conflict c s else s

/-- A trunk has become OUT: a queued automatic claim that names it ends, one on the wire has a withdrawal pending
(R12, R120). -/
def trunkOutFirst (t : Trunk) (station : Option Station) (c : Channel) (s : State) : State :=
  let r := s.chan c
  if r.session.trunk ≠ t then s
  else
    match r.claim.stage with
    | .queued => if r.session.purpose.automatic then endClaim c .noTrunk station s else s
    | .onWire => s.updClaim c fun k => { k with withdrawal := some (k.withdrawal.getD .trunk) }
    | _ => s

/-- A trunk has become OUT: a queued operator claim that names it is re-routed (R12, R121). -/
def trunkOutSecond (t : Trunk) (station : Option Station) (c : Channel) (s : State) : State :=
  let r := s.chan c
  if r.session.trunk = t ∧ r.claim.stage = .queued then rerouteClaim c station s else s

/-- A trunk has become OUT: it acts on the own claims that name it (R12). -/
def trunkWentOut (t : Trunk) (station : Option Station) (s : State) : State :=
  trunkOutSecond t station .b (trunkOutSecond t station .a
    (trunkOutFirst t station .b (trunkOutFirst t station .a s)))

/-- Run an action on a trunk's entry, and withdraw the claims that name it where it went OUT (R12). -/
def withTrunkWatch (t : Trunk) (station : Option Station) (f : State → State) (s : State) : State :=
  let s' := f s
  if (s'.trunkEntry t).condition = .out ∧ (s.trunkEntry t).condition ≠ .out then trunkWentOut t station s' else s'

/-! ### The own claim on the wire -/

/-- An attempt of an own CLAIM starts (R112, R117). -/
def claimOnWire (c : Channel) (s : State) : State := s.updClaim c fun k => { k with stage := .onWire }

/-- An own CLAIM has been taken: Claim Unit, Line Watch, then the go rule or CLOSING (R37, R118). -/
def ownClaimTaken (c : Channel) (s : State) : State :=
  if (s.chan c).session.state = .claiming then
    let s := s.updClaim c fun _ => ⟨.held, none⟩
    if (s.chan c).session.cancelPending then enterClosing c (watchOwnClaim c s)
    else goRule c (watchOwnClaim c (s.updSession c fun x => { x with state := .claimed }))
  else s

/-- An attempt of an own CLAIM has ended in any way but taken: a cancel or withdrawal pending acts, else the claim
is QUEUED again (R117, R120). -/
def claimNotTaken (c : Channel) (s : State) : State :=
  let r := s.chan c
  let s := s.updClaim c fun _ => ⟨.queued, none⟩
  if r.session.cancelPending then endClaim c .cancelled none s
  else
    match r.claim.withdrawal with
    | none => s
    | some .line => endClaim c .claimLost none s
    | some .trunk =>
      if r.session.purpose.automatic then endClaim c .noTrunk none s else rerouteClaim c none s

/-- Whether the attempt's end takes an own CLAIM out of the queue or moves it, so that no void counts toward a
drop (R117). -/
def claimLeaves (r : ChannelRecord) : Bool := r.session.cancelPending || r.claim.withdrawal.isSome

end Sys2Proof.Machine
end

