-- ==== Sys2Proof/Machine/Arbiter.lean ====
section
/-! DEFINITION. The arbiter over the automatic channel: due retests, the walk of the sweep, the item's claim
(R167, R168, R175, R180, R182, R190). -/

namespace Sys2Proof.Machine

/-- Whether a line is ticketed: an own ticket in any state, or an index entry (R180). -/
def ticketed (ts : TicketStore) (l : Line) : Bool := (ts.byLine l).isSome || (ts.indexFor l).isSome

/-- The last line that an absent block's skip passes over: the block's last, or the sweep's last if that comes
first (R180). -/
def skipEnd (w : Sweep) : Line := ⟨min w.last.val (w.cursor.val / 1024 * 1024 + 1023), by omega⟩

/-- A ticket is due: in RETEST, its next due at or before the clock (R167). -/
def Ticket.due (t : Ticket) (clock : Nat) : Bool :=
  t.state == .retest && t.plan.any fun p => decide (p.nextDue ≤ clock)

/-- The due ticket with the earliest next due, the first in store order of equal ones (R167). -/
def earliestDue (clock : Nat) : List Ticket → Option Ticket
  | [] => none
  | t :: rest =>
    match t.due clock, earliestDue clock rest with
    | false, m => m
    | true, none => some t
    | true, some u =>
      if (u.plan.map (·.nextDue)).getD 0 < (t.plan.map (·.nextDue)).getD 0 then some u else some t

/-- The item of a due retest (R167). -/
def retestItem (t : Ticket) : Item := ⟨.retest, t.line, some t.number, retestStages t.cls, 0, false, none, false⟩

/-- The item of a sweep line (R167). -/
def sweepItem (w : Sweep) (l : Line) (fromDeferred : Bool) : Item :=
  ⟨.sweep, l, none, w.stages, w.n, fromDeferred, none, false⟩

/-- One look of the walk: an item to test, or the state after a line or block has been passed over, or nothing
to look at (R180, R182). -/
inductive WalkStep
  | item (i : Item)
  | passed (s : State)
  | done

/-- The walk looks at the line under the cursor, or at the head of the deferred list (R180, R182). -/
def walkStep (s : State) : WalkStep :=
  match s.auto.sweep with
  | none => .done
  | some w =>
    match w.phase with
    | .complete => .done
    | .main =>
      if (s.blockEntry (blockOf w.cursor)).isNone then
        .passed (completeSweep (updSweep
          (fun w => cursorPast (skipEnd w)
            { w with skipped := countUp w.skipped ((skipEnd w).val - w.cursor.val + 1) })
          (emit { kind := .blockSkipped, line := some w.cursor.val } s)))
      else if ticketed s.ticketStore w.cursor then
        .passed (completeSweep (updSweep
          (fun w => cursorPast w.cursor { w with skipped := countUp w.skipped 1 }) s))
      else .item (sweepItem w w.cursor false)
    | .deferredPass =>
      match w.deferred with
      | [] => .done
      | l :: rest =>
        if (s.blockEntry (blockOf l)).isNone then
          .passed (completeSweep (skipLine l (updSweep (fun w => { w with deferred := rest }) s)))
        else if ticketed s.ticketStore l then
          .passed (completeSweep (updSweep
            (fun w => { w with deferred := rest, skipped := countUp w.skipped 1 }) s))
        else .item (sweepItem w l true)

/-- The walk goes on until it reaches a line to test or the sweep completes (R180, R182). -/
def walkSweep : Nat → State → State × Option Item
  | 0, s => (s, none)
  | fuel + 1, s =>
    match walkStep s with
    | .item i => (s, some i)
    | .passed s' => walkSweep fuel s'
    | .done => (s, none)

/-- How many looks a walk can need: each passes over a block, a ticketed line or a deferred line. -/
def walkFuel (s : State) : Nat :=
  s.ticketStore.tickets.length + s.ticketStore.index.length +
    ((s.auto.sweep.map (·.deferred.length)).getD 0) + 66

/-- The arbiter's choice: a due retest, else the next sweep line, else nothing (R167). -/
def chooseItem (s : State) : State × Option Item :=
  match earliestDue s.store.clock s.ticketStore.tickets with
  | some t => (s, some (retestItem t))
  | none => walkSweep (walkFuel s) s

/-- Whether the arbiter may choose now (R167). -/
def mayChoose (s : State) : Bool :=
  stopActs s.auto.run && s.auto.item.isNone && s.link.state == .active && !s.auto.waitingForRoom && s.onLine &&
    (match s.store.autoChannel with
     | none => false
     | some c => (s.chan c).session.state == .idle)

/-- The current item ends at once with outcome BLOCKED (R168, R171). -/
def itemBlocked (s : State) : State := itemEnds (report .blocked s)

/-- The engine asks for the current item's claim and acts on the answer; `exempt` is the one request of CONTINUE
or STEP that the Line Watch lets pass (R115, R168, R190, R192). -/
def askForClaim (i : Item) (c : Channel) (exempt : Bool) (s : State) : State :=
  match checkClaim s c i.line (aheadOfEngine s) with
  | .linkDown => dropItem s
  | .linkBusy => (dropItem s).updAuto fun a => { a with waitingForRoom := true }
  | .lineHeld _ => itemBlocked s
  | .noRoute => itemBlocked s
  | .noTrunk => itemBlocked s
  | .passes t =>
    let begin_ := beginSession c i.purpose i.line t false i.ticket
    if stopWatches s .stopOnRequest i.line i.purpose && !exempt then
      let s := captureMatch ⟨s.ownStation, i.purpose, t, c, s.store.clock⟩ s
      if stopActs s.auto.run then freeze .watchRequest i.line s else begin_ s
    else begin_ s

/-- A chosen item becomes the current item; a retest whose block is absent ends BLOCKED (R4, R168). -/
def startItem (i : Item) (c : Channel) (s : State) : State :=
  let s := s.updAuto fun a => { a with item := some i }
  if (s.blockEntry (blockOf i.line)).isNone then itemBlocked s else askForClaim i c false s

/-- The arbiter chooses (R167). -/
def arbiterChooses (s : State) : State :=
  match s.store.autoChannel with
  | none => s
  | some c =>
    if mayChoose s then
      match chooseItem s with
      | (s, some i) => startItem i c s
      | (s, none) => if s.auto.run = .stepping then haltEngine (emit { kind := .stepIdle } s) else s
    else s

/-- A held session's frozen-at-claim mark is cleared and the go rule applied (R24, R173, R175). -/
def unfreezeSession (c : Channel) (s : State) : State :=
  let s := s.updSession c fun x => { x with frozenAtClaim := false }
  match (s.chan c).session.state with
  | .claimed => goRule c s
  | .deferred => goRule c s
  | _ => s

/-- Whether a held item is still to be asked for: a sweep line, or a retest whose ticket is still in RETEST
(R175). -/
def itemStands (i : Item) (s : State) : Bool :=
  match i.purpose, i.ticket with
  | .retest, some n => (s.ticketStore.byNumber n).any (·.state == .retest)
  | _, _ => true

/-- The engine leaves FROZEN for a run state and the held item goes on by its cause (R174, R175). -/
def leaveFrozen (r : RunState) (s : State) : State :=
  let cause := s.auto.freezeCause
  let s := s.updAuto fun a => { a with run := r, returnState := none, freezeCause := none }
  match s.auto.item, s.store.autoChannel, cause with
  | some _, some c, some .watchClaim => unfreezeSession c s
  | some i, some c, some .watchRequest => if itemStands i s then askForClaim i c true s else dropItem s
  | _, _, _ => s

/-- ARBITER_CHOOSE: the arbiter chooses an item, where it may (R167). -/
def execArbiterChoose (s : State) : Result := .next (arbiterChooses s)

end Sys2Proof.Machine
end

