-- ==== Sys2Proof/Machine/Link.lean ====
section
/-! DEFINITION. The Link Controller: joining, losing the line, clashes, own attempts from start to end (R77, R80,
R81, R85 to R95, R103, R104, R117, R130). -/

namespace Sys2Proof.Machine

/-- A LINK-STATE event is queued where the link state has changed from an earlier one (R87). -/
def emitIfChanged (old : LinkState) (s : State) : State :=
  if s.link.state = old then s else emitLinkState s

/-- A set presence mark enters the queue, where room remains after the holding area (R85). -/
def servePresence (s : State) : State :=
  if s.link.presenceMark && s.link.roomLow (aheadOfPresence s.link) then
    enqueue .presenceMark none (s.updLink fun l => { l with presenceMark := false })
  else s

/-- The link enters JOINING: the presence mark is set and its PRESENCE queued at once, the join settle and the presence
timer start, open tickets are marked and out notices queued (R89, R103, R104). LINK-STATE (JOINING) enters the event
queue before a LINK-STATE (LINK-ERROR) that the notices draw: the model's choice (log entry 40). -/
def enterJoining (s : State) : State :=
  let old := s.link.state
  let s := s.updLink fun l =>
    { l with
      state := .joining
      cause := none
      presenceMark := true
      joinEnd := some (s.now + Config.joinTime)
      presenceDue := some (s.now + Config.presenceInterval) }
  announceTrunks ((emitIfChanged old (servePresence s)).updTickets announceOpen)

/-- Both own quiet records and every clear owed end without a frame (R141). -/
def dropQuiets (s : State) : State :=
  let f := fun r : ChannelRecord =>
    { r with quiet := .initial, clears := [], session := { r.session with quietHeld := none } }
  { s with chanA := f s.chanA, chanB := f s.chanB }

/-- The queue, the marks, the roster and the index are emptied; notes held back are let go (R88, R91, R161). -/
def emptyView (s : State) : State :=
  { s with
    link := { emptyLink s.link with wire := none }
    roster := []
    ticketStore := releaseAllNotes { s.ticketStore with index := [] } }

/-- The link enters MUTE or LOST: sessions end, queue and view are emptied, quiets end without a frame (R40, R91,
R141). Channel A's completion enters the event queue before channel B's, and both before the LINK-STATE; the STEP-DONE of
the item that one of the sessions serves, which is no completion (R203), enters in that session's place, so before the
LINK-STATE too, though R91 has them happen together: the model's choice (log entry 40). -/
def loseLink (st : LinkState) (cause : Option LostCause) (s : State) : State :=
  let s := loseSession .b (loseSession .a s)
  let s := lowFrameLeft (dropQuiets (emptyView s))
  emitLinkState (s.updLink fun l =>
    { l with state := st, cause := cause, joinEnd := none, presenceDue := none })

/-- A station clash: CLASH is set, a CLASH event queued, and the link enters MUTE (R93). The CLASH enters the event
queue before the completions, the STEP-DONE of a stepping item and the LINK-STATE of the entry to MUTE, though R91 names
it after them: the model's choice (log entry 40). -/
def clash (s : State) : State :=
  loseLink .mute none
    (emit { kind := .clash, station := some s.ownStation } (s.updLink fun l => { l with clash := true }))

/-! ### The start of an attempt -/

/-- The frame offered at idle: the lowest urgency, the first to have entered among equal ones (R82). -/
def bestFrame : List QueuedFrame → Option QueuedFrame
  | [] => none
  | f :: rest =>
    match bestFrame rest with
    | none => some f
    | some g => if g.urgency < f.urgency then some g else some f

/-- A channel's own holding, as a PRESENCE lists it (R85, R113). -/
def ownHolding (r : ChannelRecord) : List Holding :=
  if r.claim.stage = .held then [⟨r.session.line, r.session.trunk, r.session.purpose⟩] else []

/-- A channel's quiet block, as a PRESENCE lists it (R85). -/
def ownQuietBlock (r : ChannelRecord) : List Block := if r.quiet.stands then r.quiet.block.toList else []

/-- The body of a PRESENCE as its attempt starts (R85). Channel A's holding is listed before channel B's, and likewise
the quiet blocks: the model's choice (log entry 40). -/
def presenceBody (s : State) : FrameBody :=
  .presence (s.link.state == .joining) (ownHolding s.chanA ++ ownHolding s.chanB)
    (ownQuietBlock s.chanA ++ ownQuietBlock s.chanB)

/-- An attempt starts with a body (R77). -/
def startAttempt (f : QueuedFrame) (b : FrameBody) (closed : Nat) (s : State) : State :=
  let s := s.updLink fun l => { l with wire := some ⟨f.entry, b, closed⟩ }
  match b, f.origin with
  | .claim _ _ _ _, some c => claimOnWire c s
  | _, _ => s

/-- The best frame's attempt starts; a TICKET-NOTE with nothing to say leaves the queue and the next frame is
offered (R77, R85, R152; log entry 27). -/
def offerBest : Nat → State → State
  | 0, s => s
  | fuel + 1, s =>
    match bestFrame s.link.queue with
    | none => s
    | some f =>
      match f.body with
      | .built b => startAttempt f b 0 s
      | .presenceMark => startAttempt f (presenceBody s) 0 s
      | .noteMark =>
        let p := noteEntries s.ticketStore
        if p.1.isEmpty then offerBest fuel (removeFrame f s) else startAttempt f (.ticketNote p.1) p.2 s

/-- Whether a soft reset's farewell is going on (R95). -/
def State.inFarewell (s : State) : Bool := s.softReset.any (·.farewell)

/-- At line idle the station starts an attempt, where it sends and none of its frames is on the wire (R77, R87,
R95). -/
def attemptStarts (s : State) : State :=
  if (s.onLine || s.inFarewell) && s.link.wire.isNone then offerBest (s.link.queue.length + 1) s else s

/-! ### The end of an attempt -/

/-- The frame of the queue that is on the wire. -/
def wireFrame (s : State) : Option QueuedFrame :=
  s.link.wire.bind fun w => s.link.queue.find? (·.entry == w.entry)

/-- The own attempt is over. -/
def clearWire (s : State) : State := s.updLink fun l => { l with wire := none }

/-- Change a frame of the queue, which keeps its place. -/
def updateFrame (f : QueuedFrame) (g : QueuedFrame → QueuedFrame) (s : State) : State :=
  s.updLink fun l => { l with queue := l.queue.map fun x => if x.entry = f.entry then g x else x }

/-- A loss of arbitration: the count goes up, and a frame first queued at urgency 2 or 3 may age once (R86). -/
def afterLoss (f : QueuedFrame) : QueuedFrame :=
  let n := min 8 (f.losses + 1)
  if n = 8 ∧ 2 ≤ f.first ∧ f.aged = false then { f with losses := n, urgency := f.urgency - 1, aged := true }
  else { f with losses := n }

/-- What the queueing block of a CLAIM or QUIET does as an attempt ends without being taken (R117, R130). -/
def attemptNotTaken (f : QueuedFrame) (s : State) : State :=
  match f.body, f.origin with
  | .built (.claim _ _ _ _), some c => claimNotTaken c s
  | .built (.quiet _), some c => quietNotTaken c f s
  | _, _ => s

/-- Whether a cancel or withdrawal pending takes the frame out at the attempt's end (R117, R130). -/
def attemptWithdrawn (f : QueuedFrame) (s : State) : Bool :=
  match f.body, f.origin with
  | .built (.claim _ _ _ _), some c => claimLeaves (s.chan c)
  | .built (.quiet _), some c => (s.chan c).quiet.withdrawal.isSome
  | _, _ => false

/-- The farewell ends when no farewell frame is left (R95). -/
def farewellChecked (s : State) : State :=
  if s.link.queue.isEmpty && s.link.waiting.isEmpty && s.link.wire.isNone then
    { s with softReset := s.softReset.map fun r => { r with farewell := false } }
  else s

/-- The own attempt loses arbitration (R77, R86, R117, R130). -/
def arbitrationLost (s : State) : State :=
  match wireFrame s with
  | none => farewellChecked (clearWire s)
  | some f => attemptNotTaken f (updateFrame f afterLoss (clearWire s))

/-- What a taken own frame does, by its kind (R118, R124, R131, R133, R139, R152, R161). -/
def ownFrameTaken (w : Attempt) (origin : Option Channel) (s : State) : State :=
  match w.body, origin with
  | .release _ _, some c => if (s.chan c).session.state = .closing then finishFixed c .released s else s
  | .quietBusy b n, some c => ownBusyTaken c b n s
  | .quietClear b n, some c => ownClearGone c b n s
  | .quietEnd _, some c => ownQuietEnds c s
  | .claim _ _ _ _, some c => ownClaimTaken c s
  | .quiet _, some c => ownQuietTaken c s
  | .ticketNote es, _ => s.updTickets (noteTaken es w.fromClosedList)
  | .handAccept _ _ n, _ => s.updTickets (releaseNote n)
  | _, _ => s

/-- What the drop of an own frame does, by its kind (R32, R117, R130, R135, R139, R161, R163). -/
def ownFrameDropped (b : QueuedBody) (origin : Option Channel) (s : State) : State :=
  match b, origin with
  | .built (.release _ _), some c =>
    if (s.chan c).session.state = .closing then finishFixed c .linkError s else s
  | .built (.quietBusy k n), some c => ownBusyDropped c k n s
  | .built (.quietClear k n), some c => ownClearGone c k n s
  | .built (.quietEnd _), some c => ownQuietEnds c s
  | .built (.claim _ _ _ _), some c => endClaim c .linkError none s
  | .built (.quiet _), some c => quietDropped c s
  | .built b, _ => tellDropped b s
  | _, _ => s

/-- An own attempt ends with the link lost or muted: a cancel or withdrawal pending acts before it (R117, R130). -/
def pendingActs (s : State) : State :=
  match wireFrame s with
  | none => s
  | some f => if attemptWithdrawn f s then attemptNotTaken f (clearWire s) else s

/-- A won attempt is void: a pending cancel or withdrawal takes the frame out; the fourth void drops it; else it
stays queued (R80, R117, R130). -/
def attemptVoid (f : QueuedFrame) (s : State) : State :=
  if attemptWithdrawn f s then attemptNotTaken f s
  else if f.voids + 1 < 4 then attemptNotTaken f (updateFrame f (fun x => { x with voids := x.voids + 1 }) s)
  else ownFrameDropped f.body f.origin (setLinkError (removeFrame f s))

/-- A farewell attempt's end: taken or unheard ends its frame, the fourth void drops it without LINK-ERROR
(R95). -/
def farewellAttempt (f : QueuedFrame) (gone : Bool) (s : State) : State :=
  if gone || decide (4 ≤ f.voids + 1) then farewellChecked (removeFrame f s)
  else updateFrame f (fun x => { x with voids := x.voids + 1 }) s

/-- Whether the slots say that no receiver objected (R80). -/
def noObjection : AttemptEnd → Bool
  | .slots _ o => !o
  | .arbitrationMismatch => false

/-- Whether the slots say that the attempt was unheard (R81). -/
def isUnheard : AttemptEnd → Bool
  | .slots h o => !h && !o
  | .arbitrationMismatch => false

/-- A won own attempt ends (R80, R81). -/
def attemptEnds (how : AttemptEnd) (s : State) : State :=
  match s.link.wire, wireFrame s with
  | none, _ => s
  | some _, none => farewellChecked (clearWire s)
  | some w, some f =>
    if s.inFarewell then farewellAttempt f (noObjection how) (clearWire s)
    else if isUnheard how && s.link.state == .active && !s.roster.isEmpty then
      loseLink .lost (some .unheard) (pendingActs s)
    else if noObjection how then ownFrameTaken w f.origin (removeFrame f (clearWire s))
    else attemptVoid f (clearWire s)

/-! ### Another station's frame -/

/-- Whether the station checks another station's frame and drives a slot: in JOINING or ACTIVE, a farewell among
them, with no attempt of its own on the wire (R78, R95; log entry 10). -/
def State.drivesSlots (s : State) : Bool :=
  (s.link.state == .joining || s.link.state == .active) && s.link.wire.isNone

/-- The slot driven at the end of a frame of another station, by what its check finds (R78). -/
def driveSlot (passed : Bool) (s : State) : State :=
  if s.drivesSlots then s.updLink fun l => { l with slot := some (slotFor passed) } else s

/-! ### The rows -/

/-- FRAME_ATTEMPT_START (R77). -/
def execFrameAttemptStart (s : State) : Result := .next (attemptStarts s)

/-- ARBITRATION_LOSS (R77). -/
def execArbitrationLoss (s : State) : Result :=
  .next (if s.link.wire.isSome then arbitrationLost s else s)

/-- OWN_ATTEMPT_END (R80). -/
def execOwnAttemptEnd (how : AttemptEnd) (s : State) : Result := .next (attemptEnds how s)

/-- URGENT_FRAME_ENTERS: the urgency-0 frame that has waited longest enters a free slot (R83). -/
def execUrgentFrameEnters (s : State) : Result :=
  .next
    (match s.link.waiting with
     | [] => s
     | f :: rest =>
       if s.link.queue.length < Config.queueSlots then
         enqueue f.body f.origin (s.updLink fun l => { l with waiting := rest })
       else s)

/-- HOLDING_AREA_ENTER: the frame that has waited longest enters where there is room (R84). -/
def execHoldingAreaEnter (s : State) : Result :=
  .next
    (match s.link.holding with
     | [] => s
     | f :: rest =>
       if s.link.roomLow 0 then enqueue f.body f.origin (s.updLink fun l => { l with holding := rest }) else s)

/-- MARK_ENTERS_QUEUE: a set presence mark, else a set note mark, enters where room remains after the holding
area (R85). A mark set while there is room enters here and not in the step that sets it, the entry to JOINING apart:
the model's choice (log entry 41). -/
def execMarkEntersQueue (s : State) : Result :=
  .next
    (if !s.onLine then s
     else if s.link.presenceMark then servePresence s
     else if s.noteMark && s.link.roomLow (aheadOfNote s.link) then enqueue .noteMark none s
     else s)

/-- QUIET_REQUEST_QUEUED: a PENDING record queues its QUIET, where it may (R129). -/
def execQuietRequestQueued (c : Channel) (s : State) : Result := .next (serveQuiet c s)

/-- JOIN_SETTLE_END: the link enters ACTIVE (R89). -/
def execJoinSettleEnd (s : State) : Result :=
  .next
    (if s.link.state = .joining ∧ s.onLine = true then
       emitLinkState (s.updLink fun l => { l with state := .active, joinEnd := none })
     else s)

/-- Whether a PRESENCE is queued or due (R85). -/
def presenceQueued (l : Link) : Bool := l.presenceMark || l.queue.any (·.body == .presenceMark)

/-- PRESENCE_TIMER: a PRESENCE falls due and the timer runs on (R85, R103). The mark set waits for MARK_ENTERS_QUEUE
even where there is room: the model's choice (log entry 41). -/
def execPresenceTimer (s : State) : Result :=
  .next
    (if s.onLine then
       s.updLink fun l =>
         { l with
           presenceDue := some (s.now + Config.presenceInterval)
           presenceMark := if presenceQueued l then l.presenceMark else true }
     else s)

/-- The farewell ends at once: its frames are discarded; an attempt on the wire then ends with no frame (R95). -/
def endFarewell (s : State) : State :=
  { s with
    link := emptyLink s.link
    softReset := s.softReset.map fun r => { r with farewell := false } }

/-- FAREWELL_LIMIT: 250 ms after acceptance the farewell ends (R95). -/
def execFarewellLimit (s : State) : Result := .next (if s.inFarewell then endFarewell s else s)

/-- STUCK_LINE (R90, R95, R117). -/
def execStuckLine (s : State) : Result :=
  .next
    (if s.inFarewell then clearWire (endFarewell s)
     else if s.onLine then loseLink .lost (some .stuck) (pendingActs s)
     else if s.link.state = .lost ∧ s.link.cause = some .unheard ∧ s.softReset = none then
       emitLinkState (s.updLink fun l => { l with cause := some .stuck })
     else s)

/-- STUCK_CLEARED (R92). -/
def execStuckCleared (s : State) : Result :=
  .next
    (if s.link.state = .lost ∧ s.link.cause = some .stuck ∧ s.softReset = none then enterJoining s else s)

/-- CLASH_FOUND: a read-back mismatch in an own frame, the line then recessive (R93, R95, R117). -/
def execClashFound (s : State) : Result :=
  .next
    (if s.inFarewell then clearWire (endFarewell s)
     else if s.onLine then clash (pendingActs s)
     else s)

/-- Another station's frame is heard that passes the check, is not void and bears the own number: in a farewell it ends
the farewell at once, in JOINING, ACTIVE or LOST it is a clash, and in OFF, in MUTE and in the rest of a soft reset it is
nothing (R79, R92, R93, R95; log entry 11). -/
def ownNumberHeard (s : State) : State :=
  if s.inFarewell then clearWire (endFarewell s)
  else if s.onLine then clash s
  else if s.link.state = .lost ∧ s.softReset = none then clash s
  else s

/-- OWN_NUMBER_FRAME: another station's frame passes the check and bears the own number (R78, R93, R95). -/
def execOwnNumberFrame (s : State) : Result := .next (ownNumberHeard (driveSlot true s))

end Sys2Proof.Machine
end

