-- ==== Sys2Proof/Machine/AutoCommands.lean ====
section
/-! DEFINITION. SWEEP START, RUN, STOP, STEP, CONTINUE, ABORT and the Line Watch's commands (R172 to R176, R179,
R193, R194). -/

namespace Sys2Proof.Machine

/-- SWEEP START taken (R179). -/
def takeSweepStart (first last : Line) (stages : StageSet) (n : SampleArg) (s : State) : Answer × State :=
  if last < first then refuse (.badArgument 1) s
  else if stages.isEmpty then refuse (.badArgument 3) s
  else if s.auto.run ≠ .halted then refuse .wrongState s
  else
    (.accepted (.sweepRange first last (last.val - first.val + 1)),
      s.updAuto fun a => { a with sweep := some ⟨first, last, stages, n, .main, first, [], 0, 0, 0⟩ })

/-- Whether an operator session exists on a channel (R172). -/
def operatorSessionOn (s : State) (c : Channel) : Bool :=
  (s.chan c).session.state != .idle && !(s.chan c).session.purpose.automatic

/-- The third and fourth checks of RUN, and the run state entered (R172, R174). -/
def startEngine (r : RunState) (s : State) : Answer × State :=
  match s.store.autoChannel with
  | none => refuse (.automaticChannel none) s
  | some c =>
    if operatorSessionOn s c then refuse (.channelInUse c) s
    else accepted (s.updAuto fun a => { a with run := r })

/-- RUN taken (R172). -/
def takeRun (s : State) : Answer × State :=
  if !s.store.configured then refuse .notConfigured s
  else if s.auto.run ≠ .halted then refuse .wrongState s
  else startEngine .running s

/-- STOP taken in FROZEN (R173). -/
def stopFrozen (s : State) : State :=
  match s.auto.item, s.auto.freezeCause with
  | some _, some .watchClaim => leaveFrozen .stopping s
  | _, _ => haltEngine (dropItem s)

/-- STOP taken (R173). -/
def takeStop (s : State) : Answer × State :=
  match s.auto.run with
  | .running =>
    if s.auto.item.isSome then accepted (s.updAuto fun a => { a with run := .stopping })
    else accepted (haltEngine s)
  | .frozen => accepted (stopFrozen s)
  | _ => refuse .wrongState s

/-- STEP taken (R174). -/
def takeStep (s : State) : Answer × State :=
  match s.auto.run with
  | .halted => if !s.store.configured then refuse .notConfigured s else startEngine .stepping s
  | .frozen => accepted (leaveFrozen .stepping s)
  | _ => refuse .wrongState s

/-- CONTINUE taken (R175). -/
def takeContinue (s : State) : Answer × State :=
  match s.auto.run with
  | .frozen => accepted (leaveFrozen (s.auto.returnState.getD .running) s)
  | _ => refuse .wrongState s

/-- What ABORT does to the current item (R176). -/
def abortItem (s : State) : State :=
  match s.auto.item, s.store.autoChannel with
  | some i, some c =>
    if (s.chan c).session.isAutomatic then
      let s := updItem (fun i => { i with aborted := true }) s
      if i.outcome.isSome then s else cancelSession c s
    else dropItem s
  | _, _ => dropItem s

/-- ABORT taken; in HALTED it changes nothing (R176). -/
def takeAbort (s : State) : Answer × State :=
  if s.auto.run = .halted then accepted s else accepted (abortItem (haltEngine s))

/-- WATCH SET taken (R193). -/
def takeWatchSet (op : Option WatchOp) (l : Line) (f : FilterArg) (s : State) : Answer × State :=
  match op, filterOf f with
  | none, _ => refuse (.badArgument 1) s
  | some _, none => refuse (.badArgument (match f with | .station _ => 4 | _ => 3)) s
  | some o, some g => accepted { s with watch := ⟨o, l, g, none, 0⟩ }

/-- WATCH READ taken (R194). -/
def takeWatchRead (s : State) : Answer × State :=
  (.accepted (.watch s.watch.op s.watch.line s.watch.filter s.watch.capture s.watch.hits), s)

/-! ### The rows -/

/-- SWEEP_START (R179). -/
def execSweepStart (first last : Line) (stages : StageSet) (n : SampleArg) (s : State) : Result :=
  .next (commandPhase (takeSweepStart first last stages n) s)

/-- RUN (R172). -/
def execRun (s : State) : Result := .next (commandPhase takeRun s)

/-- STOP (R173). -/
def execStop (s : State) : Result := .next (commandPhase takeStop s)

/-- STEP (R174). -/
def execStep (s : State) : Result := .next (commandPhase takeStep s)

/-- CONTINUE (R175). -/
def execContinueRun (s : State) : Result := .next (commandPhase takeContinue s)

/-- ABORT (R176). -/
def execAbort (s : State) : Result := .next (commandPhase takeAbort s)

/-- WATCH_SET (R193). -/
def execWatchSet (op : Option WatchOp) (l : Line) (f : FilterArg) (s : State) : Result :=
  .next (commandPhase (takeWatchSet op l f) s)

/-- WATCH_READ (R194). -/
def execWatchRead (s : State) : Result := .next (commandPhase takeWatchRead s)

end Sys2Proof.Machine
end

