-- ==== Sys2Proof/Machine/Frames.lean ====
section
/-! DEFINITION. Frames of other stations, taken and handed on; a peer's silence and a foreign quiet's lapse (R78,
R79, R92, R97 to R102, R105 to R107, R119, R125, R133, R136, R150, R153, R161 to R163). -/

namespace Sys2Proof.Machine

/-- A CLAIM from station `n`: Office View, Claim Unit, Line Watch (R98, R119, R188). -/
def takeClaim (n : Station) (l : Line) (t : Trunk) (p : Purpose) (c : Channel) (s : State) : State :=
  let s := updatePeer n (fun q => { q with holdings := addHolding ⟨l, t, p⟩ q.holdings }) s
  monitorClaim false n l t p c (contest n [(l, t)] s)

/-- A RELEASE from station `n`: Office View, Claim Unit (R98, R125). Channel A's conflict comes before channel B's: the
model's choice (log entry 40). -/
def takeRelease (n : Station) (l : Line) (t : Trunk) (s : State) : State :=
  let s := updatePeer n (fun q => { q with holdings := removeHolding l t q.holdings }) s
  releaseContests (l, t) .b (releaseContests (l, t) .a s)

/-- A quiet of station `n` has left the view: the own sessions deferred by it go on (R25, R100). -/
def quietEnded (n : Station) (b : Block) (s : State) : State := undeferBoth (.station n) b s

/-- A block that a PRESENCE or QUIET has added withdraws the own QUIETs queued for it (R132). -/
def withdrawBoth (b : Block) (s : State) : State := withdrawRequested .b b (withdrawRequested .a b s)

/-- The join replies (R105). -/
def joinReplies (s : State) : State := announceTrunks (s.updTickets announceOpen)

/-- A PRESENCE from station `n`: its entry is replaced, the own sessions are checked, the join replies made (R101,
R102, R105). `p` is the entry before the frame's flags. -/
def takePresence (n : Station) (joining : Bool) (hs : List Holding) (qs : List Block) (p : Peer) (s : State) :
    State :=
  let ends := presenceEnds p qs
  let adds := presenceAdds s p qs
  let s := replacePeer n joining hs qs s
  let s := ends.foldl (fun r b => quietEnded n b r) s
  let s := adds.foldl (fun r b => withdrawBoth b r) s
  let s := contest n (hs.map fun h => (h.line, h.trunk)) s
  if joining && !p.joining then joinReplies s else s

/-- A QUIET from station `n` that the view records: an older of two blocks leaves first, own QUIETs for the block are
withdrawn, the own sessions on it answer (R99, R132, R133). Channel A's session answers before channel B's: the model's
choice (log entry 40). -/
def recordQuiet (n : Station) (b : Block) (s : State) : State :=
  let s :=
    match displacedQuiet s n with
    | none => s
    | some old => quietEnded n old (removeQuiet n old s)
  let s := withdrawBoth b (addQuiet n b s)
  answerQuiet .b b n (answerQuiet .a b n s)

/-- A QUIET from station `n` (R99, R133). -/
def takeQuiet (n : Station) (b : Block) (s : State) : State :=
  match findQuiet s n b with
  | .recorded => recordQuiet n b s
  | .reassertion => s
  | .void => s

/-- A QUIET-END from station `n`, or a lapse: a listed block leaves the view (R99, R100). -/
def takeQuietEnd (n : Station) (b : Block) (s : State) : State :=
  if listsQuiet s n b then quietEnded n b (removeQuiet n b s) else s

/-- Whether a frame's addressee is this station. -/
def State.isOwn (s : State) (n : Station) : Bool := s.store.station == some n

/-- A taken frame is handed to the blocks that use its kind, after the Office View has noted its sender (R79,
R97). `p` is the sender's entry before the kind's effect. -/
def applyFrame (n : Station) (b : FrameBody) (p : Peer) (s : State) : State :=
  match b with
  | .release l t => takeRelease n l t s
  | .quietBusy k r => if s.isOwn r then busyHeard .b k n (busyHeard .a k n s) else s
  | .quietClear k r => if s.isOwn r then clearHeard .b k n (clearHeard .a k n s) else s
  | .quietEnd k => takeQuietEnd n k s
  | .claim l t u c => takeClaim n l t u c s
  | .quiet k => takeQuiet n k s
  | .ticketNote es => takeNote n es s
  | .ticketAdd o number l obs => if s.isOwn o then takeAddition n number l obs s else s
  | .handOffer o => if s.isOwn o.target then takeOffer n o s else s
  | .handAccept o offered _ => if s.isOwn o then takeAccept n offered s else s
  | .handRefuse o offered r => if s.isOwn o then takeRefusal n offered r s else s
  | .trunkNotice t out => withTrunkWatch t (some n) (takeTrunkNotice n t out) s
  | .presence j hs qs => takePresence n j hs qs p s

/-- The joining flag of a PRESENCE, no for every other kind. -/
def joiningFlag : FrameBody → Bool
  | .presence j _ _ => j
  | _ => false

/-- A frame taken from another station is handed on whole (R79, R97). -/
def handOn (n : Station) (b : FrameBody) (s : State) : State :=
  let s := heardPeer n (joiningFlag b) s
  match s.peer n with
  | none => s
  | some p => applyFrame n b p s

/-- A frame of another station ends on the wire, and no other receiver objects: this station's slot is driven, and in
JOINING or ACTIVE the frame is taken where its check has passed; one that bears the own number acts as
OWN_NUMBER_FRAME does, a clash or the end of a farewell (R78, R79, R93, R95; log entries 9 to 11, 26). -/
def frameTaken (n : Station) (b : FrameBody) (s : State) : State :=
  let s := driveSlot (frameFits n b) s
  if frameFits n b && s.isOwn n then ownNumberHeard s
  else if s.onLine && s.link.wire.isNone && frameFits n b then handOn n b s
  else s

/-- A good frame of another station heard in LOST: with cause UNHEARD the link enters JOINING and the frame is taken;
one that bears the own number is a clash, whatever the cause (R92, R93). -/
def lostFrame (n : Station) (b : FrameBody) (s : State) : State :=
  if s.link.state = .lost ∧ s.softReset = none ∧ frameFits n b = true then
    if s.isOwn n then clash s
    else if s.link.cause = some .unheard then handOn n b (enterJoining s)
    else s
  else s

/-- The drop of a silent peer (R107). -/
def dropPeer (p : Peer) (s : State) : State :=
  let s := { s with roster := s.roster.filter (·.station != p.station) }
  let s := leaveWaits p.station s
  let s := s.updTickets fun ts => { ts with index := ts.index.filter (·.owner != p.station) }
  let s := emit { kind := .peerDropped, station := some p.station } (failHandoversTo p.station s)
  p.quiets.foldl (fun r q => quietEnded p.station q.block r) s

/-! ### The rows -/

/-- CLAIM_TAKEN (R119). -/
def execClaimTaken (n : Station) (l : Line) (t : Trunk) (p : Purpose) (c : Channel) (s : State) : Result :=
  .next (frameTaken n (.claim l t p c) s)

/-- RELEASE_FRAME_TAKEN (R125). -/
def execReleaseFrameTaken (n : Station) (l : Line) (t : Trunk) (s : State) : Result :=
  .next (frameTaken n (.release l t) s)

/-- PRESENCE_TAKEN (R101). -/
def execPresenceTaken (n : Station) (joining : Bool) (hs : List Holding) (qs : List Block) (s : State) : Result :=
  .next (frameTaken n (.presence joining hs qs) s)

/-- QUIET_TAKEN (R133). -/
def execQuietTaken (n : Station) (b : Block) (s : State) : Result := .next (frameTaken n (.quiet b) s)

/-- QUIET_END_TAKEN (R99). -/
def execQuietEndTaken (n : Station) (b : Block) (s : State) : Result := .next (frameTaken n (.quietEnd b) s)

/-- QUIET_BUSY_TAKEN (R136). -/
def execQuietBusyTaken (n : Station) (b : Block) (r : Station) (s : State) : Result :=
  .next (frameTaken n (.quietBusy b r) s)

/-- QUIET_CLEAR_TAKEN (R136). -/
def execQuietClearTaken (n : Station) (b : Block) (r : Station) (s : State) : Result :=
  .next (frameTaken n (.quietClear b r) s)

/-- TICKET_NOTE_TAKEN (R153). -/
def execTicketNoteTaken (n : Station) (es : List NoteEntry) (s : State) : Result :=
  .next (frameTaken n (.ticketNote es) s)

/-- TICKET_ADD_TAKEN (R150). -/
def execTicketAddTaken (n owner : Station) (number : TicketNo) (l : Line) (obs : ObsData) (s : State) : Result :=
  .next (frameTaken n (.ticketAdd owner number l obs) s)

/-- HAND_OFFER_TAKEN (R161). -/
def execHandOfferTaken (n : Station) (o : HandOffer) (s : State) : Result := .next (frameTaken n (.handOffer o) s)

/-- HAND_ACCEPT_TAKEN (R162). -/
def execHandAcceptTaken (n offering : Station) (offered new : TicketNo) (s : State) : Result :=
  .next (frameTaken n (.handAccept offering offered new) s)

/-- HAND_REFUSE_TAKEN (R163). -/
def execHandRefuseTaken (n offering : Station) (offered : TicketNo) (r : RefuseReason) (s : State) : Result :=
  .next (frameTaken n (.handRefuse offering offered r) s)

/-- TRUNK_NOTICE_TAKEN (R11, R12). -/
def execTrunkNoticeTaken (n : Station) (t : Trunk) (out : Bool) (s : State) : Result :=
  .next (frameTaken n (.trunkNotice t out) s)

/-- LOST_FRAME_HEARD (R92). -/
def execLostFrameHeard (n : Station) (b : FrameBody) (s : State) : Result := .next (lostFrame n b s)

/-- PEER_SILENT: a run-out of a peer's 3,500 ms; it drops the peer where they have passed since it was last heard, and
does nothing where a frame of it was taken first (R106, R107). -/
def execPeerSilent (n : Station) (s : State) : Result :=
  .next
    (match s.peer n with
     | none => s
     | some p =>
       if s.onLine && decide (p.lastHeard + Config.silenceTime ≤ s.now) then dropPeer p s else s)

/-- FOREIGN_QUIET_LAPSE: a foreign quiet still listed reaches its lapse time (R100). -/
def execForeignQuietLapse (n : Station) (b : Block) (s : State) : Result :=
  .next (if s.onLine then takeQuietEnd n b s else s)

/-- HANDOVER_TIMEOUT: 3,000 ms have passed since an offer (R163). -/
def execHandoverTimeout (n : TicketNo) (s : State) : Result :=
  .next (if s.port.phase = .starting then s else handoverTimesOut n s)

end Sys2Proof.Machine
end

