-- ==== Sys2Proof/Machine/Forms.lean ====
section
/-! DEFINITION. The form check of a command given byte by byte: its count of argument bytes, and argument bytes that
can hold no value the command knows (R200, 11.3; log entries 4 and 15). -/

namespace Sys2Proof.Machine

/-- The request of a command that has no arguments (11.3). -/
def nullaryRequest : CommandName → Option Request
  | .unlock => some .unlock
  | .clearLinkStatus => some .clearLinkStatus
  | .rejoin => some .rejoin
  | .run => some .run
  | .stop => some .stop
  | .step => some .step
  | .continueRun => some .continueRun
  | .abort => some .abort
  | .watchRead => some .watchRead
  | .takeEvent => some .takeEvent
  | .statusDetail => some .statusDetail
  | .softReset => some .softReset
  | _ => none

/-! ### Argument bytes -/

/-- Whether a stage's bit is set in a stage set byte. -/
def stageIn (b : Byte) (k : Fin 5) : Bool := b.getLsbD (Config.stageBit k).val

/-- The stages whose bits a stage set byte has set. -/
def stagesOf (b : Byte) : StageSet := ⟨stageIn b 0, stageIn b 1, stageIn b 2, stageIn b 3, stageIn b 4⟩

/-- Whether a byte has a bit outside the five stages (R200). -/
def hasStrayBit (b : Byte) : Bool :=
  (List.finRange 8).any fun i => b.getLsbD i.val && !(List.finRange 5).any fun k => Config.stageBit k == i

/-- Whether a flag byte sets its flag (R200). -/
def flagOf (b : Byte) : Bool := decide (b = 1)

/-- A flag byte holds 0 or 1 (R200). -/
def flagCheck (b : Byte) : ArgCheck := if b = 0 ∨ b = 1 then .good else .formless

/-- A byte that names a value, or none (R200). -/
def namedCheck {α : Type} (v : Option α) : ArgCheck := if v.isSome then .good else .formless

/-- A byte that names a class; PASS is refused as an argument (R156). -/
def classCheck (v : Option FaultClass) : ArgCheck :=
  match v with
  | none => .formless
  | some k => if k.failing then .good else .wrong

/-- A stage set byte: no bit outside the five stages, and at least one stage (R200). -/
def stagesCheck (b : Byte) : ArgCheck :=
  if hasStrayBit b then .formless else if (stagesOf b).isEmpty then .wrong else .good

/-- A station number in one byte (R200). -/
def stationCheck (b : Byte) : ArgCheck := if stationOk b.toNat then .good else .wrong

/-- A byte that names an automatic channel (R208). -/
def autoCheck (a : AutoChannelArg) : ArgCheck := if a = .other then .formless else .good

/-- The form of a command whose count fits, from its arguments in the order written: where one can hold no value that
the command knows, BAD-ARGUMENT with the position of the first wrong argument, whether that one has no value or holds an
identifier the command refuses (R200, R201; log entry 15). -/
def checkedForm (args : List ArgCheck) (r : Request) : FormResult :=
  if args.contains .formless then .badArgument (args.findIdx (· != .good) + 1) else .fits r

/-! ### The forms -/

/-- A command whose arguments are one channel. -/
def channelForm (c : Byte) (r : Option Channel → Request) : FormResult :=
  checkedForm [namedCheck (Config.channelOfByte c)] (r (Config.channelOfByte c))

/-- The filter that a WATCH SET byte without a station byte names. -/
def plainFilter : FilterName → FilterArg
  | .any => .any
  | .own => .own
  | .ownOperator => .ownOperator
  | .ownAutomatic => .ownAutomatic
  | .station => .other

/-- WATCH SET's two forms: a station number is carried with the filter STATION n and with no other, so that a count
that is not its filter's fits no form (R193; log entry 15). -/
def watchForm (o : Byte) (l : Line) (f : Byte) (station : Option Byte) : FormResult :=
  let op := Config.operationOfByte o
  let checks := [namedCheck op, .good, namedCheck (Config.filterOfByte f)]
  match Config.filterOfByte f, station with
  | none, _ => checkedForm checks (.watchSet op l .other)
  | some .station, some n => checkedForm (checks ++ [stationCheck n]) (.watchSet op l (.station n.toNat))
  | some .station, none => .badCount
  | some _, some _ => .badCount
  | some k, none => checkedForm checks (.watchSet op l (plainFilter k))

/-- The form of a command whose arguments are channels, flags, stage sets, named values, numbers of one byte and lines
of two (R200; log entries 4 and 15). -/
def fixedForm : CommandName → List Byte → FormResult
  | .configure, [n, a, f] =>
    checkedForm [stationCheck n, autoCheck (Config.autoChannelOfByte a), flagCheck f]
      (.configure n.toNat (Config.autoChannelOfByte a) (flagOf f))
  | .trunkRestore, [t] => .fits (.trunkRestore t.toNat)
  | .access, [c, h, l, f] =>
    checkedForm [namedCheck (Config.channelOfByte c), .good, flagCheck f]
      (.access (Config.channelOfByte c) (Config.lineOfBytes h l) (flagOf f))
  | .release, [c] => channelForm c .release
  | .cancel, [c] => channelForm c .cancel
  | .sessionRead, [c] => channelForm c .sessionRead
  | .resultRead, [c] => channelForm c .resultRead
  | .measure, [c, g, n, f] =>
    checkedForm [namedCheck (Config.channelOfByte c), stagesCheck g, .good, flagCheck f]
      (.measure (Config.channelOfByte c) (stagesOf g) n.toFin (flagOf f))
  | .ticketOpen, [h, l, k] =>
    checkedForm [.good, classCheck (Config.classOfByte k)]
      (.ticketOpen (Config.lineOfBytes h l) (Config.classOfByte k))
  | .sweepStart, [h, l, i, m, g, n] =>
    let first := Config.lineOfBytes h l
    let last := Config.lineOfBytes i m
    checkedForm [if last < first then .wrong else .good, .good, stagesCheck g, .good]
      (.sweepStart first last (stagesOf g) n.toFin)
  | .watchSet, [o, h, l, f] => watchForm o (Config.lineOfBytes h l) f none
  | .watchSet, [o, h, l, f, n] => watchForm o (Config.lineOfBytes h l) f (some n)
  | .setMask, [s, t, a, o] =>
    checkedForm [flagCheck s, flagCheck t, flagCheck a, flagCheck o]
      (.setMask ⟨flagOf s, flagOf t, flagOf a, flagOf o⟩)
  | _, _ => .badCount

/-- The fewest argument bytes of a command that carries a quantity or a ticket number, whose sizes in bytes the manual
does not give: each argument takes at least the whole bytes that its range needs, and LOAD BLOCK's list may be empty
(R2, R3, R6, R14 to R16, R142, R158 to R160; log entry 4). None for every other command. -/
def leastBytes : CommandName → Option Nat
  | .loadBlock => some 1
  | .loadTrunk => some 4
  | .setThresholds => some 17
  | .setClock => some 4
  | .ticketClose => some 2
  | .ticketRetest => some 4
  | .ticketRead => some 2
  | .ticketList => some 2
  | .ticketHandover => some 3
  | _ => none

/-- The form of a command whose sizes are free: never fewer bytes than its arguments need (R200). -/
def freeForm (k : CommandName) (least : Nat) (args : List Byte) : FormResult :=
  if args.length < least then .badCount
  else
    match Config.formOf k args with
    | .fits r => if r.name = k then .fits r else .badCount
    | f => f

/-- The form check (R200). -/
def formCheck (k : CommandName) (args : List Byte) : FormResult :=
  match nullaryRequest k with
  | some r => if args.isEmpty then .fits r else .badCount
  | none =>
    match leastBytes k with
    | some least => freeForm k least args
    | none => fixedForm k args

end Sys2Proof.Machine
end

