-- ==== Sys2Proof/Machine/Resets.lean ====
section
/-! DEFINITION. SOFT RESET from its acceptance to its end, the hardware reset and the end of start-up (R20, R43,
R95, R164, R185, R186, R210 to R212). -/

namespace Sys2Proof.Machine

/-- The RELEASE of a session whose CLAIM had been taken and whose RELEASE had not (R95). -/
def farewellRelease (r : ChannelRecord) : List FrameBody :=
  if r.claim.stage = .held then [.release r.session.line r.session.trunk] else []

/-- The QUIET-CLEARs for QUIET-BUSYs taken (R95). -/
def farewellClears (r : ChannelRecord) : List FrameBody :=
  (r.clears.filter (·.busyTaken)).map fun k => .quietClear k.block k.requester

/-- The QUIET-END of an own quiet that stands (R95). -/
def farewellQuietEnd (r : ChannelRecord) : List FrameBody :=
  (ownQuietBlock r).map .quietEnd

/-- The farewell set, in the order of its three groups (R95). Channel A's frames come before channel B's in each group:
the model's choice (log entry 40). -/
def farewellSet (s : State) : List FrameBody :=
  farewellRelease s.chanA ++ farewellRelease s.chanB ++ farewellClears s.chanA ++ farewellClears s.chanB ++
  farewellQuietEnd s.chanA ++ farewellQuietEnd s.chanB

/-- A channel as a soft reset is accepted: its session ended with cause RESET, its drives released, no
measurement, no last result, no quiet, the late-confirm window closed (R43, R72, R141). -/
def resetChannel (r : ChannelRecord) : ChannelRecord :=
  { r with
    session := { idleSession r.session with lastResult := none }
    seq := .initial
    claim := .initial
    quiet := .initial
    clears := []
    engine := .initial
    command := none }

/-- The port in STARTING (R196, R211). -/
def portStarting (p : Port) : Port :=
  { p with phase := .starting, command := none, remaining := 0, args := [], answer := none, result := [],
           dataRegister := 0 }

/-- SOFT RESET taken: STARTING, sessions ended, the farewell begun where the link is ACTIVE (R43, R95, R185,
R211). An own attempt on the wire in JOINING ends at once: the model's choice (log entry 44). -/
def takeSoftReset (s : State) : State :=
  let frames := if s.link.state = .active then farewellSet s else []
  let wire := if s.link.state = .active then s.link.wire else none
  let s :=
    { s with
      port := portStarting s.port
      chanA := resetChannel s.chanA
      chanB := resetChannel s.chanB
      auto := { halted s.auto with item := none }
      link := { emptyLink s.link with wire := wire }
      softReset := some ⟨s.store.lock, !frames.isEmpty || wire.isSome⟩ }
  frames.foldl (fun r b => offerUrgent b none r) s

/-- The Configuration Store after a soft reset (R20). -/
def resetStore (kept : Bool) (r : Store) : Store :=
  if kept then r
  else
    { Store.initial with
      clock := r.clock
      trunks := r.trunks.map fun e => { e with rtrunk := 0, ctrunk := 0 } }

/-- The blocks at their soft-reset values, the port's queue emptied, the port in EXPECT-COMMAND; the link is OFF or
still to enter JOINING (R211, R212). -/
def softResetValues (kept : Bool) (s : State) : State :=
  { s with
    port := { s.port with phase := .expectCommand, events := [], lost := 0 }
    store := resetStore kept s.store
    link := { Link.initial with state := s.link.state, nextEntry := s.link.nextEntry }
    roster := []
    ticketStore := releaseAllNotes (returnHandovers { s.ticketStore with index := [] })
    auto := .initial
    watch := .initial
    softReset := none }

/-- The soft reset ends: the link enters JOINING, or OFF where the configuration is not kept (R20, R211). Out notices
that overflow the holding area queue a second LINK-STATE, of LINK-ERROR, beside R212's one: the model's choice (log
entry 50). -/
def softResetEnds (kept : Bool) (s : State) : State :=
  let old := s.link.state
  let s := softResetValues kept s
  if kept && s.store.configured then enterJoining s
  else emitIfChanged old (s.updLink fun l => { l with state := .off })

/-! ### The rows -/

/-- SOFT_RESET, a whole command phase (R211). -/
def execSoftReset (s : State) : Result :=
  .next (if s.port.phase = .expectCommand then takeSoftReset s else s)

/-- SOFT_RESET_END, after the farewell (R211). -/
def execSoftResetEnd (s : State) : Result :=
  .next
    (match s.softReset with
     | none => s
     | some r => if r.farewell then s else softResetEnds r.kept s)

/-- HARDWARE_RESET: every block at its reset values, the port in STARTING; the outside lines are as they are, and
what waits in the queue waits on (R210; log entry 31). -/
def execHardwareReset (s : State) : Result :=
  .next
    { State.reset with
      chanA := { ChannelRecord.initial with pins := s.chanA.pins }
      chanB := { ChannelRecord.initial with pins := s.chanB.pins }
      pending := s.pending }

/-- STARTUP_END: the port enters EXPECT-COMMAND (R210). -/
def execStartupEnd (s : State) : Result :=
  .next
    (if s.port.phase = .starting ∧ s.softReset = none then
       s.updPort fun p => { p with phase := .expectCommand }
     else s)

end Sys2Proof.Machine
end

