-- ==== Sys2Proof/Machine/SessionCommands.lean ====
section
/-! DEFINITION. ACCESS, RELEASE, CANCEL, SESSION READ, MEASURE and RESULT READ (R23, R35 to R37, R44, R48, R49,
R69, R73). -/

namespace Sys2Proof.Machine

/-- The refusal that a claim's check gives an ACCESS (R23, R114, R201). -/
def claimRefusal (s : State) (l : Line) : ClaimCheck → Answer
  | .passes t => .accepted (.trunk t)
  | .linkDown => .linkDown s.link.state
  | .lineHeld h => .lineHeld h
  | .noRoute => .noRoute (blockOf l)
  | .noTrunk => .noTrunk (blockOf l)
  | .linkBusy => .linkBusy

/-- ACCESS taken on a channel (R23). -/
def takeAccessOn (c : Channel) (l : Line) (force : Bool) (s : State) : Answer × State :=
  if !s.store.configured then refuse .notConfigured s
  else if s.busy c || s.done c then refuse (.busy (some c)) s
  else if (s.chan c).session.state ≠ .idle then refuse (.channelInUse c) s
  else if s.store.autoChannel = some c ∧ s.auto.run ≠ .halted then refuse (.automaticChannel (some c)) s
  else
    match checkClaim s c l 0 with
    | .passes t =>
      (.accepted (.trunk t), (beginSession c .operator l t force none s).setCommand c (some .access))
    | k => refuse (claimRefusal s l k) s

/-- ACCESS taken (R23). -/
def takeAccess (channel : Option Channel) (l : Line) (force : Bool) (s : State) : Answer × State :=
  match channel with
  | none => refuse (.badArgument 1) s
  | some c => takeAccessOn c l force s

/-- RELEASE taken (R35). -/
def takeReleaseCommand (channel : Option Channel) (s : State) : Answer × State :=
  match channel with
  | none => refuse (.badArgument 1) s
  | some c =>
    let x := (s.chan c).session
    if x.state = .idle then refuse (.noSession c) s
    else if x.isAutomatic then refuse (.automaticChannel s.store.autoChannel) s
    else if s.busy c || s.done c then refuse (.busy (some c)) s
    else if x.state ≠ .connected then refuse .wrongState s
    else
      accepted (enterReleasing c
        ((s.setCommand c (some .release)).updSession c fun x => { x with relayStep := some 5 }))

/-- What an accepted CANCEL does, by the command that holds BUSY (R36, R37, R69). An ACCESS whose outcome is fixed is
left as it is (log entry 13), and so is a MEASURE whose session is already being reversed: the model's choice (log
entry 42). -/
def cancelCommand (c : Channel) (k : ChannelCommand) (s : State) : State :=
  match k with
  | .access => if (s.chan c).seq.outcome.isSome then s else cancelSession c s
  | .measure =>
    if (s.chan c).session.state = .measuring then cutMeasurement c .cancelled .cancelled s else s
  | .release => s

/-- CANCEL taken (R36). -/
def takeCancel (channel : Option Channel) (s : State) : Answer × State :=
  match channel with
  | none => refuse (.badArgument 1) s
  | some c =>
    if (s.chan c).session.isAutomatic then refuse (.automaticChannel s.store.autoChannel) s
    else
      match (s.chan c).command with
      | none => refuse .wrongState s
      | some k => accepted (cancelCommand c k s)

/-- A last result in summary (R44). -/
def summaryOf (r : MeasureRecord) : ResultSummary := ⟨r.cls, r.deciding, r.noisy, r.partialMark, r.outcome⟩

/-- A session record as SESSION READ reports it (R44). -/
def sessionReport (x : Session) : SessionReport where
  state := x.state
  purpose := x.purpose
  line := x.line
  block := x.block
  trunk := x.trunk
  forced := x.forced
  relayStep := x.relayStep
  quietHeld := x.quietHeld
  deferredBy := x.deferredBy
  cancelPending := x.cancelPending
  linkedTicket := x.linkedTicket
  frozenAtClaim := x.frozenAtClaim
  lastResult := x.lastResult.map summaryOf
  offHook := x.offHook

/-- SESSION READ taken (R44). -/
def takeSessionRead (channel : Option Channel) (s : State) : Answer × State :=
  match channel with
  | none => refuse (.badArgument 1) s
  | some c => (.accepted (.session (sessionReport (s.chan c).session)), s)

/-- MEASURE taken (R48, R49). -/
def takeMeasure (channel : Option Channel) (stages : StageSet) (n : SampleArg) (ticket : Bool) (s : State) :
    Answer × State :=
  match channel with
  | none => refuse (.badArgument 1) s
  | some c =>
    let x := (s.chan c).session
    if stages.isEmpty then refuse (.badArgument 2) s
    else if x.state = .idle then refuse (.noSession c) s
    else if x.isAutomatic then refuse (.automaticChannel s.store.autoChannel) s
    else if s.busy c || s.done c then refuse (.busy (some c)) s
    else if x.state ≠ .connected then refuse .wrongState s
    else
      (.accepted (.sampleCount (s.samplesUsed n)),
        (startMeasurement c stages (s.samplesUsed n) ticket s).setCommand c (some .measure))

/-- RESULT READ taken (R73). -/
def takeResultRead (channel : Option Channel) (s : State) : Answer × State :=
  match channel with
  | none => refuse (.badArgument 1) s
  | some c => (.accepted (.lastResult (s.chan c).session.lastResult), s)

/-! ### The rows -/

/-- ACCESS (R23). -/
def execAccess (channel : Option Channel) (l : Line) (force : Bool) (s : State) : Result :=
  .next (commandPhase (takeAccess channel l force) s)

/-- RELEASE (R35). -/
def execRelease (channel : Option Channel) (s : State) : Result := .next (commandPhase (takeReleaseCommand channel) s)

/-- CANCEL (R36). -/
def execCancel (channel : Option Channel) (s : State) : Result := .next (commandPhase (takeCancel channel) s)

/-- SESSION_READ (R44). -/
def execSessionRead (channel : Option Channel) (s : State) : Result :=
  .next (commandPhase (takeSessionRead channel) s)

/-- MEASURE (R48). -/
def execMeasure (channel : Option Channel) (stages : StageSet) (n : SampleArg) (ticket : Bool) (s : State) : Result :=
  .next (commandPhase (takeMeasure channel stages n ticket) s)

/-- RESULT_READ (R73). -/
def execResultRead (channel : Option Channel) (s : State) : Result :=
  .next (commandPhase (takeResultRead channel) s)

end Sys2Proof.Machine
end

