-- ==== Sys2Proof/Machine/StoreCommands.lean ====
section
/-! DEFINITION. CONFIGURE and the commands of the Configuration Store (R3, R4, R6, R13, R15, R16, R18, R19, R88,
R185, R208). -/

namespace Sys2Proof.Machine

/-- Whether both session records are IDLE. -/
def State.noSession (s : State) : Bool :=
  s.chanA.session.state == .idle && s.chanB.session.state == .idle

/-- What an accepted CONFIGURE does to the link, by its state; `changed` says whether the station number changed
(R88, R141, R161). -/
def configureLink (changed : Bool) (s : State) : State :=
  match s.link.state with
  | .off => enterJoining s
  | .mute => if changed then enterJoining s else s
  | .joining => enterJoining (dropQuiets (emptyView s))
  | .active => enterJoining (dropQuiets (emptyView s))
  | .lost => enterJoining (dropQuiets (emptyView s))

/-- CONFIGURE taken (R208). -/
def takeConfigure (station : Nat) (auto : AutoChannelArg) (lock : Bool) (s : State) : Answer × State :=
  if !stationOk station then refuse (.badArgument 1) s
  else
    match auto with
    | .other => refuse (.badArgument 2) s
    | auto =>
      if s.store.lock then refuse .locked s
      else if !s.noSession then refuse .wrongState s
      else
        let changed := s.store.station != some station
        let s := s.updStore fun r =>
          { r with
            configured := true
            station := some station
            autoChannel := match auto with | .channel c => some c | _ => none
            lock := lock }
        let s := configureLink changed (haltEngine (dropItem s))
        (.accepted (.linkState s.link.state), s)

/-- UNLOCK taken (R19). -/
def takeUnlock (s : State) : Answer × State :=
  if s.noSession && s.auto.run == .halted then accepted (s.updStore fun r => { r with lock := false })
  else refuse .wrongState s

/-- Whether a session exists on a line of a block (R3). -/
def sessionOnBlock (s : State) (b : Block) : Bool :=
  (s.chanA.session.state != .idle && s.chanA.session.block == b) ||
  (s.chanB.session.state != .idle && s.chanB.session.block == b)

/-- The entry that a form of LOAD BLOCK asks for: absent for the removal form, nothing where its list is refused
(R3, R4). -/
def loadedEntry : LoadBlockForm → Option (Option BlockEntry)
  | .remove => some none
  | .full ts k =>
    match trunksOf ts with
    | some l => if 1 ≤ l.length ∧ l.length ≤ 4 then some (some (makeBlockEntry l k)) else none
    | none => none
  | .short ts =>
    match trunksOf ts with
    | some l => if 1 ≤ l.length ∧ l.length ≤ 4 then some (some (makeBlockEntry l Config.blockDefaults)) else none
    | none => none

/-- LOAD BLOCK taken (R3, R4). -/
def takeLoadBlock (block : Nat) (form : LoadBlockForm) (s : State) : Answer × State :=
  if s.store.lock then refuse .locked s
  else if h : block < 64 then
    match loadedEntry form with
    | none => refuse (.badArgument 2) s
    | some e =>
      if sessionOnBlock s ⟨block, h⟩ then refuse (.busy none) s
      else (.accepted (.blockEntry e), s.setBlock ⟨block, h⟩ e)
  else refuse (.badArgument 1) s

/-- LOAD TRUNK taken (R6). -/
def takeLoadTrunk (trunk rtrunk ctrunk : Nat) (s : State) : Answer × State :=
  if s.store.lock then refuse .locked s
  else if h : trunk < 16 then
    let r := clampNat 0 400 rtrunk
    let k := clampNat 0 100 ctrunk
    (.accepted (.trunkValues r k), s.setTrunk ⟨trunk, h⟩ { s.trunkEntry ⟨trunk, h⟩ with rtrunk := r, ctrunk := k })
  else refuse (.badArgument 1) s

/-- SET THRESHOLDS taken (R15). -/
def takeSetThresholds (t : Thresholds) (s : State) : Answer × State :=
  if s.store.lock then refuse .locked s
  else (.accepted (.thresholds (clampThresholds t)), s.updStore fun r => { r with thresholds := clampThresholds t })

/-- SET CLOCK taken (R16). -/
def takeSetClock (v : Nat) (s : State) : Answer × State :=
  accepted (s.updStore fun r => { r with clock := clampNat 0 Config.clockMax v })

/-- TRUNK RESTORE taken (R13). -/
def takeTrunkRestore (trunk : Nat) (s : State) : Answer × State :=
  if h : trunk < 16 then accepted (restoreTrunk ⟨trunk, h⟩ s) else refuse (.badArgument 1) s

/-! ### The rows -/

/-- CONFIGURE (R208). -/
def execConfigure (station : Nat) (auto : AutoChannelArg) (lock : Bool) (s : State) : Result :=
  .next (commandPhase (takeConfigure station auto lock) s)

/-- UNLOCK (R19). -/
def execUnlock (s : State) : Result := .next (commandPhase takeUnlock s)

/-- LOAD_BLOCK (R3). -/
def execLoadBlock (block : Nat) (form : LoadBlockForm) (s : State) : Result :=
  .next (commandPhase (takeLoadBlock block form) s)

/-- LOAD_TRUNK (R6). -/
def execLoadTrunk (trunk rtrunk ctrunk : Nat) (s : State) : Result :=
  .next (commandPhase (takeLoadTrunk trunk rtrunk ctrunk) s)

/-- SET_THRESHOLDS (R15). -/
def execSetThresholds (t : Thresholds) (s : State) : Result := .next (commandPhase (takeSetThresholds t) s)

/-- SET_CLOCK (R16). -/
def execSetClock (v : Nat) (s : State) : Result := .next (commandPhase (takeSetClock v) s)

/-- TRUNK_RESTORE (R13). -/
def execTrunkRestore (trunk : Nat) (s : State) : Result := .next (commandPhase (takeTrunkRestore trunk) s)

/-- OFFICE_CLOCK_TICK: the clock counts a second, from the end of start-up on and through a soft reset, and stays
at its largest value (R16). -/
def execOfficeClockTick (s : State) : Result :=
  .next
    (if s.port.phase = .starting ∧ s.softReset = none then s
     else s.updStore fun r => { r with clock := min Config.clockMax (r.clock + 1) })

end Sys2Proof.Machine
end

