-- ==== Sys2Proof/Machine/TicketCommands.lean ====
section
/-! DEFINITION. The ticket commands (R155 to R160). -/

namespace Sys2Proof.Machine

/-- TICKET OPEN taken (R156). -/
def takeTicketOpen (l : Line) (cls : Option FaultClass) (s : State) : Answer × State :=
  match cls with
  | none => refuse (.badArgument 2) s
  | some k =>
    if !k.failing then refuse (.badArgument 2) s
    else if !s.store.configured then refuse .notConfigured s
    else
      match s.ticketStore.byLine l, s.ticketStore.indexFor l with
      | some t, _ => refuse (.exists_ t.number) s
      | none, some e => refuse (.ownedElsewhere e.owner e.number) s
      | none, none =>
        if s.ticketStore.hasRoom then
          (.accepted (.ticketNumber (numberGiven s.ticketStore)),
            s.updTickets (addTicket (openedTicket l k .manual s.store.clock [])))
        else refuse .storeFull s

/-- Whether a closed ticket owes the office its closed entry (R157). -/
def owesClosedEntry (t : Ticket) : Bool := if t.state = .cleared then t.announcePending else t.noteTaken

/-- TICKET CLOSE taken (R157). -/
def takeTicketClose (n : TicketNo) (s : State) : Answer × State :=
  match s.ticketStore.byNumber n with
  | none => refuse (.noTicket n) s
  | some t =>
    if t.state = .handover then refuse .wrongState s
    else
      accepted (s.updTickets fun ts =>
        removeTicket n (if owesClosedEntry t then addClosedNote (closedEntryOf t) ts else ts))

/-- A ticket with the plan of a TICKET RETEST (R158). -/
def planned (interval count due : Nat) (t : Ticket) : Ticket :=
  if count = 0 then { t with plan := none, state := .opened }
  else { t with plan := some ⟨interval, count, due⟩, streak := 0, state := .retest }

/-- TICKET RETEST taken (R158). With count 0 the answer gives the clamped interval, 0 and an absent next due: the
model's choice (log entry 46). -/
def takeTicketRetest (n : TicketNo) (interval count : Nat) (s : State) : Answer × State :=
  match s.ticketStore.byNumber n with
  | none => refuse (.noTicket n) s
  | some t =>
    if t.state = .handover ∨ t.state = .cleared then refuse .wrongState s
    else
      let i := clampNat 1 240 interval
      let k := clampNat 0 15 count
      let u := planned i k (s.dueIn (i * 60)) t
      (.accepted (.retestPlan i k (u.plan.map (·.nextDue))), s.updTickets (updateTicket n fun _ => u))

/-- TICKET READ taken (R159). -/
def takeTicketRead (n : TicketNo) (s : State) : Answer × State :=
  match s.ticketStore.byNumber n with
  | none => refuse (.noTicket n) s
  | some t => (.accepted (.ticket t), s)

/-- An entry of TICKET LIST (R159). -/
def ticketSummary (t : Ticket) : TicketSummary :=
  ⟨t.number, t.line, t.state, t.cls, t.origin, t.plan.map (·.nextDue)⟩

/-- The tickets after the one with a number, in store order. -/
def ticketsAfter (n : TicketNo) : List Ticket → List Ticket
  | [] => []
  | t :: rest => if t.number = n then rest else ticketsAfter n rest

/-- The answer of TICKET LIST over the tickets it starts at (R159). -/
def listAnswer (l : List Ticket) : Answer :=
  .accepted (.ticketList ((l.take 12).map ticketSummary) (decide (12 < l.length)))

/-- TICKET LIST taken (R159). -/
def takeTicketList (n : TicketNo) (s : State) : Answer × State :=
  if n = 0 then (listAnswer s.ticketStore.tickets, s)
  else
    match s.ticketStore.byNumber n with
    | none => refuse (.noTicket n) s
    | some _ => (listAnswer (ticketsAfter n s.ticketStore.tickets), s)

/-- Whether a channel's automatic session is linked to a ticket (R160). -/
def linkedTo (x : Session) (n : TicketNo) : Bool := x.isAutomatic && x.linkedTicket == some n

/-- The body of a HAND-OFFER (R160). -/
def offerOf (t : Ticket) (target : Station) (clock : Nat) : HandOffer where
  target := target
  number := t.number
  line := t.line
  cls := t.cls
  age := clock - t.openedAt
  plan := t.plan.map fun p => ⟨p.interval, p.remaining, p.nextDue - clock⟩
  obs :=
    match t.observations.getLast? with
    | some o => ⟨o.cls, o.deciding⟩
    | none => ⟨t.cls, none⟩

/-- A ticket offered to a station (R160). -/
def offered (target : Station) (now : Nat) (t : Ticket) : Ticket :=
  { t with state := .handover, handover := some ⟨target, now, t.state == .retest, false⟩ }

/-- TICKET HANDOVER taken (R160). -/
def takeTicketHandover (n : TicketNo) (station : Nat) (s : State) : Answer × State :=
  if !stationOk station || s.store.station == some station then refuse (.badArgument 2) s
  else
    match s.ticketStore.byNumber n with
    | none => refuse (.noTicket n) s
    | some t =>
      if s.link.state ≠ .active then refuse (.linkDown s.link.state) s
      else if (s.peer station).isNone then refuse (.noPeer station) s
      else if t.state = .handover ∨ t.state = .cleared then refuse .wrongState s
      else if linkedTo s.chanA.session n || linkedTo s.chanB.session n then refuse (.busy none) s
      else
        accepted (offerNotice (.handOffer (offerOf t station s.store.clock))
          (s.updTickets (updateTicket n (offered station s.now))))

/-! ### The rows -/

/-- TICKET_OPEN (R156). -/
def execTicketOpen (l : Line) (cls : Option FaultClass) (s : State) : Result :=
  .next (commandPhase (takeTicketOpen l cls) s)

/-- TICKET_CLOSE (R157). -/
def execTicketClose (n : TicketNo) (s : State) : Result := .next (commandPhase (takeTicketClose n) s)

/-- TICKET_RETEST (R158). -/
def execTicketRetest (n : TicketNo) (interval count : Nat) (s : State) : Result :=
  .next (commandPhase (takeTicketRetest n interval count) s)

/-- TICKET_READ (R159). -/
def execTicketRead (n : TicketNo) (s : State) : Result := .next (commandPhase (takeTicketRead n) s)

/-- TICKET_LIST (R159). -/
def execTicketList (n : TicketNo) (s : State) : Result := .next (commandPhase (takeTicketList n) s)

/-- TICKET_HANDOVER (R160). -/
def execTicketHandover (n : TicketNo) (station : Nat) (s : State) : Result :=
  .next (commandPhase (takeTicketHandover n station) s)

end Sys2Proof.Machine
end

