-- ==== Sys2Proof/Machine/PortCommands.lean ====
section
/-! DEFINITION. The port's own commands and the link's (R92, R94, R206, R207, R209), and the port byte by byte
(R196 to R200). -/

namespace Sys2Proof.Machine

/-- CLEAR LINK STATUS taken (R94). -/
def takeClearLinkStatus (s : State) : Answer × State :=
  accepted (s.updLink fun l => { l with linkError := false, clash := false })

/-- REJOIN taken (R92). -/
def takeRejoin (s : State) : Answer × State :=
  if s.link.state = .lost ∧ s.link.cause = some .unheard then accepted (enterJoining s) else refuse .wrongState s

/-- TAKE EVENT taken (R207). -/
def takeTakeEvent (s : State) : Answer × State :=
  match s.port.events with
  | [] => refuse .noEvent s
  | e :: rest => (.accepted (.event e), s.updPort fun p => { p with events := rest })

/-- A roster entry as STATUS DETAIL reports it (R109). -/
def peerSummary (now : Nat) (p : Peer) : PeerSummary :=
  ⟨p.station, now - p.lastHeard, p.joining, p.holdings, p.quiets.map fun q => (q.block, q.lapse - now)⟩

/-- A trunk as STATUS DETAIL reports it (R209). -/
def trunkSummary (e : TrunkEntry) : TrunkSummary := ⟨e.condition, e.streak, e.declaredBy⟩

/-- A quiet record as STATUS DETAIL reports it (R128). -/
def quietSummary (q : QuietRecord) : QuietSummary := ⟨q.phase, q.block, q.waitList⟩

/-- The current item as STATUS DETAIL reports it (R166). -/
def itemSummary (i : Item) : ItemSummary := ⟨i.purpose, i.line, i.ticket, i.outcome⟩

/-- STATUS DETAIL's report (R209). -/
def statusReport (s : State) : StatusReport where
  configured := s.store.configured
  station := s.store.station
  autoChannel := s.store.autoChannel
  lock := s.store.lock
  link := s.link.state
  cause := s.link.cause
  linkError := s.link.linkError
  clash := s.link.clash
  queued := s.link.queue.length
  held := s.link.holding.length
  roster := s.roster.map (peerSummary s.now)
  trunks := s.store.trunks.toList.map trunkSummary
  quietA := quietSummary s.chanA.quiet
  quietB := quietSummary s.chanB.quiet
  run := s.auto.run
  returnState := s.auto.returnState
  freezeCause := s.auto.freezeCause
  item := s.auto.item.map itemSummary
  sweep := s.auto.sweep
  events := s.port.events.length
  lost := s.port.lost
  mask := s.port.mask
  clock := s.store.clock

/-- STATUS DETAIL taken (R209). -/
def takeStatusDetail (s : State) : Answer × State := (.accepted (.status (statusReport s)), s)

/-- SET MASK taken (R206). -/
def takeSetMask (m : Mask) (s : State) : Answer × State :=
  (.accepted (.mask m), s.updPort fun p => { p with mask := m })

/-! ### The port byte by byte -/

/-- A command with its arguments is taken, SOFT RESET apart (R196). -/
def takeRequest (r : Request) (s : State) : Answer × State :=
  match r with
  | .configure n a l => takeConfigure n a l s
  | .unlock => takeUnlock s
  | .loadBlock b f => takeLoadBlock b f s
  | .loadTrunk t r c => takeLoadTrunk t r c s
  | .setThresholds t => takeSetThresholds t s
  | .setClock v => takeSetClock v s
  | .trunkRestore t => takeTrunkRestore t s
  | .access c l f => takeAccess c l f s
  | .release c => takeReleaseCommand c s
  | .cancel c => takeCancel c s
  | .sessionRead c => takeSessionRead c s
  | .measure c g n t => takeMeasure c g n t s
  | .resultRead c => takeResultRead c s
  | .clearLinkStatus => takeClearLinkStatus s
  | .rejoin => takeRejoin s
  | .ticketOpen l c => takeTicketOpen l c s
  | .ticketClose n => takeTicketClose n s
  | .ticketRetest n i k => takeTicketRetest n i k s
  | .ticketRead n => takeTicketRead n s
  | .ticketList n => takeTicketList n s
  | .ticketHandover n m => takeTicketHandover n m s
  | .sweepStart f l g n => takeSweepStart f l g n s
  | .run => takeRun s
  | .stop => takeStop s
  | .step => takeStep s
  | .continueRun => takeContinue s
  | .abort => takeAbort s
  | .watchSet o l f => takeWatchSet o l f s
  | .watchRead => takeWatchRead s
  | .takeEvent => takeTakeEvent s
  | .statusDetail => takeStatusDetail s
  | .setMask m => takeSetMask m s
  | .softReset => accepted s

/-- A request is taken as the port enters WORKING, and its result is held, with the count bytes of its command; SOFT
RESET enters STARTING (R196, R197). -/
def takeInWorking (r : Request) (s : State) : State :=
  match r with
  | .softReset => takeSoftReset s
  | r => holdResult .working (some r.name) (takeRequest r s).1 (takeRequest r s).2

/-- The last byte of a command has been written: the command is taken (R196, R200). -/
def lastByteWritten (k : CommandName) (args : List Byte) (s : State) : State :=
  match formCheck k args with
  | .fits r => takeInWorking r s
  | .badCount => holdResult .working (some k) (.badArgument 0) s
  | .badArgument n => holdResult .working (some k) (.badArgument n) s

/-- A command byte (R196). -/
def commandByte (b : Byte) (s : State) : State :=
  match Config.commandOfByte b with
  | none => holdResult .result none .badCommand s
  | some k => s.updPort fun p => { p with phase := .expectCount, command := some k, args := [] }

/-- A count byte (R196). -/
def countByte (b : Byte) (s : State) : State :=
  match s.port.command with
  | none => s
  | some k =>
    if b = 0 then lastByteWritten k [] s
    else s.updPort fun p => { p with phase := .expectArgument, remaining := b.toNat }

/-- An argument byte (R196). -/
def argumentByte (b : Byte) (s : State) : State :=
  match s.port.command with
  | none => s
  | some k =>
    if s.port.remaining ≤ 1 then lastByteWritten k (s.port.args ++ [b]) s
    else s.updPort fun p => { p with remaining := p.remaining - 1, args := p.args ++ [b] }

/-- The port back in EXPECT-COMMAND, nothing held (R197, R199). -/
def portFree (p : Port) : Port :=
  { p with phase := .expectCommand, command := none, remaining := 0, args := [], answer := none, result := [] }

/-- A read of the data register (R197, R198). -/
def readByte (s : State) : State :=
  if s.port.phase = .result then
    match s.port.result with
    | [] => s.updPort portFree
    | [b] => s.updPort fun p => { portFree p with dataRegister := b }
    | b :: rest => s.updPort fun p => { p with dataRegister := b, result := rest }
  else s.updPort fun p => { p with dataRegister := 0 }

/-! ### The rows -/

/-- PORT_BYTE_WRITE: a write to the data register (R196, R198). -/
def execPortByteWrite (b : Byte) (s : State) : Result :=
  .next
    (match s.port.phase with
     | .starting => s
     | .expectCommand => commandByte b s
     | .expectCount => countByte b s
     | .expectArgument => argumentByte b s
     | .working => s
     | .result => s)

/-- RESULT_BYTE_READ: a read of the data register, whose byte is left in the data register (R197, R198). -/
def execResultByteRead (s : State) : Result := .next (readByte s)

/-- PORT_CLEAR: a write of any value to the status byte's address (R199). -/
def execPortClear (b : Byte) (s : State) : Result :=
  .next
    (match b, s.port.phase with
     | _, .starting => s
     | _, _ => s.updPort portFree)

/-- CLEAR_LINK_STATUS (R94). -/
def execClearLinkStatus (s : State) : Result := .next (commandPhase takeClearLinkStatus s)

/-- REJOIN (R92). -/
def execRejoin (s : State) : Result := .next (commandPhase takeRejoin s)

/-- TAKE_EVENT (R207). -/
def execTakeEvent (s : State) : Result := .next (commandPhase takeTakeEvent s)

/-- STATUS_DETAIL (R209). -/
def execStatusDetail (s : State) : Result := .next (commandPhase takeStatusDetail s)

/-- SET_MASK (R206). -/
def execSetMask (m : Mask) (s : State) : Result := .next (commandPhase (takeSetMask m) s)

end Sys2Proof.Machine
end

