-- ==== Sys2Proof/Machine/Shelf.lean ====
section
/-! DEFINITION. The rows of the relay timers, the shelf's confirm and hold lines, the heads, and the own quiets'
timers (R26 to R34, R46, R70, R137, R140). -/

namespace Sys2Proof.Machine

/-- Whether a channel's session is in CONNECTING at a relay step. -/
def atStep (s : State) (c : Channel) (n : Nat) : Bool :=
  (s.chan c).session.state == .connecting && (s.chan c).session.relayStep == some n

/-- A confirm timeout acts: the operate is abandoned, the trunk charged, the session released with outcome
ACCESS-TIMEOUT (R9, R12, R28). -/
def confirmTimesOut (c : Channel) (s : State) : State :=
  let t := (s.chan c).session.trunk
  let auto := (s.chan c).session.isAutomatic
  let s := fixSession c .accessTimeout (abandonOperate c s)
  let s := withTrunkWatch t none (chargeTimeout t) s
  let s := if auto then report .timeout s else s
  enterReleasing c s

/-- The busy test ends (R29). -/
def busyTestEnds (c : Channel) (s : State) : State :=
  if (s.chan c).seq.inUse && !(s.chan c).session.forced then
    let s := if (s.chan c).session.isAutomatic then report .blocked s else s
    enterReleasing c (fixSession c .lineInUse s)
  else beginStep5 c s

/-- The head reports the loop closed or opened (R29, R34). -/
def loopChanges (c : Channel) (closed : Bool) (s : State) : State :=
  let s := s.updPins c fun p => { p with loopClosed := closed }
  let x := (s.chan c).session
  if atStep s c 4 then s.updSeq c fun q => { q with inUse := q.inUse || closed }
  else if x.state = .connected ∨ x.state = .measuring then
    if x.purpose.automatic then (if closed then yieldSession c s else s)
    else
      emit
        { kind := if closed then .offHook else .onHook, channel := some c, line := some x.line.val }
        (s.updSession c fun x => { x with offHook := closed })
  else s

/-- The shelf shows confirm (R27, R33). -/
def confirmShows (c : Channel) (s : State) : State :=
  let s := s.updPins c fun p => { p with confirm := true }
  let r := s.chan c
  if awaitsConfirm r then
    if r.pins.hold then s.updSeq c fun q => { q with confirmHeldBack := true } else takeConfirm c s
  else
    match r.seq.abandoned with
    | some a => lateConfirm c a s
    | none => s

/-- The hold line clears: a confirm held back and still shown is taken, or is late where its operate has been
abandoned (R27, R33; log entry 12). -/
def holdClears (c : Channel) (s : State) : State :=
  let s := s.updPins c fun p => { p with hold := false }
  let r := s.chan c
  if r.seq.confirmHeldBack && r.pins.confirm then
    if awaitsConfirm r then takeConfirm c s
    else
      match r.seq.abandoned with
      | some a => lateConfirm c a s
      | none => s.updSeq c fun q => { q with confirmHeldBack := false }
  else s

/-- The end of a release step's wait (R31). -/
def releaseWaitEnds (c : Channel) (s : State) : State :=
  match (s.chan c).session.state, (s.chan c).seq.releasing with
  | .releasing, some r =>
    match nextRelease r with
    | some n => giveRelease c n s
    | none => enterGuard c s
  | _, _ => s

/-! ### The rows -/

/-- STEP1_END (R26). -/
def execStep1End (c : Channel) (s : State) : Result := .next (if atStep s c 1 then beginStep2 c s else s)

/-- SETUP_WAIT_END (R26). -/
def execSetupWaitEnd (c : Channel) (s : State) : Result := .next (if atStep s c 2 then goRule c s else s)

/-- OPERATE_WAIT_END (R27). -/
def execOperateWaitEnd (c : Channel) (s : State) : Result :=
  .next
    (if (atStep s c 3 || atStep s c 5) && !(s.chan c).seq.operateElapsed then
       let taken := (s.chan c).seq.confirmTaken
       let s := s.updSeq c fun q => { q with operateElapsed := true, waitEnd := none }
       if taken then operateEnds c s else s
     else s)

/-- CONFIRM_SHOWN (R27). -/
def execConfirmShown (c : Channel) (s : State) : Result := .next (confirmShows c s)

/-- HOLD_CLEAR (R27). -/
def execHoldClear (c : Channel) (s : State) : Result := .next (holdClears c s)

/-- CONFIRM_TIMEOUT (R28). -/
def execConfirmTimeout (c : Channel) (s : State) : Result :=
  .next (if awaitsConfirm (s.chan c) then confirmTimesOut c s else s)

/-- BUSY_TEST_END (R29). -/
def execBusyTestEnd (c : Channel) (s : State) : Result := .next (if atStep s c 4 then busyTestEnds c s else s)

/-- LOOP_CLOSURE_CHANGE (R34). -/
def execLoopClosureChange (c : Channel) (closed : Bool) (s : State) : Result := .next (loopChanges c closed s)

/-- RELEASE_WAIT_END (R31). -/
def execReleaseWaitEnd (c : Channel) (s : State) : Result := .next (releaseWaitEnds c s)

/-- GUARD_END (R32). -/
def execGuardEnd (c : Channel) (s : State) : Result :=
  .next (if (s.chan c).session.state = .guard then enterClosing c s else s)

/-- HOLD_SET (R27). -/
def execHoldSet (c : Channel) (s : State) : Result := .next (s.updPins c fun p => { p with hold := true })

/-- CONFIRM_NO_LONGER_SHOWN (R27). -/
def execConfirmNoLongerShown (c : Channel) (s : State) : Result :=
  .next ((s.updPins c fun p => { p with confirm := false }).updSeq c fun q => { q with confirmHeldBack := false })

/-- HEAD_ANSWER; with no request outstanding it is discarded (R46). -/
def execHeadAnswer (c : Channel) (a : HeadAnswer) (s : State) : Result := .next (takeAnswer c a s)

/-- HEAD_TIMEOUT. It acts where the request outstanding has run its 500 ms beyond its expected length: an answer taken
first leaves a later request, which has not, or none (R46, R70). -/
def execHeadTimeout (c : Channel) (s : State) : Result :=
  .next (if headTimedOut c s then cutMeasurement c .headTimeout .headTimeout s else s)

/-- OWN_QUIET_LAPSE (R140). -/
def execOwnQuietLapse (c : Channel) (s : State) : Result := .next (quietLapses c s)

/-- QUIET_LIMIT (R137). -/
def execQuietLimit (c : Channel) (s : State) : Result := .next (limitReached c s)

/-- QUIET_SETTLE_END (R137). -/
def execQuietSettleEnd (c : Channel) (s : State) : Result := .next (settleEnds c s)

end Sys2Proof.Machine
end

