-- ==== Sys2Proof/Machine/Dispatch.lean ====
section
/-! DEFINITION. One arm per row of spec/opcode_table.json, each a direct call of its meaning. -/

namespace Sys2Proof.Machine

def exec (i : Instr) (s : State) : Host.Outcome State Fault Refusal :=
  match i with
  | .portByteWrite byte => Sys2Proof.Machine.execPortByteWrite byte s
  | .resultByteRead => Sys2Proof.Machine.execResultByteRead s
  | .portClear byte => Sys2Proof.Machine.execPortClear byte s
  | .configure station auto lock => Sys2Proof.Machine.execConfigure station auto lock s
  | .unlock => Sys2Proof.Machine.execUnlock s
  | .loadBlock block form => Sys2Proof.Machine.execLoadBlock block form s
  | .loadTrunk trunk rtrunk ctrunk => Sys2Proof.Machine.execLoadTrunk trunk rtrunk ctrunk s
  | .setThresholds t => Sys2Proof.Machine.execSetThresholds t s
  | .setClock value => Sys2Proof.Machine.execSetClock value s
  | .trunkRestore trunk => Sys2Proof.Machine.execTrunkRestore trunk s
  | .access channel line force => Sys2Proof.Machine.execAccess channel line force s
  | .release channel => Sys2Proof.Machine.execRelease channel s
  | .cancel channel => Sys2Proof.Machine.execCancel channel s
  | .sessionRead channel => Sys2Proof.Machine.execSessionRead channel s
  | .measure channel stages n ticket => Sys2Proof.Machine.execMeasure channel stages n ticket s
  | .resultRead channel => Sys2Proof.Machine.execResultRead channel s
  | .clearLinkStatus => Sys2Proof.Machine.execClearLinkStatus s
  | .rejoin => Sys2Proof.Machine.execRejoin s
  | .ticketOpen line cls => Sys2Proof.Machine.execTicketOpen line cls s
  | .ticketClose number => Sys2Proof.Machine.execTicketClose number s
  | .ticketRetest number interval count => Sys2Proof.Machine.execTicketRetest number interval count s
  | .ticketRead number => Sys2Proof.Machine.execTicketRead number s
  | .ticketList number => Sys2Proof.Machine.execTicketList number s
  | .ticketHandover number station => Sys2Proof.Machine.execTicketHandover number station s
  | .sweepStart first last stages n => Sys2Proof.Machine.execSweepStart first last stages n s
  | .run => Sys2Proof.Machine.execRun s
  | .stop => Sys2Proof.Machine.execStop s
  | .step => Sys2Proof.Machine.execStep s
  | .continueRun => Sys2Proof.Machine.execContinueRun s
  | .abort => Sys2Proof.Machine.execAbort s
  | .watchSet op line filter => Sys2Proof.Machine.execWatchSet op line filter s
  | .watchRead => Sys2Proof.Machine.execWatchRead s
  | .takeEvent => Sys2Proof.Machine.execTakeEvent s
  | .statusDetail => Sys2Proof.Machine.execStatusDetail s
  | .setMask mask => Sys2Proof.Machine.execSetMask mask s
  | .softReset => Sys2Proof.Machine.execSoftReset s
  | .farewellLimit => Sys2Proof.Machine.execFarewellLimit s
  | .softResetEnd => Sys2Proof.Machine.execSoftResetEnd s
  | .hardwareReset => Sys2Proof.Machine.execHardwareReset s
  | .startupEnd => Sys2Proof.Machine.execStartupEnd s
  | .officeClockTick => Sys2Proof.Machine.execOfficeClockTick s
  | .arbiterChoose => Sys2Proof.Machine.execArbiterChoose s
  | .frameAttemptStart => Sys2Proof.Machine.execFrameAttemptStart s
  | .arbitrationLoss => Sys2Proof.Machine.execArbitrationLoss s
  | .ownAttemptEnd how => Sys2Proof.Machine.execOwnAttemptEnd how s
  | .urgentFrameEnters => Sys2Proof.Machine.execUrgentFrameEnters s
  | .holdingAreaEnter => Sys2Proof.Machine.execHoldingAreaEnter s
  | .markEntersQueue => Sys2Proof.Machine.execMarkEntersQueue s
  | .quietRequestQueued channel => Sys2Proof.Machine.execQuietRequestQueued channel s
  | .claimTaken sender line trunk purpose channel => Sys2Proof.Machine.execClaimTaken sender line trunk purpose channel s
  | .releaseFrameTaken sender line trunk => Sys2Proof.Machine.execReleaseFrameTaken sender line trunk s
  | .presenceTaken sender joining holdings quiets => Sys2Proof.Machine.execPresenceTaken sender joining holdings quiets s
  | .quietTaken sender block => Sys2Proof.Machine.execQuietTaken sender block s
  | .quietEndTaken sender block => Sys2Proof.Machine.execQuietEndTaken sender block s
  | .quietBusyTaken sender block requester => Sys2Proof.Machine.execQuietBusyTaken sender block requester s
  | .quietClearTaken sender block requester => Sys2Proof.Machine.execQuietClearTaken sender block requester s
  | .ticketNoteTaken sender entries => Sys2Proof.Machine.execTicketNoteTaken sender entries s
  | .ticketAddTaken sender owner number line obs => Sys2Proof.Machine.execTicketAddTaken sender owner number line obs s
  | .handOfferTaken sender offer => Sys2Proof.Machine.execHandOfferTaken sender offer s
  | .handAcceptTaken sender offering offered newNumber => Sys2Proof.Machine.execHandAcceptTaken sender offering offered newNumber s
  | .handRefuseTaken sender offering offered reason => Sys2Proof.Machine.execHandRefuseTaken sender offering offered reason s
  | .trunkNoticeTaken sender trunk out => Sys2Proof.Machine.execTrunkNoticeTaken sender trunk out s
  | .ownNumberFrame => Sys2Proof.Machine.execOwnNumberFrame s
  | .clashFound => Sys2Proof.Machine.execClashFound s
  | .stuckLine => Sys2Proof.Machine.execStuckLine s
  | .stuckCleared => Sys2Proof.Machine.execStuckCleared s
  | .lostFrameHeard sender body => Sys2Proof.Machine.execLostFrameHeard sender body s
  | .joinSettleEnd => Sys2Proof.Machine.execJoinSettleEnd s
  | .presenceTimer => Sys2Proof.Machine.execPresenceTimer s
  | .peerSilent station => Sys2Proof.Machine.execPeerSilent station s
  | .foreignQuietLapse station block => Sys2Proof.Machine.execForeignQuietLapse station block s
  | .ownQuietLapse channel => Sys2Proof.Machine.execOwnQuietLapse channel s
  | .quietLimit channel => Sys2Proof.Machine.execQuietLimit channel s
  | .quietSettleEnd channel => Sys2Proof.Machine.execQuietSettleEnd channel s
  | .handoverTimeout number => Sys2Proof.Machine.execHandoverTimeout number s
  | .headAnswer channel answer => Sys2Proof.Machine.execHeadAnswer channel answer s
  | .headTimeout channel => Sys2Proof.Machine.execHeadTimeout channel s
  | .step1End channel => Sys2Proof.Machine.execStep1End channel s
  | .setupWaitEnd channel => Sys2Proof.Machine.execSetupWaitEnd channel s
  | .operateWaitEnd channel => Sys2Proof.Machine.execOperateWaitEnd channel s
  | .confirmShown channel => Sys2Proof.Machine.execConfirmShown channel s
  | .holdClear channel => Sys2Proof.Machine.execHoldClear channel s
  | .confirmTimeout channel => Sys2Proof.Machine.execConfirmTimeout channel s
  | .busyTestEnd channel => Sys2Proof.Machine.execBusyTestEnd channel s
  | .loopClosureChange channel closed => Sys2Proof.Machine.execLoopClosureChange channel closed s
  | .releaseWaitEnd channel => Sys2Proof.Machine.execReleaseWaitEnd channel s
  | .guardEnd channel => Sys2Proof.Machine.execGuardEnd channel s
  | .holdSet channel => Sys2Proof.Machine.execHoldSet channel s
  | .confirmNoLongerShown channel => Sys2Proof.Machine.execConfirmNoLongerShown channel s

end Sys2Proof.Machine
end

