-- ==== Sys2Proof/Machine/Step.lean ====
section
/-! DEFINITION. One step: the command or event at the front of the queue, or a millisecond of idling. -/

namespace Sys2Proof.Machine

/-- Take the command at the front of the queue and run it on the state with the queue's rest; on an empty
queue a millisecond passes (log entries 1 and 3). -/
def step (s : State) : Host.Outcome State Fault Refusal :=
  match s.pending with
  | [] => .next (idle s)
  | i :: rest => exec i { s with pending := rest }

/-- The row that a word spells, put at the front of the queue. No row of spec/opcode_table.json has bits, so
no word spells one and the state is unchanged. -/
def State.withFetchWord (s : State) (nbits w : Nat) : State :=
  match decodeTableWord nbits w with
  | none => s
  | some i => { s with pending := i :: s.pending }

end Sys2Proof.Machine
end

