-- ==== Sys2Proof/Safety.lean ====
section
/-! DEFINITION. What the manual says always holds of the part's stores and queues, gathered in one invariant
`Inv`; and the words the statements use: what a console command answers. -/

namespace Sys2Proof.Machine

/-! ### The Console Port -/

/-- The event queue has at most 30 general events and at most one completion a channel, every completion names
its channel, and the lost count is at most 255 (R203, R204). -/
structure PortOk (p : Port) : Prop where
  general : generalCount p.events ≤ Config.eventSlots
  completions : ∀ c, (p.events.filter (·.completes c)).length ≤ 1
  named : ∀ e ∈ p.events, e.kind.isCompletion = true → e.channel.isSome = true
  lost : p.lost ≤ Config.countMax

/-! ### The Configuration Store -/

/-- A block entry within the ranges of R2: 1–4 distinct trunks, constants clamped. -/
structure BlockOk (e : BlockEntry) : Prop where
  some_ : 1 ≤ e.trunks.length
  four : e.trunks.length ≤ 4
  distinct : e.trunks.Nodup
  rpc : 20 ≤ e.rpc ∧ e.rpc ≤ 300
  cpk : 30 ≤ e.cpk ∧ e.cpk ≤ 80
  setupWait : e.setupWait ≤ 3
  operateWait : 1 ≤ e.operateWait ∧ e.operateWait ≤ 7
  releaseGuard : e.releaseGuard ≤ 3
  minLength : e.minLength ≤ 30000
  settlePerKm : e.settlePerKm ≤ 100

/-- A trunk entry within the ranges of R5, its streak as R9 and R10 leave it, its declarer present exactly while
it is OUT. -/
structure TrunkOk (e : TrunkEntry) : Prop where
  declared : e.declaredBy.isSome = true ↔ e.condition = .out
  inService : e.condition = .inService → e.streak = 0
  suspect : e.condition = .suspect → 1 ≤ e.streak ∧ e.streak ≤ 2
  streak : e.streak ≤ 3
  rtrunk : e.rtrunk ≤ 400
  ctrunk : e.ctrunk ≤ 100

/-- Office thresholds within the ranges of R14. -/
structure ThresholdsOk (t : Thresholds) : Prop where
  rshort : 1000 ≤ t.rshort ∧ t.rshort ≤ 200000
  rground : 1000 ≤ t.rground ∧ t.rground ≤ 200000
  rinsul : 100000 ≤ t.rinsul ∧ t.rinsul ≤ 20000000
  vdcLimit : 1000 ≤ t.vdcLimit ∧ t.vdcLimit ≤ 60000
  vacLimit : 1000 ≤ t.vacLimit ∧ t.vacLimit ≤ 60000
  longLoop : t.longLoop ≤ 30000
  sampleCount : 4 ≤ t.sampleCount ∧ t.sampleCount ≤ 64

/-- The Configuration Store's entries within their ranges (R2, R5, R14, R16, R20). -/
structure StoreOk (r : Store) : Prop where
  blocks : ∀ e ∈ r.blocks.toList, ∀ b, e = some b → BlockOk b
  trunks : ∀ e ∈ r.trunks.toList, TrunkOk e
  thresholds : ThresholdsOk r.thresholds
  clock : r.clock ≤ Config.clockMax
  station : ∀ n, r.station = some n → 1 ≤ n ∧ n ≤ 15

/-! ### The transmit queue -/

/-- A queued frame's counts (R82). -/
def frameOk (l : Link) (f : QueuedFrame) : Prop := f.voids ≤ 3 ∧ f.losses ≤ 8 ∧ f.entry < l.nextEntry

/-- The transmit queue holds at most 12 frames, at most 8 of them first queued at urgency 1–3, in entry order; the
holding area holds at most 4; only urgency-0 frames wait for a slot (R82 to R84). -/
structure LinkOk (l : Link) : Prop where
  slots : l.queue.length ≤ Config.queueSlots
  low : lowCount l.queue ≤ Config.lowSlots
  frames : ∀ f ∈ l.queue, frameOk l f
  order : (l.queue.map (·.entry)).Pairwise (· < ·)
  holding : l.holding.length ≤ Config.holdingSlots
  waiting : ∀ f ∈ l.waiting, queuedUrgency f.body = 0

/-! ### The roster -/

/-- A roster entry: a station 1–15, at most 2 holdings and 2 quiet blocks, none twice (R96). -/
structure PeerOk (p : Peer) : Prop where
  station : 1 ≤ p.station ∧ p.station ≤ 15
  holdings : p.holdings.length ≤ 2
  pairs : (p.holdings.map fun h => (h.line, h.trunk)).Nodup
  quiets : p.quiets.length ≤ 2
  blocks : (p.quiets.map (·.block)).Nodup

/-- The roster in station order, each entry in its limits (R96). -/
structure RosterOk (r : List Peer) : Prop where
  order : (r.map (·.station)).Pairwise (· < ·)
  peers : ∀ p ∈ r, PeerOk p

/-- The roster never lists the station's own number, and is empty in OFF, MUTE and LOST (R96, R106). -/
structure RosterFits (own : Option Station) (st : LinkState) (r : List Peer) : Prop where
  foreign : ∀ p ∈ r, own ≠ some p.station
  onLine : st = .off ∨ st = .mute ∨ st = .lost → r = []

/-! ### The Ticket Store -/

/-- A retest plan within its ranges (R142). -/
def planOk (p : RetestPlan) : Prop := 1 ≤ p.interval ∧ p.interval ≤ 240 ∧ 1 ≤ p.remaining ∧ p.remaining ≤ 15

/-- A ticket's fields within their limits: a failing class, at most 8 observations, a streak of at most 2, a
handover field while in HANDOVER, and a plan exactly while in RETEST or in HANDOVER with prior state RETEST (R142,
R144, R148). -/
structure TicketOk (t : Ticket) : Prop where
  cls : t.cls.failing = true
  observations : t.observations.length ≤ Config.observationSlots
  streak : t.streak ≤ 2
  offered : t.state = .handover → t.handover.isSome = true
  planned : t.plan.isSome = true ↔
    t.state = .retest ∨ (t.state = .handover ∧ t.handover.any (·.priorRetest) = true)
  plan : ∀ p, t.plan = some p → planOk p

/-- The Ticket Store's sizes; one ticket a number and a line; one index entry a line, on no ticket's line (R142,
R143, R145, R151). -/
structure TicketsOk (ts : TicketStore) : Prop where
  size : ts.tickets.length ≤ Config.ticketSlots
  numbers : (ts.tickets.map (·.number)).Nodup
  lines : (ts.tickets.map (·.line)).Nodup
  tickets : ∀ t ∈ ts.tickets, TicketOk t
  index : ts.index.length ≤ Config.indexSlots
  indexLines : (ts.index.map (·.line)).Nodup
  apart : ∀ t ∈ ts.tickets, ∀ e ∈ ts.index, t.line ≠ e.line
  closedNotes : ts.closedNotes.length ≤ Config.closedNoteSlots
  next : 1 ≤ ts.nextNumber ∧ ts.nextNumber ≤ Config.ticketMax

/-! ### The sweep and the watch -/

/-- The deferred list holds at most 16 distinct lines, and the counts saturate (R178, R181). -/
structure SweepOk (w : Sweep) : Prop where
  deferred : w.deferred.length ≤ Config.deferredSlots
  distinct : w.deferred.Nodup
  tested : w.tested ≤ Config.sweepCountMax
  failed : w.failed ≤ Config.sweepCountMax
  skipped : w.skipped ≤ Config.sweepCountMax

/-- What always holds of the part's stores and queues. -/
structure Inv (s : State) : Prop where
  port : PortOk s.port
  store : StoreOk s.store
  link : LinkOk s.link
  roster : RosterOk s.roster
  fits : RosterFits s.store.station s.link.state s.roster
  tickets : TicketsOk s.ticketStore
  sweep : ∀ w, s.auto.sweep = some w → SweepOk w
  hits : s.watch.hits ≤ Config.countMax

/-- What the outside, the line and the part's own steps leave to the console, the resets, the clocks and the shelf's
lines: the port's phase, bytes and mask, the configuration with the calibration, the watch's setting, the outside
lines, the timer, the choice a soft reset made, and the queue. `s` agrees with `r` on all of these. -/
structure Aside (r s : State) : Prop where
  port : { s.port with events := [], lost := 0 } = { r.port with events := [], lost := 0 }
  store : { s.store with trunks := Vector.replicate 16 .initial } =
    { r.store with trunks := Vector.replicate 16 .initial }
  calibration : ∀ t, (s.trunkEntry t).rtrunk = (r.trunkEntry t).rtrunk ∧
    (s.trunkEntry t).ctrunk = (r.trunkEntry t).ctrunk
  watch : s.watch.op = r.watch.op ∧ s.watch.line = r.watch.line ∧ s.watch.filter = r.watch.filter
  pins : ∀ c, (s.chan c).pins = (r.chan c).pins
  kept : s.softReset.map (·.kept) = r.softReset.map (·.kept)
  now : s.now = r.now
  pending : s.pending = r.pending

/-- The rows that the outside, the line and the part's own steps send, apart from the console's rows, the resets, the
end of start-up and the office clock. -/
def eventRow : Instr → Bool
  | .arbiterChoose => true
  | .frameAttemptStart => true
  | .arbitrationLoss => true
  | .ownAttemptEnd _ => true
  | .urgentFrameEnters => true
  | .holdingAreaEnter => true
  | .markEntersQueue => true
  | .quietRequestQueued _ => true
  | .claimTaken _ _ _ _ _ => true
  | .releaseFrameTaken _ _ _ => true
  | .presenceTaken _ _ _ _ => true
  | .quietTaken _ _ => true
  | .quietEndTaken _ _ => true
  | .quietBusyTaken _ _ _ => true
  | .quietClearTaken _ _ _ => true
  | .ticketNoteTaken _ _ => true
  | .ticketAddTaken _ _ _ _ _ => true
  | .handOfferTaken _ _ => true
  | .handAcceptTaken _ _ _ _ => true
  | .handRefuseTaken _ _ _ _ => true
  | .trunkNoticeTaken _ _ _ => true
  | .ownNumberFrame => true
  | .clashFound => true
  | .stuckLine => true
  | .stuckCleared => true
  | .lostFrameHeard _ _ => true
  | .joinSettleEnd => true
  | .presenceTimer => true
  | .peerSilent _ => true
  | .foreignQuietLapse _ _ => true
  | .ownQuietLapse _ => true
  | .quietLimit _ => true
  | .quietSettleEnd _ => true
  | .handoverTimeout _ => true
  | .headAnswer _ _ => true
  | .headTimeout _ => true
  | .step1End _ => true
  | .setupWaitEnd _ => true
  | .operateWaitEnd _ => true
  | .confirmShown _ => true
  | .holdClear _ => true
  | .confirmTimeout _ => true
  | .busyTestEnd _ => true
  | .loopClosureChange _ _ => true
  | .releaseWaitEnd _ => true
  | .guardEnd _ => true
  | .holdSet _ => true
  | .confirmNoLongerShown _ => true
  | _ => false

/-- The outside lines as a row reports them; every other row leaves them (R27, R34). -/
def linesAfter (i : Instr) (s : State) : State :=
  match i with
  | .confirmShown c => s.updPins c fun p => { p with confirm := true }
  | .confirmNoLongerShown c => s.updPins c fun p => { p with confirm := false }
  | .holdSet c => s.updPins c fun p => { p with hold := true }
  | .holdClear c => s.updPins c fun p => { p with hold := false }
  | .loopClosureChange c closed => s.updPins c fun p => { p with loopClosed := closed }
  | _ => s

/-- A channel's head request has been outstanding for 500 ms beyond its expected length: its settle or discharge, then
66 ms of charge or a millisecond for each sample (R46, R70). -/
def HeadDue (s : State) (c : Channel) : Prop :=
  ∃ q, (s.chan c).engine.request = some q ∧
    q.sentAt + (q.settle + if q.reading = .cap then 66 else q.samples) + 500 ≤ s.now

/-! ### Frames of other stations -/

/-- The state after the heard slot of another station's frame has been driven (R78). -/
def State.answered (s : State) : State := { s with link := { s.link with slot := some .heard } }

/-- The state after a frame of station `n`, already in the roster, has been answered and noted as heard (R78, R97). -/
def State.heard (n : Station) (s : State) : State := updatePeer n (fun q => { q with lastHeard := s.now }) s.answered

/-- A frame of station `n` ends on the wire and is taken here: the station is in JOINING or ACTIVE with no attempt of
its own under way, the body fits its kind, the sender is another station, and the roster knows it (R78, R79, R97). -/
structure Heard (s : State) (n : Station) (b : FrameBody) : Prop where
  onLine : s.onLine = true
  wire : s.link.wire = none
  fits : frameFits n b = true
  other : s.store.station ≠ some n
  known : (s.peer n).isSome = true

/-- The row that says a frame of station `n` has been taken, by the frame's kind. -/
def frameRow (n : Station) : FrameBody → Instr
  | .release l t => .releaseFrameTaken n l t
  | .quietBusy b r => .quietBusyTaken n b r
  | .quietClear b r => .quietClearTaken n b r
  | .quietEnd b => .quietEndTaken n b
  | .claim l t p c => .claimTaken n l t p c
  | .quiet b => .quietTaken n b
  | .ticketNote es => .ticketNoteTaken n es
  | .ticketAdd o k l obs => .ticketAddTaken n o k l obs
  | .handOffer o => .handOfferTaken n o
  | .handAccept o k m => .handAcceptTaken n o k m
  | .handRefuse o k r => .handRefuseTaken n o k r
  | .trunkNotice t out => .trunkNoticeTaken n t out
  | .presence j hs qs => .presenceTaken n j hs qs

/-- The roster with station `n`'s entry changed. -/
def rosterWith (n : Station) (f : Peer → Peer) (r : List Peer) : List Peer :=
  r.map fun q => if q.station = n then f q else q

/-- No own session is one that pairs held by another station contest: each has no queued claim and is in no active
state, or its line and its trunk are in none of the pairs (R102, R119, R125). -/
def Uncontested (s : State) (ps : List Pair) : Prop :=
  ∀ c, ((s.chan c).claim.stage ≠ .queued ∧ (s.chan c).session.state.active = false) ∨
    ∀ p ∈ ps, p.1 ≠ (s.chan c).session.line ∧ p.2 ≠ (s.chan c).session.trunk

/-- A frame of station `n` that shows it holds the pair of `l` and `t`: a CLAIM or a RELEASE that names it, or a
PRESENCE that lists it with the quiet blocks the roster has for the station and is not its first joining one. -/
def ShowsPair (s : State) (n : Station) (l : Line) (t : Trunk) (b : FrameBody) : Prop :=
  (∃ p c, b = .claim l t p c) ∨ b = .release l t ∨
    ∃ j p q, b = .presence j [⟨l, t, p⟩] (q.quiets.map (·.block)) ∧ s.peer n = some q ∧ (j = false ∨ q.joining = true)

/-- A frame of urgency 0 enters the queue at once: a slot is free and none waits (R82, R83). -/
def UrgentRoom (s : State) : Prop := s.link.waiting = [] ∧ s.link.queue.length < 12

/-- A notice enters the queue at once: there is room for its urgency and nothing waits (R82, R84). -/
def NoticeRoom (s : State) : Prop :=
  s.link.waiting = [] ∧ s.link.holding = [] ∧ lowCount s.link.queue < 8 ∧ s.link.queue.length < 12

/-- The queue with a frame entered behind it (R82). -/
def linkWith (b : FrameBody) (c : Option Channel) (l : Link) : Link :=
  { l with
    queue := l.queue ++ [⟨.built b, urgencyOf b, urgencyOf b, l.nextEntry, 0, 0, false, c⟩]
    nextEntry := l.nextEntry + 1 }

/-- The port with an event entered at its end (R204). -/
def portWith (e : Event) (s : State) : Port :=
  { s.port with
    events := s.port.events ++ [{ e with time := s.store.clock, lostBefore := s.port.lost }]
    lost := 0 }

/-- The CLAIM `f` of channel `c`, queued in `v`, has been withdrawn because its trunk is held elsewhere or OUT, `station`
the sender of the frame that caused it: an operator claim takes the trunk that route choice gives, its frame behind every
frame queued with its counts at 0, or its session ends NO-TRUNK; an automatic one ends its item BLOCKED (R12, R120 to
R122). -/
structure ClaimWithdrawn (v : State) (c : Channel) (f : QueuedFrame) (station : Option Station) (u : State) :
    Prop where
  rerouted : (v.chan c).session.purpose = .operator → ∀ r, chooseRoute v (v.chan c).session.line = .trunk r →
    u = (v.updSession c fun x => { x with trunk := r }).updLink fun l =>
      let g := { f with
        body := .built (.claim (v.chan c).session.line r .operator c), entry := l.nextEntry, voids := 0, losses := 0 }
      { l with queue := l.queue.filter (·.entry != f.entry) ++ [g], nextEntry := l.nextEntry + 1 }
  left : (v.chan c).session.purpose ≠ .operator ∨ (∀ r, chooseRoute v (v.chan c).session.line ≠ .trunk r) →
    (u.chan c).session.state = .idle ∧ (u.chan c).claim.stage = .none ∧
    u.link = { v.link with queue := v.link.queue.filter (·.entry != f.entry) } ∧ u.chan c.other = v.chan c.other ∧
    u.store = v.store
  noTrunk : (v.chan c).session.purpose = .operator → (∀ r, chooseRoute v (v.chan c).session.line ≠ .trunk r) →
    (v.chan c).session.cancelPending = false → (v.chan c).command = some .access → v.done c = false →
    u.busy c = false ∧ u.port = portWith
      { kind := .accessDone, channel := some c, line := some (v.chan c).session.line.val
        trunk := some (v.chan c).session.trunk, outcome := some (.channel .noTrunk), station := station } v
  blocked : (v.chan c).session.purpose ≠ .operator → u.auto.item = none ∧
    ∀ i, v.auto.item = some i → i.outcome = none → i.aborted = false → v.auto.run = .stepping →
      generalCount u.port.events < 30 → ∃ e ∈ u.port.events,
        e.kind = .stepDone ∧ e.line = some i.line.val ∧ e.outcome = some (.item .blocked)

/-- The trunks this station declared out, in number order (R104, R105). -/
def State.declaredOut (s : State) : List Trunk :=
  (List.finRange 16).filter fun t => (s.trunkEntry t).declaredBy = some .self

/-- The tickets with every open one announce-pending (R151). -/
def announced (l : List Ticket) : List Ticket :=
  l.map fun t => { t with announcePending := t.announcePending || decide (t.state ≠ .cleared) }

/-- The queue holds out notices for the trunks this station declared out, behind what it held (R104, R105). -/
def OutNoticesQueued (s u : State) : Prop :=
  s.link.holding = [] → s.link.waiting = [] → lowCount s.link.queue + s.declaredOut.length ≤ 8 →
    s.link.queue.length + s.declaredOut.length ≤ 12 →
    u.link.queue.map (·.body) = s.link.queue.map (·.body) ++ s.declaredOut.map fun t => .built (.trunkNotice t true)

/-- A PRESENCE enters the queue at once: there is room for its urgency after the holding area (R82, R85). -/
def PresenceRoom (s : State) : Prop :=
  s.link.waiting = [] ∧ lowCount s.link.queue + s.link.holding.length < 8 ∧
    s.link.queue.length + s.link.holding.length < 12

/-- The queue holds a PRESENCE, and behind it out notices for the trunks this station declared out (R89, R104). -/
def JoinFramesQueued (s u : State) : Prop :=
  s.port.phase ≠ .starting → s.link.holding = [] → s.link.waiting = [] →
    lowCount s.link.queue + s.declaredOut.length < 8 → s.link.queue.length + s.declaredOut.length < 12 →
    u.link.queue.map (·.body) = s.link.queue.map (·.body) ++
      .presenceMark :: s.declaredOut.map fun t => .built (.trunkNotice t true)

/-- The link has entered JOINING (R87, R89, R103, R104): the PRESENCE queued at once where there is room for it, else
its mark set; join settle, presence timer, announcements, and a LINK-STATE where the state has changed. -/
structure JoinsTheLine (s u : State) : Prop where
  state : u.link.state = .joining
  cause : u.link.cause = none
  presence : PresenceRoom s → u.link.presenceMark = false ∧
    ∃ rest, u.link.queue.map (·.body) = s.link.queue.map (·.body) ++ .presenceMark :: rest
  mark : ¬ PresenceRoom s → u.link.presenceMark = true
  frames : JoinFramesQueued s u
  settle : u.link.joinEnd = some (s.now + 1500)
  timer : u.link.presenceDue = some (s.now + 1000)
  tickets : s.declaredOut = [] ∨ s.link.holding = [] →
    u.ticketStore = { s.ticketStore with tickets := announced s.ticketStore.tickets }
  store : u.store = s.store
  channels : u.chanA = s.chanA ∧ u.chanB = s.chanB
  event : s.link.state ≠ .joining → generalCount s.port.events < 30 → s.declaredOut = [] →
    u.port = portWith { kind := .linkState, outcome := some (.link .joining) } s

/-- The link has entered MUTE or LOST (R40, R91, R93, R141): every session ended with its drives released, queue, view
and quiets gone, the tickets kept, LINK-STATE queued and, for MUTE, CLASH set. -/
structure LosesTheLine (s : State) (st : LinkState) (k : Option LostCause) (u : State) : Prop where
  state : u.link.state = st
  cause : u.link.cause = k
  queue : u.link.queue = [] ∧ u.link.waiting = [] ∧ u.link.holding = [] ∧ u.link.presenceMark = false
  wire : u.link.wire = none
  timers : u.link.joinEnd = none ∧ u.link.presenceDue = none
  clash : u.link.clash = (s.link.clash || decide (st = .mute))
  linkError : u.link.linkError = s.link.linkError
  view : u.roster = [] ∧ u.ticketStore.index = []
  sessions : ∀ c, (u.chan c).session.state = .idle ∧ (u.chan c).session.quietHeld = none
  drives : ∀ c, (u.chan c).seq.drives = ⟨false, false, false, []⟩
  engines : ∀ c, (u.chan c).engine.phase = .idle ∧ (u.chan c).engine.request = none
  quiets : ∀ c, (u.chan c).quiet = .initial ∧ (u.chan c).clears = []
  tickets : (∀ c, (s.chan c).session.cancelPending = false ∧ (s.chan c).claim.withdrawal = none) →
    u.ticketStore = { releaseAllNotes s.ticketStore with index := [] }
  store : u.store = s.store
  room : u.auto.waitingForRoom = false
  event : generalCount u.port.events < 30 → ∃ e ∈ u.port.events,
    e.kind = .linkState ∧ e.outcome = some (.link st) ∧ e.linkCause = k

/-! ### What rows answer -/

/-- A console command's row answers `a` and leaves `u`, with the port holding the result in RESULT (R196, R197). -/
def Answers (i : Instr) (s : State) (a : Answer) (u : State) : Prop := exec i s = .next (holdResult .result none a u)

/-- The row of a command given whole; SOFT RESET has a row of its own kind (R196, R211). -/
def rowOf : Request → Instr
  | .configure n a l => .configure n a l
  | .unlock => .unlock
  | .loadBlock b f => .loadBlock b f
  | .loadTrunk t r c => .loadTrunk t r c
  | .setThresholds t => .setThresholds t
  | .setClock v => .setClock v
  | .trunkRestore t => .trunkRestore t
  | .access c l f => .access c l f
  | .release c => .release c
  | .cancel c => .cancel c
  | .sessionRead c => .sessionRead c
  | .measure c g n t => .measure c g n t
  | .resultRead c => .resultRead c
  | .clearLinkStatus => .clearLinkStatus
  | .rejoin => .rejoin
  | .ticketOpen l c => .ticketOpen l c
  | .ticketClose n => .ticketClose n
  | .ticketRetest n i k => .ticketRetest n i k
  | .ticketRead n => .ticketRead n
  | .ticketList n => .ticketList n
  | .ticketHandover n m => .ticketHandover n m
  | .sweepStart f l g n => .sweepStart f l g n
  | .run => .run
  | .stop => .stop
  | .step => .step
  | .continueRun => .continueRun
  | .abort => .abort
  | .watchSet o l f => .watchSet o l f
  | .watchRead => .watchRead
  | .takeEvent => .takeEvent
  | .statusDetail => .statusDetail
  | .setMask m => .setMask m
  | .softReset => .softReset

end Sys2Proof.Machine
end

