-- ==== Sys2Proof/Certificates/Slice0/Obligations.lean ====
section
/-! DEFINITION. The statements for the provers, from the manual's rules. -/

open Sys2Proof Sys2Proof.Machine

/-! ### Steps, resets and the port -/

/-- Tier 1. The step of a state whose queue has a row at its front runs that row on the state with the queue's
rest (95_what_each_step_holds.md). On an empty queue, by the model's own choice (log entries 3 and 5), a millisecond
passes and a port in WORKING enters RESULT. -/
def Obligations.StepRunsTheRowAtTheFront : Prop :=
  (∀ (c : Instr) (rest : List Instr) (s : State), s.pending = c :: rest →
    step s = exec c { s with pending := rest }) ∧
  (∀ s : State, s.pending = [] → step s = .next { s with
    now := s.now + 1
    port := { s.port with phase := if s.port.phase = .working then .result else s.port.phase } })

/-- Tier 2. Every row of the table answers a next state, whatever the state: no row faults and none is refused. What
the outside, the line and the part's own steps send leaves to the console, the resets and the clocks what is theirs,
and no row of any kind but a line's own moves an outside line; that a hardware reset keeps the outside lines too is the
model's choice (log entry 31). -/
def Obligations.EveryRowAnswersAndEventsKeepTheSettings : Prop :=
  (∀ (i : Instr) (s : State), ∃ t, exec i s = .next t) ∧
  (∀ (i : Instr) (s t : State), eventRow i = true → exec i s = .next t → Aside (linesAfter i s) t) ∧
  (∀ (i : Instr) (s t : State), exec i s = .next t → ∀ c, (t.chan c).pins = ((linesAfter i s).chan c).pins)

/-- Tier 1. What a hardware reset leaves at each block, and the end of start-up (R2, R5, R14, R16, R21, R47, R82,
R94, R112, R128, R142, R143, R151, R166, R186, R203, R204, R206, R210). That the outside lines and the queue are as
they were, and that the slot last driven is none, are the model's choices (log entries 31 and 7). -/
def Obligations.HardwareResetLeavesEveryBlockAtItsResetValues : Prop :=
  (∀ s : State, ∃ t, exec .hardwareReset s = .next t ∧
    t.port.phase = .starting ∧ t.statusByte = 0 ∧ t.interrupt = false ∧ t.port.events = [] ∧ t.port.lost = 0 ∧
    t.port.mask = ⟨false, false, false, false⟩ ∧
    t.store.configured = false ∧ t.store.station = none ∧ t.store.autoChannel = some .b ∧ t.store.lock = false ∧
    t.store.clock = 0 ∧ t.store.thresholds = ⟨20000, 20000, 1000000, 10000, 25000, 8000, 16⟩ ∧
    (∀ b, t.blockEntry b = none) ∧ (∀ k, t.trunkEntry k = ⟨.inService, 0, none, 0, 0⟩) ∧
    t.link.state = .off ∧ t.link.queue = [] ∧ t.link.waiting = [] ∧ t.link.holding = [] ∧
    t.link.linkError = false ∧ t.link.clash = false ∧ t.link.wire = none ∧ t.link.slot = none ∧ t.roster = [] ∧
    t.ticketStore = ⟨[], [], [], 1⟩ ∧
    t.auto.run = .halted ∧ t.auto.item = none ∧ t.auto.sweep = none ∧
    t.watch.op = .off ∧ t.watch.capture = none ∧ t.watch.hits = 0 ∧
    (∀ c, (t.chan c).session.state = .idle ∧ (t.chan c).session.lastResult = none ∧
      (t.chan c).seq.drives = ⟨false, false, false, []⟩ ∧ (t.chan c).claim.stage = .none ∧
      (t.chan c).quiet.phase = .none ∧ (t.chan c).engine.phase = .idle ∧ (t.chan c).engine.request = none ∧
      t.busy c = false ∧ t.done c = false ∧ (t.chan c).pins = (s.chan c).pins) ∧
    t.pending = s.pending) ∧
  (∀ s : State, s.port.phase = .starting → s.softReset = none →
    exec .startupEnd s = .next { s with port := { s.port with phase := .expectCommand } }) ∧
  (∀ t : State, exec .startupEnd State.reset = .next t → t.statusByte = 0x80#8)

/-- Tier 2. The status byte, bit by bit, READY highest; it reads 0 in STARTING (R195, R196, R205, R206: EVENT-WAITING
is any event, INT an unmasked one). -/
def Obligations.StatusByteShowsPhaseEventsBusyAndDone : Prop :=
  ∀ s : State,
    (s.port.phase = .starting → s.statusByte = 0 ∧ s.interrupt = false) ∧
    (s.port.phase ≠ .starting →
      (s.statusByte.getLsbD 7 = true ↔ s.port.phase ≠ .working) ∧
      (s.statusByte.getLsbD 6 = true ↔ s.port.phase = .result) ∧
      (s.statusByte.getLsbD 5 = true ↔ s.port.phase ≠ .expectCommand) ∧
      (s.statusByte.getLsbD 4 = true ↔ s.port.events ≠ []) ∧
      (s.statusByte.getLsbD 3 = true ↔ s.busy .a = true) ∧ (s.statusByte.getLsbD 2 = true ↔ s.done .a = true) ∧
      (s.statusByte.getLsbD 1 = true ↔ s.busy .b = true) ∧ (s.statusByte.getLsbD 0 = true ↔ s.done .b = true) ∧
      (s.interrupt = true ↔ ∃ e ∈ s.port.events, maskHides s.port.mask e.kind.cls = false))

/-- Tier 2. A byte written to the data register, by the port's phase (R196, R198); the byte encodings are free (log
entry 4), so the command a byte names is left open. The last byte's command is taken as its form check says. -/
def Obligations.ByteWritesFollowThePhases : Prop :=
  ∀ (b : Byte) (s : State),
    (s.port.phase = .expectCommand → exec (.portByteWrite b) s = .next
      (match Config.commandOfByte b with
       | none => holdResult .result none .badCommand s
       | some k => { s with port := { s.port with phase := .expectCount, command := some k, args := [] } })) ∧
    (∀ k, s.port.phase = .expectCount → s.port.command = some k →
      (b ≠ 0 → exec (.portByteWrite b) s =
        .next { s with port := { s.port with phase := .expectArgument, remaining := b.toNat } }) ∧
      (b = 0 → exec (.portByteWrite b) s = .next (lastByteWritten k [] s))) ∧
    (∀ k, s.port.phase = .expectArgument → s.port.command = some k →
      (2 ≤ s.port.remaining → exec (.portByteWrite b) s = .next { s with port := { s.port with
        remaining := s.port.remaining - 1, args := s.port.args ++ [b] } }) ∧
      (s.port.remaining = 1 → exec (.portByteWrite b) s = .next (lastByteWritten k (s.port.args ++ [b]) s))) ∧
    (s.port.phase = .starting ∨ s.port.phase = .working ∨ s.port.phase = .result →
      exec (.portByteWrite b) s = .next s)

/-- Tier 1. What the taking of a command byte by byte does: a form that fits is taken and its result held in
WORKING with the count bytes of its command, SOFT RESET enters STARTING, a form that does not fit is BAD-ARGUMENT with
position 0 or with that of its first wrong argument (R193, R196, R197, R200, R201, R211). The form check: no argument
for a command without any, the counts of commands whose arguments' sizes are known, a fewest count for the others (log
entry 4), WATCH SET with a station byte for the filter STATION and without one for the other four, a flag other than 0
and 1, a stage set with a bit outside the five stages, a byte that names no value. Where one argument has no such value,
the first wrong one gives the position, a line counted as one argument (log entry 15). A form that fits is its
command's. -/
def Obligations.LastByteTakesTheCommand : Prop :=
  let flag := fun f : Byte => f = 0 ∨ f = 1
  let station := fun n : Byte => 1 ≤ n.toNat ∧ n.toNat ≤ 15
  let stray := fun g : Byte => ∃ i : Fin 8, g.getLsbD i.val = true ∧ ∀ j, Config.stageBit j ≠ i
  let names := fun g : Byte => ∃ j, g.getLsbD (Config.stageBit j).val = true
  (∀ (k : CommandName) (args : List Byte) (s : State),
    lastByteWritten k args s = (match formCheck k args with
      | .fits r => if r = .softReset then takeSoftReset s
          else holdResult .working (some k) (takeRequest r s).1 (takeRequest r s).2
      | .badCount => holdResult .working (some k) (.badArgument 0) s
      | .badArgument n => holdResult .working (some k) (.badArgument n) s) ∧
    (∀ r, formCheck k args = .fits r → r.name = k) ∧
    (∀ r, nullaryRequest k = some r → args ≠ [] → formCheck k args = .badCount) ∧
    (∀ r, nullaryRequest k = some r → args = [] → formCheck k args = .fits r) ∧
    (nullaryRequest k = none → args = [] → formCheck k args = .badCount) ∧
    (∀ p ∈ [(CommandName.configure, 3), (.trunkRestore, 1), (.access, 4), (.release, 1), (.cancel, 1),
        (.sessionRead, 1), (.resultRead, 1), (.measure, 4), (.ticketOpen, 3), (.sweepStart, 6), (.setMask, 4)],
      k = p.1 → args.length ≠ p.2 → formCheck k args = .badCount) ∧
    (k = .watchSet → args.length ≠ 4 → args.length ≠ 5 → formCheck k args = .badCount) ∧
    (∀ p ∈ [(CommandName.loadBlock, 1), (.loadTrunk, 4), (.setThresholds, 17), (.setClock, 4), (.ticketClose, 2),
        (.ticketRetest, 4), (.ticketRead, 2), (.ticketList, 2), (.ticketHandover, 3)],
      k = p.1 → args.length < p.2 → formCheck k args = .badCount)) ∧
  (∀ n a f : Byte,
    (¬ station n → Config.autoChannelOfByte a = .other ∨ ¬ flag f → formCheck .configure [n, a, f] = .badArgument 1) ∧
    (station n → Config.autoChannelOfByte a = .other → formCheck .configure [n, a, f] = .badArgument 2) ∧
    (station n → Config.autoChannelOfByte a ≠ .other → ¬ flag f → formCheck .configure [n, a, f] = .badArgument 3) ∧
    (Config.autoChannelOfByte a ≠ .other → flag f → formCheck .configure [n, a, f] =
      .fits (.configure n.toNat (Config.autoChannelOfByte a) (decide (f = 1))))) ∧
  (∀ c h l f : Byte,
    (Config.channelOfByte c = none → formCheck .access [c, h, l, f] = .badArgument 1) ∧
    ∀ d : Channel, Config.channelOfByte c = some d →
      (¬ flag f → formCheck .access [c, h, l, f] = .badArgument 3) ∧
      (flag f →
        formCheck .access [c, h, l, f] = .fits (.access (some d) (Config.lineOfBytes h l) (decide (f = 1))))) ∧
  (∀ c g n f : Byte, (Config.channelOfByte c).isSome = true →
    (stray g ∨ (¬ names g ∧ ¬ flag f) → formCheck .measure [c, g, n, f] = .badArgument 2) ∧
    (¬ stray g → names g → ¬ flag f → formCheck .measure [c, g, n, f] = .badArgument 4)) ∧
  (∀ h l i m g n : Byte, stray g → formCheck .sweepStart [h, l, i, m, g, n] =
    .badArgument (if Config.lineOfBytes i m < Config.lineOfBytes h l then 1 else 3)) ∧
  (∀ h l k : Byte, Config.classOfByte k = none → formCheck .ticketOpen [h, l, k] = .badArgument 2) ∧
  (∀ (o h l f n : Byte) (p : WatchOp), Config.operationOfByte o = some p →
    (Config.filterOfByte f = some .station →
      formCheck .watchSet [o, h, l, f] = .badCount ∧
      formCheck .watchSet [o, h, l, f, n] = .fits (.watchSet (some p) (Config.lineOfBytes h l) (.station n.toNat))) ∧
    (∀ k g, (k, g) ∈ [(FilterName.any, FilterArg.any), (.own, .own), (.ownOperator, .ownOperator),
        (.ownAutomatic, .ownAutomatic)] → Config.filterOfByte f = some k →
      formCheck .watchSet [o, h, l, f, n] = .badCount ∧
      formCheck .watchSet [o, h, l, f] = .fits (.watchSet (some p) (Config.lineOfBytes h l) g)) ∧
    (Config.filterOfByte f = none → formCheck .watchSet [o, h, l, f] = .badArgument 3 ∧
      formCheck .watchSet [o, h, l, f, n] = .badArgument 3)) ∧
  (∀ o h l f : Byte, Config.operationOfByte o = none → Config.filterOfByte f ≠ some .station →
    formCheck .watchSet [o, h, l, f] = .badArgument 1) ∧
  (∀ a b c d : Byte, (¬ flag a → formCheck .setMask [a, b, c, d] = .badArgument 1) ∧
    (flag a → flag b → flag c → ¬ flag d → formCheck .setMask [a, b, c, d] = .badArgument 4)) ∧
  (∀ c : Byte, Config.channelOfByte c = none → formCheck .release [c] = .badArgument 1)

/-- Tier 2. A console command given whole (log entry 2): its row takes the same command as the byte path, in
EXPECT-COMMAND and in no other phase (R196, R198). -/
def Obligations.CommandRowsAreTakenInExpectCommandOnly : Prop :=
  (∀ (r : Request) (s : State), r ≠ .softReset → s.port.phase = .expectCommand →
    exec (rowOf r) s = .next (holdResult .result none (takeRequest r s).1 (takeRequest r s).2)) ∧
  (∀ (r : Request) (s : State), s.port.phase ≠ .expectCommand → exec (rowOf r) s = .next s)

/-- Tier 1. A result is its code, the count of the bytes that follow and those bytes, whatever the result: one count
byte, or two, most significant first, for every result of STATUS DETAIL, a refusal among them (R197; that a count is
kept to what its bytes can say is the model's choice, log entry 37). ACCEPTED's values go field by field in the order
of the record's table, shown for an event, a session and a ticket, and an absent field, record or detail is an absent
mark and not a zero (R197, R202, R21, R142; the shape of a list and of a row of several parts: log entry 51). The bytes
that the manual shows or that are none: ACCEPTED with no values or with a trunk, the position of BAD-ARGUMENT, the
station of LINE-HELD and NO-PEER, the block of NO-ROUTE and NO-TRUNK, and the codes with no detail (R201). Each read of
the data register in RESULT gives the next byte, the last one ends the phase; in every other phase it gives 0 and
changes nothing else (R197, R198). The byte read stands in the data register. -/
def Obligations.ResultIsCodeCountAndBytes : Prop :=
  (∀ (k : Option CommandName) (a : Answer), ∃ count body : List Byte,
    resultBytes k a = Config.resultCodeByte a.code :: (count ++ body) ∧
    (k = some .statusDetail ∨ (∃ r, a = .accepted (.status r)) →
      body = (payloadBytes a).take 65535 ∧
      count = [BitVec.ofNat 8 (body.length / 256), BitVec.ofNat 8 body.length]) ∧
    (k ≠ some .statusDetail → (∀ r, a ≠ .accepted (.status r)) →
      body = (payloadBytes a).take 255 ∧ count = [BitVec.ofNat 8 body.length])) ∧
  (∀ t : Trunk, payloadBytes (.accepted (.trunk t)) = [BitVec.ofNat 8 t.val]) ∧
  (∀ v, (∀ t, v ≠ .trunk t) → payloadBytes (.accepted v) = (answerFields v).flatMap Field.bytes) ∧
  (∀ t i j, (∀ v, Field.bytes ⟨t, i, j, some v⟩ = Config.fieldBytes t i j v) ∧
    Field.bytes ⟨t, i, j, none⟩ ≠ Config.fieldBytes t i j (.number 0)) ∧
  (∀ e : Event, e.deciding = none →
    (answerFields (.event e)).map (·.value) =
      [some (.eventKind e.kind), some (.number e.time), e.channel.map .channel, e.line.map fun n => .number n,
        e.trunk.map fun n => .number n.val, e.ticket.map fun n => .number n, e.station.map fun n => .number n,
        e.outcome.map .eventOutcome, e.linkCause.map .lostCause] ++
      (match e.counts with
        | none => [none]
        | some k => [some (.number k.1), some (.number k.2.1), some (.number k.2.2)]) ++
      [e.sessionEnd.map .sessionEnd, some (.number e.lostBefore)]) ∧
  (∀ r : SessionReport, r.lastResult = none →
    (answerFields (.session r)).map (·.value) =
      [some (.sessionState r.state), some (.purpose r.purpose), some (.number r.line.val), some (.number r.block.val),
        some (.number r.trunk.val), some (.flag r.forced), r.relayStep.map fun n => .number n,
        r.quietHeld.map fun n => .number n.val, r.deferredBy.map .holder, some (.flag r.cancelPending),
        r.linkedTicket.map fun n => .number n, some (.flag r.frozenAtClaim), none, some (.flag r.offHook)]) ∧
  (∀ t : Ticket, t.observations = [] → t.plan = none → t.handover = none → t.previousOwner = none →
    (answerFields (.ticket t)).map (·.value) =
      [some (.number t.number), some (.number t.line.val), some (.ticketState t.state), some (.cls t.cls),
        some (.number t.openedAt), some (.origin t.origin), some (.entries 0), none, some (.number t.streak),
        some (.flag t.announcePending), some (.flag t.noteTaken), some (.flag t.noteHeldBack), none, none]) ∧
  ((answerFields (.lastResult none)).map (·.value) = [none] ∧
    (answerFields (.blockEntry none)).map (·.value) = [none]) ∧
  (payloadBytes (.busy none) = absentMark (.detail .busy) 0 0 ∧
    payloadBytes (.automaticChannel none) = absentMark (.detail .automaticChannel) 0 0) ∧
  (∀ n : Nat, payloadBytes (.badArgument n) = [BitVec.ofNat 8 n]) ∧
  (∀ n : Station, payloadBytes (.lineHeld (.station n)) = [BitVec.ofNat 8 n] ∧
    payloadBytes (.noPeer n) = [BitVec.ofNat 8 n]) ∧
  (∀ b : Block, payloadBytes (.noRoute b) = [BitVec.ofNat 8 b.val] ∧
    payloadBytes (.noTrunk b) = [BitVec.ofNat 8 b.val]) ∧
  (∀ a ∈ [Answer.accepted .nothing, .badCommand, .notConfigured, .locked, .wrongState, .linkBusy, .storeFull, .noEvent],
    payloadBytes a = []) ∧
  (∀ (s : State) (b c : Byte) (rest : List Byte), s.port.phase = .result → s.port.result = b :: c :: rest →
    exec .resultByteRead s = .next { s with port := { s.port with dataRegister := b, result := c :: rest } }) ∧
  (∀ (s : State) (b : Byte), s.port.phase = .result → s.port.result = [b] →
    exec .resultByteRead s = .next { s with port := { s.port with
      dataRegister := b, phase := .expectCommand, command := none, remaining := 0, args := [], answer := none,
      result := [] } }) ∧
  (∀ s : State, s.port.phase ≠ .result →
    exec .resultByteRead s = .next { s with port := { s.port with dataRegister := 0 } })

/-- Tier 1, R199. A port clear returns the port to EXPECT-COMMAND from every phase except STARTING, discards the
command's bytes or the result, and touches nothing else. -/
def Obligations.PortClearReturnsThePortToExpectCommand : Prop :=
  (∀ (b : Byte) (s : State), s.port.phase ≠ .starting → exec (.portClear b) s = .next { s with port := { s.port with
    phase := .expectCommand, command := none, remaining := 0, args := [], answer := none, result := [] } }) ∧
  (∀ (b : Byte) (s : State), s.port.phase = .starting → exec (.portClear b) s = .next s)

/-- Tier 2. An event that is no completion takes a general slot while fewer than 30 are in use, else it is dropped
and counted up to 255; each event that enters takes the clock and the lost count, which returns to 0 (R204); a
completion takes its channel's free slot whatever the general ones hold, and clears BUSY (R38, R203, R205). TAKE EVENT
answers NO-EVENT on an empty queue and changes nothing; otherwise it removes the oldest record and answers it (R207).
-/
def Obligations.EventsEnterOrAreCountedAsLost : Prop :=
  (∀ (e : Event) (s : State), generalCount s.port.events < 30 → emit e s = { s with port := { s.port with
    events := s.port.events ++ [{ e with time := s.store.clock, lostBefore := s.port.lost }], lost := 0 } }) ∧
  (∀ (e : Event) (s : State), 30 ≤ generalCount s.port.events →
    emit e s = { s with port := { s.port with lost := min 255 (s.port.lost + 1) } }) ∧
  (∀ (c : Channel) (e : Event) (s : State), s.done c = false →
    complete c e s = ({ s with port := { s.port with
      events := s.port.events ++
        [{ e with channel := some c, time := s.store.clock, lostBefore := s.port.lost }]
      lost := 0 } }).setCommand c none ∧
    (e.kind.isCompletion = true → (complete c e s).done c = true)) ∧
  (∀ s : State, s.port.phase = .expectCommand → s.port.events = [] → Answers .takeEvent s .noEvent s) ∧
  (∀ (s : State) (e : Event) (rest : List Event), s.port.phase = .expectCommand → s.port.events = e :: rest →
    Answers .takeEvent s (.accepted (.event e)) { s with port := { s.port with events := rest } })

/-- Tier 1. SET MASK replaces the mask and answers it (R206). STATUS DETAIL, SESSION READ, RESULT READ, WATCH READ,
TICKET READ and TICKET LIST answer what stands, field by field, and change nothing (R44, R73, R109, R128, R159, R166,
R194, R209). -/
def Obligations.ReadingCommandsChangeNothing : Prop :=
  ∀ s : State, s.port.phase = .expectCommand →
    (∀ m, Answers (.setMask m) s (.accepted (.mask m)) { s with port := { s.port with mask := m } }) ∧
    Answers .statusDetail s (.accepted (.status {
      configured := s.store.configured, station := s.store.station, autoChannel := s.store.autoChannel
      lock := s.store.lock, link := s.link.state, cause := s.link.cause, linkError := s.link.linkError
      clash := s.link.clash, queued := s.link.queue.length, held := s.link.holding.length
      roster := s.roster.map fun p => ⟨p.station, s.now - p.lastHeard, p.joining, p.holdings,
        p.quiets.map fun q => (q.block, q.lapse - s.now)⟩
      trunks := s.store.trunks.toList.map fun e => ⟨e.condition, e.streak, e.declaredBy⟩
      quietA := ⟨s.chanA.quiet.phase, s.chanA.quiet.block, s.chanA.quiet.waitList⟩
      quietB := ⟨s.chanB.quiet.phase, s.chanB.quiet.block, s.chanB.quiet.waitList⟩
      run := s.auto.run, returnState := s.auto.returnState, freezeCause := s.auto.freezeCause
      item := s.auto.item.map fun i => ⟨i.purpose, i.line, i.ticket, i.outcome⟩
      sweep := s.auto.sweep, events := s.port.events.length, lost := s.port.lost, mask := s.port.mask
      clock := s.store.clock })) s ∧
    (∀ c,
      let x := (s.chan c).session
      Answers (.sessionRead (some c)) s (.accepted (.session {
        state := x.state, purpose := x.purpose, line := x.line, block := x.block, trunk := x.trunk
        forced := x.forced, relayStep := x.relayStep, quietHeld := x.quietHeld, deferredBy := x.deferredBy
        cancelPending := x.cancelPending, linkedTicket := x.linkedTicket, frozenAtClaim := x.frozenAtClaim
        lastResult := x.lastResult.map fun r => ⟨r.cls, r.deciding, r.noisy, r.partialMark, r.outcome⟩
        offHook := x.offHook })) s) ∧
    Answers (.sessionRead none) s (.badArgument 1) s ∧
    (∀ c, Answers (.resultRead (some c)) s (.accepted (.lastResult (s.chan c).session.lastResult)) s) ∧
    Answers (.resultRead none) s (.badArgument 1) s ∧
    Answers .watchRead s
      (.accepted (.watch s.watch.op s.watch.line s.watch.filter s.watch.capture s.watch.hits)) s ∧
    (∀ n t, s.ticketStore.byNumber n = some t → Answers (.ticketRead n) s (.accepted (.ticket t)) s) ∧
    (∀ n, s.ticketStore.byNumber n = none → Answers (.ticketRead n) s (.noTicket n) s) ∧
    Answers (.ticketList 0) s (.accepted (.ticketList ((s.ticketStore.tickets.take 12).map fun t =>
        ⟨t.number, t.line, t.state, t.cls, t.origin, t.plan.map (·.nextDue)⟩)
      (decide (12 < s.ticketStore.tickets.length)))) s ∧
    (∀ l t r, s.ticketStore.tickets = l ++ t :: r → t.number ≠ 0 → (∀ u ∈ l, u.number ≠ t.number) →
      Answers (.ticketList t.number) s
        (.accepted (.ticketList ((r.take 12).map fun t =>
          ⟨t.number, t.line, t.state, t.cls, t.origin, t.plan.map (·.nextDue)⟩) (decide (12 < r.length)))) s) ∧
    (∀ n, n ≠ 0 → s.ticketStore.byNumber n = none → Answers (.ticketList n) s (.noTicket n) s)

/-! ### The Configuration Store -/

/-- Tier 1, R19. UNLOCK is accepted when both session records are IDLE and the engine HALTED, and clears the lock and
nothing else; otherwise it is refused WRONG-STATE. -/
def Obligations.UnlockClearsTheLockOnly : Prop :=
  (∀ s : State, s.port.phase = .expectCommand → (∀ c, (s.chan c).session.state = .idle) → s.auto.run = .halted →
    Answers .unlock s (.accepted .nothing) { s with store := { s.store with lock := false } }) ∧
  (∀ s : State, s.port.phase = .expectCommand →
    ((∃ c, (s.chan c).session.state ≠ .idle) ∨ s.auto.run ≠ .halted) → Answers .unlock s .wrongState s)

/-- Tier 2. LOAD BLOCK: the lock before every argument, then block, trunk, length and session; the entry stored is
the list without later copies and the constants clamped, or the defaults of the short form, or absent; the answer is
that entry and nothing else changes (R3, R4). The list without later copies has no trunk twice, the same trunks, each
where its first copy stood. LOAD TRUNK: LOCKED, then BAD-ARGUMENT; accepted it stores both values clamped and answers
them; the condition, the streak and the declarer stay, whoever holds the trunk (R6). -/
def Obligations.LoadsStoreTheClampedValues : Prop :=
  (∀ s : State, s.port.phase = .expectCommand →
    (∀ n f, s.store.lock = true → Answers (.loadBlock n f) s .locked s) ∧
    (s.store.lock = false →
      (∀ n f, 64 ≤ n → Answers (.loadBlock n f) s (.badArgument 1) s) ∧
      (∀ (b : Block) (l : List Nat) (k : BlockConstants), (∃ n ∈ l, 16 ≤ n) ∨ l = [] ∨ 4 < l.length →
        Answers (.loadBlock b.val (.full l k)) s (.badArgument 2) s ∧
        Answers (.loadBlock b.val (.short l)) s (.badArgument 2) s) ∧
      (∀ (b : Block) (l : List Trunk) (k : BlockConstants), 1 ≤ l.length → l.length ≤ 4 →
        let full : BlockEntry := ⟨firstCopies l, clampNat 20 300 k.rpc, clampNat 30 80 k.cpk,
          clampNat 0 3 k.setupWait, clampNat 1 7 k.operateWait, clampNat 0 3 k.releaseGuard,
          clampNat 0 30000 k.minLength, clampNat 0 100 k.settlePerKm⟩
        let short : BlockEntry := ⟨firstCopies l, 137, 52, 1, 4, 1, 0, 25⟩
        (sessionOnBlock s b = true →
          Answers (.loadBlock b.val (.full (l.map (·.val)) k)) s (.busy none) s ∧
          Answers (.loadBlock b.val (.short (l.map (·.val)))) s (.busy none) s ∧
          Answers (.loadBlock b.val .remove) s (.busy none) s) ∧
        (sessionOnBlock s b = false →
          Answers (.loadBlock b.val (.full (l.map (·.val)) k)) s (.accepted (.blockEntry (some full)))
            { s with store := { s.store with blocks := s.store.blocks.set b.val (some full) } } ∧
          Answers (.loadBlock b.val (.short (l.map (·.val)))) s (.accepted (.blockEntry (some short)))
            { s with store := { s.store with blocks := s.store.blocks.set b.val (some short) } } ∧
          Answers (.loadBlock b.val .remove) s (.accepted (.blockEntry none))
            { s with store := { s.store with blocks := s.store.blocks.set b.val none } })))) ∧
  (∀ l, (firstCopies l).Nodup) ∧ (∀ l t, t ∈ firstCopies l ↔ t ∈ l) ∧ (∀ l, List.Sublist (firstCopies l) l) ∧
  (∀ l r t, t ∉ l →
    firstCopies (l ++ t :: r) = firstCopies l ++ t :: (firstCopies r).filter fun x => x ≠ t ∧ x ∉ l) ∧
  (∀ (s : State) (n r k : Nat), s.port.phase = .expectCommand →
    (s.store.lock = true → Answers (.loadTrunk n r k) s .locked s) ∧
    (s.store.lock = false → 16 ≤ n → Answers (.loadTrunk n r k) s (.badArgument 1) s) ∧
    (∀ t : Trunk, n = t.val → s.store.lock = false →
      let e := { s.store.trunks[t.val] with rtrunk := max 0 (min 400 r), ctrunk := max 0 (min 100 k) }
      Answers (.loadTrunk n r k) s (.accepted (.trunkValues (max 0 (min 400 r)) (max 0 (min 100 k))))
        { s with store := { s.store with trunks := s.store.trunks.set t.val e } }))

/-- Tier 1, R15. SET THRESHOLDS: LOCKED while the lock is set; otherwise every value is clamped to its range, all
seven are stored together and answered. -/
def Obligations.SetThresholdsClampsAllSeven : Prop :=
  ∀ (s : State) (t : Thresholds), s.port.phase = .expectCommand →
    (s.store.lock = true → Answers (.setThresholds t) s .locked s) ∧
    (s.store.lock = false →
      let u : Thresholds := ⟨max 1000 (min 200000 t.rshort), max 1000 (min 200000 t.rground),
        max 100000 (min 20000000 t.rinsul), max 1000 (min 60000 t.vdcLimit), max 1000 (min 60000 t.vacLimit),
        max 0 (min 30000 t.longLoop), max 4 (min 64 t.sampleCount)⟩
      Answers (.setThresholds t) s (.accepted (.thresholds u)) { s with store := { s.store with thresholds := u } })

/-- Tier 1. The office clock: 0 after a hardware reset, one up at each tick from the end of start-up on and through a
soft reset, staying at 4,294,967,295; SET CLOCK clamps and writes it in every state; a soft reset keeps it (R16). -/
def Obligations.OfficeClockCountsAndIsSet : Prop :=
  State.reset.store.clock = 0 ∧
  (∀ s : State, s.port.phase ≠ .starting ∨ s.softReset.isSome = true → exec .officeClockTick s =
    .next { s with store := { s.store with clock := min 4294967295 (s.store.clock + 1) } }) ∧
  (∀ s : State, s.port.phase = .starting → s.softReset = none → exec .officeClockTick s = .next s) ∧
  (∀ (s : State) (v : Nat), s.port.phase = .expectCommand → Answers (.setClock v) s (.accepted .nothing)
    { s with store := { s.store with clock := max 0 (min 4294967295 v) } }) ∧
  (∀ s t : State, exec .softReset s = .next t → t.store.clock = s.store.clock) ∧
  (∀ s t : State, exec .softResetEnd s = .next t → t.store.clock = s.store.clock)

/-- Tier 2. Trunk conditions (R8 to R13). TRUNK RESTORE: a number above 15 is BAD-ARGUMENT; else the trunk is
IN-SERVICE, streak 0, no declarer, and one that was OUT is announced restored in JOINING and ACTIVE; the lock does not
matter. What a confirm timeout and a confirm in time make of an entry. TRUNK-NOTICE taken: out makes the trunk OUT,
declared by the sender, restored makes it IN-SERVICE, both whatever it was. Only a change of condition queues
TRUNK-CONDITION. A trunk that goes OUT by a notice acts on the own claim that names it: one in the queue is re-routed,
or ends NO-TRUNK, or ends its item BLOCKED; one on the wire has a withdrawal pending; a pair held is kept (R12; what the
third timeout does: O26). -/
def Obligations.TrunkConditionsFollowTheirCauses : Prop :=
  (∀ s : State, s.port.phase = .expectCommand →
    (∀ n, 16 ≤ n → Answers (.trunkRestore n) s (.badArgument 1) s) ∧
    (∀ t : Trunk,
      let e := s.trunkEntry t
      let e' : TrunkEntry := { e with condition := .inService, streak := 0, declaredBy := none }
      let event : Event := { kind := .trunkCondition, line := some t.val, outcome := some (.trunk .inService) }
      (e.condition = .inService → Answers (.trunkRestore t.val) s (.accepted .nothing) (s.setTrunk t e')) ∧
      (e.condition = .suspect →
        Answers (.trunkRestore t.val) s (.accepted .nothing) (emit event (s.setTrunk t e'))) ∧
      (e.condition = .out → s.onLine = true → Answers (.trunkRestore t.val) s (.accepted .nothing)
        (emit event ((offerNotice (.trunkNotice t false) s).setTrunk t e'))) ∧
      (e.condition = .out → s.onLine = false →
        Answers (.trunkRestore t.val) s (.accepted .nothing) (emit event (s.setTrunk t e'))))) ∧
  (∀ e : TrunkEntry, e.condition = .inService → afterTimeout e = { e with condition := .suspect, streak := 1 }) ∧
  (∀ e : TrunkEntry, e.condition = .suspect → e.streak = 1 → afterTimeout e = { e with streak := 2 }) ∧
  (∀ e : TrunkEntry, e.condition = .suspect → e.streak = 2 →
    afterTimeout e = { e with condition := .out, streak := 3, declaredBy := some .self }) ∧
  (∀ e : TrunkEntry, e.condition = .out → afterTimeout e = { e with streak := min 3 (e.streak + 1) }) ∧
  (∀ (t : Trunk) (s : State), (s.trunkEntry t).condition = .suspect → creditConfirm t s =
    emit { kind := .trunkCondition, line := some t.val, outcome := some (.trunk .inService),
           station := match (s.trunkEntry t).declaredBy with | some (.station n) => some n | _ => none }
      (s.setTrunk t { s.trunkEntry t with condition := .inService, streak := 0 })) ∧
  (∀ (t : Trunk) (s : State), (s.trunkEntry t).condition ≠ .suspect →
    creditConfirm t s = s.setTrunk t { s.trunkEntry t with streak := 0 }) ∧
  (∀ (t : Trunk) (e : TrunkEntry) (s : State), (s.trunkEntry t).condition = e.condition →
    changeTrunk t e s = s.setTrunk t e) ∧
  (∀ (s : State) (n : Station) (t : Trunk), Heard s n (.trunkNotice t true) → ∃ u,
    exec (.trunkNoticeTaken n t true) s = .next u ∧
    u.trunkEntry t = { s.trunkEntry t with condition := .out, declaredBy := some (.station n) } ∧
    (∀ k, k ≠ t → u.trunkEntry k = s.trunkEntry k) ∧
    ((s.trunkEntry t).condition = .out →
      u.port = s.port ∧ u.chanA = s.chanA ∧ u.chanB = s.chanB ∧ u.link = s.answered.link) ∧
    ((s.trunkEntry t).condition ≠ .out →
      (∀ c, (s.chan c).claim.stage = .none ∨ (s.chan c).claim.stage = .held ∨ (s.chan c).session.trunk ≠ t) →
      generalCount s.port.events < 30 →
      u.port = portWith { kind := .trunkCondition, line := some t.val, outcome := some (.trunk .out),
                          station := some n } s ∧
      u.chanA = s.chanA ∧ u.chanB = s.chanB ∧ u.link = s.answered.link)) ∧
  (∀ (s : State) (n : Station) (t : Trunk) (c : Channel), Heard s n (.trunkNotice t true) →
    (s.trunkEntry t).condition ≠ .out → (s.chan c).session.trunk = t →
    (s.chan c.other).session.trunk ≠ t ∨ (s.chan c.other).claim.stage = .none ∨
      (s.chan c.other).claim.stage = .held →
    let v := emit { kind := .trunkCondition, line := some t.val, outcome := some (.trunk .out), station := some n }
      ((s.heard n).setTrunk t { s.trunkEntry t with condition := .out, declaredBy := some (.station n) })
    ((s.chan c).claim.stage = .none ∨ (s.chan c).claim.stage = .held →
      exec (.trunkNoticeTaken n t true) s = .next v) ∧
    ((s.chan c).claim.stage = .onWire → exec (.trunkNoticeTaken n t true) s = .next
      (v.updClaim c fun k => { k with withdrawal := some (k.withdrawal.getD .trunk) })) ∧
    (∀ f, (s.chan c).claim.stage = .queued → s.link.claimFrame c = some f →
      ∃ u, exec (.trunkNoticeTaken n t true) s = .next u ∧ ClaimWithdrawn v c f (some n) u)) ∧
  (∀ (s : State) (n : Station) (t : Trunk), Heard s n (.trunkNotice t false) → ∃ u,
    exec (.trunkNoticeTaken n t false) s = .next u ∧
    u.trunkEntry t = { s.trunkEntry t with condition := .inService, streak := 0, declaredBy := none } ∧
    (∀ k, k ≠ t → u.trunkEntry k = s.trunkEntry k) ∧ u.chanA = s.chanA ∧ u.chanB = s.chanB ∧
    u.link = s.answered.link ∧
    ((s.trunkEntry t).condition = .inService → u.port = s.port) ∧
    ((s.trunkEntry t).condition ≠ .inService → generalCount s.port.events < 30 →
      u.port = portWith { kind := .trunkCondition, line := some t.val, outcome := some (.trunk .inService) } s))

/-- Tier 2. Route choice: NO-ROUTE for an absent block; else the first IN-SERVICE trunk of its list that neither the
view nor an own session holds, else the first such SUSPECT one, else NO-TRUNK (R1, R7). -/
def Obligations.RouteChoiceTakesTheFirstFreeTrunk : Prop :=
  ∀ (s : State) (l : Line),
    (blockOf l).val = l.val / 1024 ∧
    (chooseRoute s l = .noRoute ↔ s.blockEntry (blockOf l) = none) ∧
    (∀ e, s.blockEntry (blockOf l) = some e →
      let free := fun (k : TrunkCondition) (t : Trunk) =>
        (s.trunkEntry t).condition = k ∧ (∀ p ∈ s.roster, ∀ h ∈ p.holdings, h.trunk ≠ t) ∧
        (∀ c, (s.chan c).session.state ≠ .idle → (s.chan c).session.trunk ≠ t)
      (∀ t, chooseRoute s l = .trunk t →
        (∃ pre post, e.trunks = pre ++ t :: post ∧ free .inService t ∧ ∀ u ∈ pre, ¬ free .inService u) ∨
        ((∀ u ∈ e.trunks, ¬ free .inService u) ∧
          ∃ pre post, e.trunks = pre ++ t :: post ∧ free .suspect t ∧ ∀ u ∈ pre, ¬ free .suspect u)) ∧
      (chooseRoute s l = .noTrunk ↔ ∀ u ∈ e.trunks, ¬ free .inService u ∧ ¬ free .suspect u))

/-- Tier 2. CONFIGURE: its four checks in order (R208). Accepted, the store is CONFIGURED with the number, the channel
and the lock given, the engine is HALTED with no item and its sweep kept, and the link is JOINING, or MUTE when a
station in MUTE keeps its number; the block map, the trunk table, the thresholds, the clock, the tickets' numbers and
lines, the mask and the watch stay (R88, R185, R208). -/
def Obligations.ConfigureJoinsTheLine : Prop :=
  (∀ (s : State) (n : Nat) (a : AutoChannelArg) (l : Bool), s.port.phase = .expectCommand →
    (stationOk n = false → Answers (.configure n a l) s (.badArgument 1) s) ∧
    (stationOk n = true → a = .other → Answers (.configure n a l) s (.badArgument 2) s) ∧
    (stationOk n = true → a ≠ .other → s.store.lock = true → Answers (.configure n a l) s .locked s) ∧
    (stationOk n = true → a ≠ .other → s.store.lock = false → (∃ c, (s.chan c).session.state ≠ .idle) →
      Answers (.configure n a l) s .wrongState s)) ∧
  (∀ (s : State) (n : Nat) (a : Option Channel) (l : Bool), s.port.phase = .expectCommand → stationOk n = true →
    s.store.lock = false → (∀ c, (s.chan c).session.state = .idle) →
    ∃ u, Answers (.configure n (match a with | some c => .channel c | none => .none) l) s
        (.accepted (.linkState u.link.state)) u ∧
      u.store = { s.store with configured := true, station := some n, autoChannel := a, lock := l } ∧
      u.auto = { s.auto with
        run := .halted, returnState := none, freezeCause := none, item := none, waitingForRoom := false } ∧
      u.link.state = (if s.link.state = .mute ∧ s.store.station = some n then .mute else .joining) ∧
      (s.link.state ≠ .off → s.link.state ≠ .mute → u.roster = [] ∧ u.ticketStore.index = []) ∧
      u.ticketStore.tickets.map (fun t => (t.number, t.line)) =
        s.ticketStore.tickets.map (fun t => (t.number, t.line)) ∧
      u.port.mask = s.port.mask ∧ u.watch = s.watch ∧ u.pending = s.pending)

/-! ### Sessions -/

/-- Tier 2. ACCESS is refused by the first check that fails, in the order of R23 and R114, and then changes nothing:
a bad channel, UNCONFIGURED, BUSY or DONE, a session, the automatic channel with the engine at work, the link, the
line held in the view (the lowest station named) or by the other session, the route, the room. That room is not
lessened by frames that wait is the model's reading (log entry 16). -/
def Obligations.AccessIsRefusedByItsFirstFailedCheck : Prop :=
  ∀ (s : State) (l : Line) (force : Bool), s.port.phase = .expectCommand →
    Answers (.access none l force) s (.badArgument 1) s ∧ ∀ c : Channel,
    (s.store.configured = false → Answers (.access (some c) l force) s .notConfigured s) ∧
    (s.store.configured = true →
      (s.busy c = true ∨ s.done c = true → Answers (.access (some c) l force) s (.busy (some c)) s) ∧
      (s.busy c = false → s.done c = false →
        ((s.chan c).session.state ≠ .idle → Answers (.access (some c) l force) s (.channelInUse c) s) ∧
        ((s.chan c).session.state = .idle →
          (s.store.autoChannel = some c → s.auto.run ≠ .halted →
            Answers (.access (some c) l force) s (.automaticChannel (some c)) s) ∧
          ((s.store.autoChannel = some c → s.auto.run = .halted) →
            (s.link.state ≠ .active → Answers (.access (some c) l force) s (.linkDown s.link.state) s) ∧
            (s.link.state = .active →
              (∀ pre p post, s.roster = pre ++ p :: post → (∃ h ∈ p.holdings, h.line = l) →
                (∀ q ∈ pre, ∀ h ∈ q.holdings, h.line ≠ l) →
                Answers (.access (some c) l force) s (.lineHeld (.station p.station)) s) ∧
              ((∀ p ∈ s.roster, ∀ h ∈ p.holdings, h.line ≠ l) →
                ((s.chan c.other).session.state ≠ .idle → (s.chan c.other).session.line = l →
                  Answers (.access (some c) l force) s (.lineHeld .own) s) ∧
                ((s.chan c.other).session.state = .idle ∨ (s.chan c.other).session.line ≠ l →
                  (chooseRoute s l = .noRoute → Answers (.access (some c) l force) s (.noRoute (blockOf l)) s) ∧
                  (chooseRoute s l = .noTrunk → Answers (.access (some c) l force) s (.noTrunk (blockOf l)) s) ∧
                  (∀ t, chooseRoute s l = .trunk t →
                    8 ≤ lowCount s.link.queue ∨ 12 ≤ s.link.queue.length ∨ s.link.waiting ≠ [] →
                    Answers (.access (some c) l force) s .linkBusy s))))))))

/-- Tier 2. ACCESS that passes every check begins the session: the record, the CLAIM at the end of the queue, BUSY;
the answer carries the trunk (R23, R115). The other channel and every other block stay as they are. -/
def Obligations.AccessBeginsTheSession : Prop :=
  ∀ (s : State) (c : Channel) (l : Line) (force : Bool) (t : Trunk), s.port.phase = .expectCommand →
    s.store.configured = true → s.busy c = false → s.done c = false → (s.chan c).session.state = .idle →
    (s.store.autoChannel = some c → s.auto.run = .halted) → s.link.state = .active →
    (∀ p ∈ s.roster, ∀ h ∈ p.holdings, h.line ≠ l) →
    ((s.chan c.other).session.state = .idle ∨ (s.chan c.other).session.line ≠ l) → chooseRoute s l = .trunk t →
    lowCount s.link.queue < 8 → s.link.queue.length < 12 → s.link.waiting = [] →
    ∃ u, Answers (.access (some c) l force) s (.accepted (.trunk t)) u ∧
      (u.chan c).session = { (s.chan c).session with
        state := .claiming, purpose := .operator, line := l, block := blockOf l, trunk := t, forced := force,
        linkedTicket := none, lastResult := none } ∧
      (u.chan c).claim.stage = .queued ∧ (u.chan c).claim.withdrawal = none ∧ u.busy c = true ∧
      (u.chan c).command = some .access ∧
      u.link = { s.link with
        queue := s.link.queue ++ [⟨.built (.claim l t .operator c), 1, 1, s.link.nextEntry, 0, 0, false, some c⟩]
        nextEntry := s.link.nextEntry + 1 } ∧
      (u.chan c).engine = (s.chan c).engine ∧ (u.chan c).quiet = (s.chan c).quiet ∧
      (u.chan c).seq.drives = (s.chan c).seq.drives ∧ u.chan c.other = s.chan c.other ∧ u.store = s.store ∧
      u.roster = s.roster ∧ u.ticketStore = s.ticketStore ∧ u.auto = s.auto ∧ u.watch = s.watch ∧ u.port = s.port

/-- Tier 2. RELEASE: its five checks in order (R35). Accepted, BUSY is set and the session is RELEASING with relay
step 5, the cut-off restored first (R31); where no quiet meets it, nothing is sent. -/
def Obligations.ReleaseBeginsTheReleaseSequence : Prop :=
  ∀ s : State, s.port.phase = .expectCommand →
    Answers (.release none) s (.badArgument 1) s ∧ ∀ c : Channel,
    ((s.chan c).session.state = .idle → Answers (.release (some c)) s (.noSession c) s) ∧
    ((s.chan c).session.state ≠ .idle →
      ((s.chan c).session.purpose ≠ .operator →
        Answers (.release (some c)) s (.automaticChannel s.store.autoChannel) s) ∧
      ((s.chan c).session.purpose = .operator →
        (s.busy c = true ∨ s.done c = true → Answers (.release (some c)) s (.busy (some c)) s) ∧
        (s.busy c = false → s.done c = false →
          ((s.chan c).session.state ≠ .connected → Answers (.release (some c)) s .wrongState s) ∧
          ((s.chan c).session.state = .connected → ∃ u, Answers (.release (some c)) s (.accepted .nothing) u ∧
            (u.chan c).session = { (s.chan c).session with state := .releasing, relayStep := some 5 } ∧
            u.busy c = true ∧ (u.chan c).command = some .release ∧
            (u.chan c).seq.releasing = some .cutOff ∧
            (u.chan c).seq.waitEnd = some (s.now + s.operateTime (s.chan c).session.block) ∧
            (u.chan c).seq.drives = { (s.chan c).seq.drives with cutOffTest := false, released := [.cutOff] } ∧
            (quietHolder s (s.chan c).session.block = none →
              u.link = s.link ∧ u.ticketStore = s.ticketStore ∧ u.auto = s.auto ∧ u.port = s.port) ∧
            (u.chan c.other).session = (s.chan c.other).session ∧ (u.chan c).engine = (s.chan c).engine ∧
            u.store = s.store ∧ u.roster = s.roster ∧ u.watch = s.watch))))

/-- Tier 2. CANCEL: its three checks in order; of a RELEASE, or of an ACCESS whose outcome is fixed, it changes
nothing (of one already CANCELLED by the model's reading: log entry 13, DEDUCED); in CLAIMING off the wire it removes
the CLAIM and completes the ACCESS at once, on the wire it leaves cancel pending; a held session goes to CLOSING or
RELEASING with outcome CANCELLED, and its deferred by stays (R21, R36, R37). -/
def Obligations.CancelReversesTheAccess : Prop :=
  ∀ s : State, s.port.phase = .expectCommand →
    Answers (.cancel none) s (.badArgument 1) s ∧ ∀ c : Channel,
    ((s.chan c).session.isAutomatic = true →
      Answers (.cancel (some c)) s (.automaticChannel s.store.autoChannel) s) ∧
    ((s.chan c).session.isAutomatic = false →
      ((s.chan c).command = none → Answers (.cancel (some c)) s .wrongState s) ∧
      ((s.chan c).command = some .release → Answers (.cancel (some c)) s (.accepted .nothing) s) ∧
      ((s.chan c).command = some .access →
        ((s.chan c).seq.outcome.isSome = true → Answers (.cancel (some c)) s (.accepted .nothing) s) ∧
        ((s.chan c).seq.outcome = none →
          (∀ f, (s.chan c).session.state = .claiming → (s.chan c).session.purpose = .operator →
            s.link.claimFrame c = some f → s.link.onWire f = false → s.done c = false →
            ∃ u, Answers (.cancel (some c)) s (.accepted .nothing) u ∧
              (u.chan c).session.state = .idle ∧ (u.chan c).claim.stage = .none ∧ u.busy c = false ∧
              u.link.queue = s.link.queue.filter (·.entry != f.entry) ∧
              u.port.events = s.port.events ++
                [{ kind := .accessDone, time := s.store.clock, channel := some c,
                   line := some (s.chan c).session.line.val, trunk := some (s.chan c).session.trunk,
                   outcome := some (.channel .cancelled), lostBefore := s.port.lost }]) ∧
          (∀ f, (s.chan c).session.state = .claiming → s.link.claimFrame c = some f → s.link.onWire f = true →
            ∃ u, Answers (.cancel (some c)) s (.accepted .nothing) u ∧
              (u.chan c).session = { (s.chan c).session with cancelPending := true } ∧
              (u.chan c).command = some .access ∧ u.link = s.link ∧ u.port = s.port) ∧
          ((s.chan c).session.state = .claimed ∨
            ((s.chan c).session.state = .deferred ∧ (s.chan c).session.relayStep = none) →
            ∃ u, Answers (.cancel (some c)) s (.accepted .nothing) u ∧
              (u.chan c).session = { (s.chan c).session with state := .closing } ∧
              (u.chan c).seq.outcome = some .cancelled ∧
              (u.chan c).command = some .access ∧ (u.chan c).seq.drives = (s.chan c).seq.drives) ∧
          (∀ n, (s.chan c).session.state = .connecting ∨ (s.chan c).session.state = .deferred →
            (s.chan c).session.relayStep = some n →
            ∃ u, Answers (.cancel (some c)) s (.accepted .nothing) u ∧
              (u.chan c).session = { (s.chan c).session with state := .releasing } ∧
              (u.chan c).seq.outcome = some .cancelled ∧ (u.chan c).command = some .access ∧
              (u.chan c).seq.releasing =
                some (if n = 5 then .cutOff else if 3 ≤ n then .testRelay else .selector)))))

/-- Tier 2. MEASURE: its checks in order; accepted, the count used is answered, the session is MEASURING and BUSY; a
measurement that needs no quiet sends its first request, the FV of T-G or the HIGH range of T-R; one that does enters
QUIET-WAIT and its quiet record PENDING with the limit time 1,500 ms on (R48, R49, R52, R56, R129). That such a record
queues no QUIET in this step, though R129 tests its two conditions as the request is made, and waits for its row
QUIET_REQUEST_QUEUED where the block is free and there is room, is the model's choice (log entry 41). -/
def Obligations.MeasureIsCheckedAndStarts : Prop :=
  ∀ (s : State) (g : StageSet) (n : SampleArg) (ticket : Bool), s.port.phase = .expectCommand →
    Answers (.measure none g n ticket) s (.badArgument 1) s ∧ ∀ c : Channel,
    (g.isEmpty = true → Answers (.measure (some c) g n ticket) s (.badArgument 2) s) ∧
    (g.isEmpty = false →
      ((s.chan c).session.state = .idle → Answers (.measure (some c) g n ticket) s (.noSession c) s) ∧
      ((s.chan c).session.state ≠ .idle → (s.chan c).session.purpose ≠ .operator →
        Answers (.measure (some c) g n ticket) s (.automaticChannel s.store.autoChannel) s) ∧
      ((s.chan c).session.state ≠ .idle → (s.chan c).session.purpose = .operator →
        (s.busy c = true ∨ s.done c = true → Answers (.measure (some c) g n ticket) s (.busy (some c)) s) ∧
        (s.busy c = false → s.done c = false →
          ((s.chan c).session.state ≠ .connected → Answers (.measure (some c) g n ticket) s .wrongState s) ∧
          ((s.chan c).session.state = .connected →
            let used := max 4 (min 64 (if n.val = 0 then s.store.thresholds.sampleCount else n.val))
            ∃ u, Answers (.measure (some c) g n ticket) s (.accepted (.sampleCount used)) u ∧
              (u.chan c).session = { (s.chan c).session with state := .measuring } ∧
              (u.chan c).command = some .measure ∧ (u.chan c).engine.ticketFlag = ticket ∧
              (∃ r, (u.chan c).engine.record = some r ∧ r.stages = g ∧ r.n = used ∧ r.outcome = none ∧
                r.noisy = false ∧ r.cls = none) ∧
              (g.cap = false → g.resTG = false → g.resRG = false →
                (u.chan c).engine.phase = .running ∧ (u.chan c).quiet = (s.chan c).quiet ∧
                (u.chan c).engine.request = some
                  (if g.fv then ⟨.fv .tg, 20, 40, s.now⟩ else ⟨.range .tr .high, 40, used, s.now⟩)) ∧
              (g.cap = true ∨ g.resTG = true ∨ g.resRG = true →
                (u.chan c).engine.phase = .quietWait ∧ (u.chan c).engine.request = none ∧
                ((s.chan c).quiet.phase = .none → (u.chan c).quiet.phase = .pending ∧
                  (u.chan c).quiet.block = some (s.chan c).session.block ∧
                  (u.chan c).quiet.limitTime = some (s.now + 1500))) ∧
              u.chan c.other = s.chan c.other ∧ u.link = s.link ∧ u.store = s.store ∧ u.port = s.port))))

/-- Tier 2. The rows of the connect sequence's timers and lines (R24, R26, R27): step 2 follows step 1 with its setup
wait counted from there, a wait of 0 ending as it begins; an operate step ends when its wait has elapsed and its
confirm has been taken, whichever comes last, step 3 in step 4 and step 5 in CONNECTED; a confirm under hold is held
back, and taken when hold clears while it still stands; the lines are recorded. The go rule at the end of the setup
wait: a session whose block is quieted, in the view or by the other channel's own quiet, is DEFERRED by the holder and
keeps its selector; otherwise step 3 begins with the monitor drive, its operate wait and its 400 ms. That an operate
step begins with its confirm not taken, whatever the confirm line shows, and that hold clearing takes no confirm but
one held back, is the model's choice (log entry 43). -/
def Obligations.ConnectStepsFollowTheGoRuleTimersAndLines : Prop :=
  (∀ (s : State) (c : Channel) (k : Nat), (s.chan c).session.state = .connecting →
    (s.chan c).session.relayStep = some 1 → s.setupTime (s.chan c).session.block = k + 1 →
    exec (.step1End c) s = .next ((s.updSession c fun x => { x with relayStep := some 2 }).updSeq c fun q =>
      { q with waitEnd := some (s.now + (k + 1)) })) ∧
  (∀ (s : State) (c : Channel), (s.chan c).session.state = .connecting → (s.chan c).session.relayStep = some 1 →
    s.setupTime (s.chan c).session.block = 0 → exec (.step1End c) s = exec (.setupWaitEnd c)
      ((s.updSession c fun x => { x with relayStep := some 2 }).updSeq c fun q =>
        { q with waitEnd := some s.now })) ∧
  (∀ (s : State) (c : Channel) (n : Nat), (s.chan c).session.state = .connecting →
    (s.chan c).session.relayStep = some n → n = 3 ∨ n = 5 →
    ((s.chan c).seq.operateElapsed = false → (s.chan c).seq.confirmTaken = false →
      exec (.operateWaitEnd c) s = .next (s.updSeq c fun q => { q with operateElapsed := true, waitEnd := none })) ∧
    let ends := fun t : State =>
      (n = 3 → (t.chan c).session = { (s.chan c).session with relayStep := some 4 } ∧
        (t.chan c).seq.waitEnd = some (s.now + 60) ∧ (t.chan c).seq.inUse = (s.chan c).pins.loopClosed) ∧
      (n = 5 → (s.chan c).session.purpose = .operator → (t.chan c).session.state = .connected ∧
        (t.chan c).session.relayStep = some 5 ∧ t.busy c = false)
    ((s.chan c).seq.operateElapsed = false → (s.chan c).seq.confirmTaken = true →
      ∃ t, exec (.operateWaitEnd c) s = .next t ∧ ends t) ∧
    ((s.chan c).seq.confirmTaken = false → (s.chan c).pins.hold = true → exec (.confirmShown c) s = .next
      ((s.updPins c fun p => { p with confirm := true }).updSeq c fun q => { q with confirmHeldBack := true })) ∧
    ((s.chan c).seq.confirmTaken = false → (s.chan c).pins.hold = false → (s.chan c).seq.operateElapsed = false →
      ∃ t, exec (.confirmShown c) s = .next t ∧ (t.chan c).seq.confirmTaken = true ∧
        (t.chan c).seq.confirmLimit = none ∧ (t.chan c).session = (s.chan c).session ∧
        (t.trunkEntry (s.chan c).session.trunk).streak = 0) ∧
    ((s.chan c).seq.confirmTaken = false → (s.chan c).pins.hold = false → (s.chan c).seq.operateElapsed = true →
      ∃ t, exec (.confirmShown c) s = .next t ∧ (t.trunkEntry (s.chan c).session.trunk).streak = 0 ∧ ends t) ∧
    ((s.chan c).seq.confirmTaken = false → (s.chan c).seq.confirmHeldBack = true → (s.chan c).pins.confirm = true →
      (s.chan c).seq.operateElapsed = true →
      ∃ t, exec (.holdClear c) s = .next t ∧ (t.chan c).pins.hold = false ∧
        (t.trunkEntry (s.chan c).session.trunk).streak = 0 ∧ ends t)) ∧
  (∀ (s : State) (c : Channel), (s.chan c).session.state ≠ .connecting → (s.chan c).seq.abandoned = none →
    exec (.confirmShown c) s = .next (s.updPins c fun p => { p with confirm := true })) ∧
  (∀ (s : State) (c : Channel), (s.chan c).seq.confirmHeldBack = false →
    exec (.holdClear c) s = .next (s.updPins c fun p => { p with hold := false })) ∧
  (∀ (s : State) (c : Channel), exec (.holdSet c) s = .next (s.updPins c fun p => { p with hold := true })) ∧
  (∀ (s : State) (c : Channel), exec (.confirmNoLongerShown c) s = .next
    ((s.updPins c fun p => { p with confirm := false }).updSeq c fun q => { q with confirmHeldBack := false })) ∧
  (∀ (s : State) (c : Channel), (s.chan c).session.state = .connecting → (s.chan c).session.relayStep = some 2 →
      let b := (s.chan c).session.block
      (∀ h, quietedBy s c b = some h → ∃ t, exec (.setupWaitEnd c) s = .next t ∧
        (t.chan c).session = { (s.chan c).session with state := .deferred, deferredBy := some h } ∧
        (t.chan c).seq.drives = (s.chan c).seq.drives ∧ (t.chan c).seq.waitEnd = none ∧
        t.chan c.other = s.chan c.other ∧ t.link = s.link ∧ t.port = s.port) ∧
      (quietedBy s c b = none → (s.chan c).session.frozenAtClaim = false → ∃ t, exec (.setupWaitEnd c) s = .next t ∧
        (t.chan c).session = { (s.chan c).session with state := .connecting, relayStep := some 3, deferredBy := none } ∧
        (t.chan c).seq.drives = { (s.chan c).seq.drives with monitor := true, released := [] } ∧
        (t.chan c).seq.waitEnd = some (s.now + s.operateTime b) ∧
        (t.chan c).seq.confirmLimit = some (s.now + 400) ∧ (t.chan c).seq.confirmTaken = false ∧
        (t.chan c).seq.operateElapsed = false ∧ (t.chan c).seq.abandoned = none ∧
        t.chan c.other = s.chan c.other ∧ t.link = s.link ∧ t.port = s.port) ∧
      (quietedBy s c b = none ↔
        (∀ p ∈ s.roster, ∀ q ∈ p.quiets, q.block ≠ b) ∧
        ¬ (((s.chan c.other).quiet.phase = .settling ∨ (s.chan c.other).quiet.phase = .held ∨
          (s.chan c.other).quiet.phase = .ending) ∧ (s.chan c.other).quiet.block = some b)))

/-- Tier 2. The end of step 5, by its operate wait, its confirm or hold clearing over a confirm, whichever comes last:
the session is CONNECTED, off-hook as the loop stands, and a QUIET-CLEAR is queued for each clear it owes, in their
order (R27, R30, R135). An operator session's ACCESS-DONE carries CONNECTED, BUSY clears, and a closed loop queues
OFF-HOOK behind it (R30, R38). An automatic one goes on to its item's measurement, or yields on a closed loop (R30,
R34). -/
def Obligations.StepFiveEndsInConnected : Prop :=
  ∀ (s : State) (c : Channel) (i : Instr), (s.chan c).session.state = .connecting →
    (s.chan c).session.relayStep = some 5 →
    (i = .operateWaitEnd c ∧ (s.chan c).seq.operateElapsed = false ∧ (s.chan c).seq.confirmTaken = true) ∨
      ((s.chan c).seq.operateElapsed = true ∧ (s.chan c).seq.confirmTaken = false ∧
        (i = .confirmShown c ∧ (s.chan c).pins.hold = false ∨
          i = .holdClear c ∧ (s.chan c).seq.confirmHeldBack = true ∧ (s.chan c).pins.confirm = true)) →
    let owed := (s.chan c).clears.filter fun k => !k.clearQueued
    let closed := (s.chan c).pins.loopClosed
    ∃ t, exec i s = .next t ∧
      ((s.chan c).session.purpose = .operator ∨ closed = false →
        (t.chan c).clears = (s.chan c).clears.map fun k => { k with clearQueued := true }) ∧
      ((s.chan c).session.purpose = .operator →
        (t.chan c).session = { (s.chan c).session with state := .connected, offHook := closed } ∧
        t.busy c = false ∧ (t.chan c).seq.drives = (s.chan c).seq.drives ∧
        (t.chan c.other).session = (s.chan c.other).session ∧
        (owed = [] → t.link = s.link) ∧
        (owed = [] ∨ s.link.waiting = [] ∧ s.link.queue.length + owed.length ≤ 12 →
          t.link.queue.map (·.body) = s.link.queue.map (·.body) ++
            owed.map (fun k => .built (.quietClear k.block k.requester)) ∧
          (s.done c = false → (s.trunkEntry (s.chan c).session.trunk).condition ≠ .suspect →
            closed = false ∨ generalCount s.port.events < 30 →
            t.port.events = s.port.events ++
              [{ kind := .accessDone, time := s.store.clock, channel := some c,
                 line := some (s.chan c).session.line.val, trunk := some (s.chan c).session.trunk,
                 outcome := some (.channel .connected), lostBefore := s.port.lost }] ++
              if closed then [{ kind := .offHook, time := s.store.clock, channel := some c,
                                line := some (s.chan c).session.line.val }] else []))) ∧
      ((s.chan c).session.purpose ≠ .operator →
        (closed = false → ∀ j, s.auto.item = some j → (t.chan c).session.state = .measuring ∧
          (t.chan c).session.offHook = false ∧
          ∃ r, (t.chan c).engine.record = some r ∧ r.stages = j.stages ∧
            r.n = max 4 (min 64 (if j.n.val = 0 then s.store.thresholds.sampleCount else j.n.val)) ∧
            r.outcome = none) ∧
        (closed = true → (t.chan c).session.state = .releasing ∧ (t.chan c).session.relayStep = some 5 ∧
          (t.chan c).session.offHook = true ∧ (t.chan c).seq.releasing = some .cutOff))

/-- Tier 2. A confirm timeout (R9, R12, R28, R33): the operate is abandoned and named for late confirms, the trunk
charged, the session RELEASING with outcome ACCESS-TIMEOUT, from the test relay after step 3, from the cut-off after
step 5 (a connecting session's claim is HELD: R112). A timeout that leaves the condition queues no frame and no event;
the first one's SUSPECT queues TRUNK-CONDITION; the third one's OUT queues TRUNK-NOTICE (out), in JOINING and ACTIVE
only, and TRUNK-CONDITION, and an own claim of the other channel that names the trunk is withdrawn as by a notice, with
no station (two own sessions on one trunk, which R7 forbids, are told too). The block of these clauses is not quieted in
the view: a foreign quiet would be answered QUIET-BUSY (R134, O40). A confirm that comes then is late: a release drive
and a LATE-CONFIRM, no session and no trunk changed. -/
def Obligations.ConfirmTimeoutAbandonsTheOperate : Prop :=
  (∀ (s : State) (c : Channel) (n : Nat), (s.chan c).session.state = .connecting →
    (s.chan c).session.relayStep = some n → n = 3 ∨ n = 5 → (s.chan c).seq.confirmTaken = false →
    (s.chan c).seq.outcome = none → (s.chan c).claim.stage = .held →
    ∃ t, exec (.confirmTimeout c) s = .next t ∧ (t.chan c).session.state = .releasing ∧
      (t.chan c).session.relayStep = some n ∧ (t.chan c).seq.outcome = some .accessTimeout ∧
      (t.chan c).seq.abandoned = some ⟨n, (s.chan c).session.line, (s.chan c).session.trunk⟩ ∧
      (t.chan c).seq.confirmLimit = none ∧
      (t.chan c).seq.releasing = some (if n = 5 then .cutOff else .testRelay) ∧
      t.trunkEntry (s.chan c).session.trunk = afterTimeout (s.trunkEntry (s.chan c).session.trunk)) ∧
  (∀ (s : State) (c : Channel) (n : Nat), (s.chan c).session.state = .connecting →
    (s.chan c).session.relayStep = some n → n = 3 ∨ n = 5 → (s.chan c).seq.confirmTaken = false →
    (s.chan c).session.purpose = .operator → (s.chan c).claim.stage = .held →
    quietHolder s (s.chan c).session.block = none →
    let k := (s.chan c).session.trunk
    let e := s.trunkEntry k
    let r := s.chan c.other
    let kept := fun t : State => (t.chan c.other).session = r.session ∧ (t.chan c.other).claim = r.claim
    ∃ t, exec (.confirmTimeout c) s = .next t ∧
      ((afterTimeout e).condition = e.condition → t.link = s.link ∧ t.port = s.port ∧ kept t) ∧
      (e.condition = .inService → e.declaredBy = none → generalCount s.port.events < 30 → t.link = s.link ∧ kept t ∧
        t.port = portWith { kind := .trunkCondition, line := some k.val, outcome := some (.trunk .suspect) } s) ∧
      (e.condition = .suspect → e.streak = 2 → s.onLine = false ∨ NoticeRoom s →
        let l := if s.onLine then linkWith (.trunkNotice k true) none s.link else s.link
        let v := emit { kind := .trunkCondition, line := some k.val, outcome := some (.trunk .out) }
          ({ s with link := l }.setTrunk k (afterTimeout e))
        (r.session.trunk ≠ k ∨ r.claim.stage = .none ∨ r.claim.stage = .held →
          t.link = l ∧ t.port = v.port ∧ kept t) ∧
        (r.session.trunk = k → r.claim.stage = .onWire → t.link = l ∧ t.port = v.port ∧
          (t.chan c.other).session = r.session ∧
          (t.chan c.other).claim = { r.claim with withdrawal := some (r.claim.withdrawal.getD .trunk) }) ∧
        (∀ f, r.session.trunk = k → r.claim.stage = .queued → s.link.claimFrame c.other = some f →
          ∃ u, ClaimWithdrawn v c.other f none u ∧ t.link = u.link ∧ t.port = u.port ∧ t.auto = u.auto ∧
            (t.chan c.other).session = (u.chan c.other).session ∧
            (t.chan c.other).claim = (u.chan c.other).claim))) ∧
  (∀ (s : State) (c : Channel) (a : AbandonedOperate), (s.chan c).session.state ≠ .connecting →
    (s.chan c).seq.abandoned = some a → generalCount s.port.events < 30 →
    ∃ t, exec (.confirmShown c) s = .next t ∧ (t.chan c).session = (s.chan c).session ∧
      (t.chan c).seq.abandoned = some a ∧ t.store = s.store ∧
      (t.chan c).seq.drives = (if a.step = 5
        then { (s.chan c).seq.drives with monitor := false, cutOffTest := false, released := [.cutOff, .testRelay] }
        else { (s.chan c).seq.drives with monitor := false, released := [.testRelay] }) ∧
      t.port.events = s.port.events ++
        [{ kind := .lateConfirm, time := s.store.clock, channel := some c, line := some a.line.val,
           trunk := some a.trunk, lostBefore := s.port.lost }])

/-- Tier 2. The busy test (R29): a closure seen during it, or before it, makes the line in use; not in use, or forced,
step 5 begins with the cut-off and test drive; in use and not forced, an operator session is RELEASING with outcome
LINE-IN-USE, the test relay first. The trunk table is not touched. That step 5 begins with its confirm not taken,
whatever the confirm line shows, is the model's choice (log entry 43). -/
def Obligations.BusyTestBeginsStepFiveOrReleases : Prop :=
  ∀ (s : State) (c : Channel), (s.chan c).session.state = .connecting → (s.chan c).session.relayStep = some 4 →
    (∀ closed, exec (.loopClosureChange c closed) s = .next
      ((s.updPins c fun p => { p with loopClosed := closed }).updSeq c fun q =>
        { q with inUse := q.inUse || closed })) ∧
    ((s.chan c).seq.inUse = false ∨ (s.chan c).session.forced = true →
      ∃ t, exec (.busyTestEnd c) s = .next t ∧
        (t.chan c).session = { (s.chan c).session with relayStep := some 5 } ∧
        (t.chan c).seq.drives = { (s.chan c).seq.drives with cutOffTest := true, released := [] } ∧
        (t.chan c).seq.waitEnd = some (s.now + s.operateTime (s.chan c).session.block) ∧
        (t.chan c).seq.confirmLimit = some (s.now + 400) ∧ (t.chan c).seq.confirmTaken = false ∧
        (t.chan c).seq.inUse = (s.chan c).seq.inUse ∧
        t.chan c.other = s.chan c.other ∧ t.link = s.link ∧ t.store = s.store ∧ t.port = s.port) ∧
    ((s.chan c).seq.inUse = true → (s.chan c).session.forced = false → (s.chan c).session.purpose = .operator →
      (s.chan c).seq.outcome = none →
      ∃ t, exec (.busyTestEnd c) s = .next t ∧ (t.chan c).session.state = .releasing ∧
        (t.chan c).session.relayStep = some 4 ∧ (t.chan c).seq.outcome = some .lineInUse ∧
        (t.chan c).seq.releasing = some .testRelay ∧ t.store = s.store ∧
        (quietHolder s (s.chan c).session.block = none → t.port = s.port ∧ t.link = s.link))

/-- Tier 2. A change of the loop (R34): on an operator session in CONNECTED or MEASURING it sets off-hook and queues
OFF-HOOK or ON-HOOK; on an automatic one a closure yields: the session is RELEASING from step 5 and its measurement
ended; an opening there, and any change in every other state, step or phase but the busy test, moves the line itself and
nothing else. That the row is a change, whatever the line was, is the model's reading (log entry 30). -/
def Obligations.LoopChangesActOnAHeldLine : Prop :=
  ∀ (s : State) (c : Channel) (closed : Bool),
    ((s.chan c).session.state = .connected ∨ (s.chan c).session.state = .measuring →
      (s.chan c).session.purpose = .operator → generalCount s.port.events < 30 →
      ∃ t, exec (.loopClosureChange c closed) s = .next t ∧
        (t.chan c).session = { (s.chan c).session with offHook := closed } ∧
        (t.chan c).pins = { (s.chan c).pins with loopClosed := closed } ∧ (t.chan c).engine = (s.chan c).engine ∧
        t.port.events = s.port.events ++
          [{ kind := if closed then .offHook else .onHook, time := s.store.clock, channel := some c,
             line := some (s.chan c).session.line.val, lostBefore := s.port.lost }]) ∧
    ((s.chan c).session.state = .connected ∨ (s.chan c).session.state = .measuring →
      (s.chan c).session.purpose ≠ .operator → closed = true →
      ∃ t, exec (.loopClosureChange c closed) s = .next t ∧ (t.chan c).session.state = .releasing ∧
        (t.chan c).session.relayStep = some 5 ∧ (t.chan c).seq.releasing = some .cutOff ∧
        (∀ r, (s.chan c).session.state = .measuring → (s.chan c).engine.record = some r →
          (t.chan c).session.lastResult = some { r with outcome := some .yielded } ∧
          (t.chan c).engine.phase = .idle)) ∧
    (((s.chan c).session.state ≠ .connected ∧ (s.chan c).session.state ≠ .measuring ∧
        ((s.chan c).session.state ≠ .connecting ∨ (s.chan c).session.relayStep ≠ some 4)) ∨
      (((s.chan c).session.state = .connected ∨ (s.chan c).session.state = .measuring) ∧
        (s.chan c).session.purpose ≠ .operator ∧ closed = false) →
      exec (.loopClosureChange c closed) s = .next (s.updPins c fun p => { p with loopClosed := closed }))

/-- Tier 2. The release sequence, GUARD and CLOSING (R31, R32, R135 to R137): each release step's wait gives the next
release drive and its wait, the cut-off before the test relay before the selector; the last gives GUARD with the block's
guard time, or CLOSING where it is 0. As GUARD is entered a QUIET-CLEAR is queued for each clear the session owes, in
the order owed, the RELEASE of a guard of 0 behind them, and own leaves the other channel's wait list: the last to leave
a record whose settle has ended makes it HELD and lets its measurement start. The end of GUARD gives CLOSING with the
RELEASE queued ahead of its kind's turn. -/
def Obligations.ReleaseStepsLeadToGuardAndClosing : Prop :=
  (∀ (s : State) (c : Channel), (s.chan c).session.state = .releasing →
    ((s.chan c).seq.releasing = some .cutOff → ∃ t, exec (.releaseWaitEnd c) s = .next t ∧
      (t.chan c).session = (s.chan c).session ∧ (t.chan c).seq.releasing = some .testRelay ∧
      (t.chan c).seq.waitEnd = some (s.now + s.operateTime (s.chan c).session.block) ∧
      (t.chan c).seq.drives = { (s.chan c).seq.drives with monitor := false, released := [.testRelay] }) ∧
    ((s.chan c).seq.releasing = some .testRelay → ∃ t, exec (.releaseWaitEnd c) s = .next t ∧
      (t.chan c).session = (s.chan c).session ∧ (t.chan c).seq.releasing = some .selector ∧
      (t.chan c).seq.waitEnd = some (s.now + s.operateTime (s.chan c).session.block) ∧
      (t.chan c).seq.drives = { (s.chan c).seq.drives with selector := false, released := [.selector] }) ∧
    ((s.chan c).seq.releasing = some .selector →
      let x := (s.chan c).session
      let g := s.guardTime x.block
      let frames := (((s.chan c).clears.filter fun k => !k.clearQueued).map fun k =>
        FrameBody.quietClear k.block k.requester) ++ if g = 0 then [.release x.line x.trunk] else []
      let r := s.chan c.other
      let rest := r.quiet.waitList.filter (· ≠ .own)
      let starts := r.quiet.phase = .settling ∧ r.quiet.settled = true ∧ rest = [] ∧ r.engine.phase = .quietWait
      ∃ t, exec (.releaseWaitEnd c) s = .next t ∧
        (t.chan c).session = { x with state := if g = 0 then .closing else .guard } ∧
        (t.chan c).seq.releasing = none ∧ (t.chan c).seq.waitEnd = (if g = 0 then none else some (s.now + g)) ∧
        (t.chan c).clears = ((s.chan c).clears.map fun k => { k with clearQueued := true }) ∧
        (s.link.waiting = [] → s.link.queue.length + frames.length ≤ 12 →
          t.link = frames.foldl (fun l b => linkWith b (some c) l) s.link ∧ t.port = s.port) ∧
        (¬ starts → t.chan c.other = { r with quiet := { r.quiet with waitList := rest } }) ∧
        (starts → (t.chan c.other).quiet = { r.quiet with phase := .held, waitList := [] } ∧
          (t.chan c.other).engine.phase = .running ∧ (t.chan c.other).session = r.session))) ∧
  (∀ (s : State) (c : Channel), (s.chan c).session.state = .guard → s.link.waiting = [] →
    s.link.queue.length < 12 → ∃ t, exec (.guardEnd c) s = .next t ∧
      (t.chan c).session = { (s.chan c).session with state := .closing } ∧
      t.link = { s.link with
        queue := s.link.queue ++ [⟨.built (.release (s.chan c).session.line (s.chan c).session.trunk), 0, 0,
          s.link.nextEntry, 0, 0, false, some c⟩]
        nextEntry := s.link.nextEntry + 1 } ∧
      t.chan c.other = s.chan c.other ∧ t.store = s.store ∧ t.port = s.port)

/-! ### Measurements -/

/-- Tier 2. A head's answer (R46, R51, R52, R54, R55): with no request outstanding it is discarded; else its numbers
are limited, the reading's value is written and the next reading asked for: R-G after T-G, LOW after a HIGH sum below
64 × N with nothing written, and after R-G without a cut, CAP or a range answer that stands, the next stage of the stage
set, a range reading with the settle of R56. -/
def Obligations.HeadAnswersDriveTheReadings : Prop :=
  (∀ (s : State) (c : Channel) (a : HeadAnswer), (s.chan c).engine.request = none →
    exec (.headAnswer c a) s = .next s) ∧
  (∀ (s : State) (c : Channel) (a : HeadAnswer) (q : HeadRequest) (k : Copies) (r : MeasureRecord),
    (s.chan c).engine.request = some q → (s.chan c).engine.copies = some k → (s.chan c).engine.record = some r →
    let b := limitAnswer q.samples a
    let leg := fun l : Leg => (l = .tr ∧ r.stages.resTR = true) ∨
      (l = .tg ∧ r.stages.resTR = false ∧ r.stages.resTG = true) ∨
      (l = .rg ∧ r.stages.resTR = false ∧ r.stages.resTG = false ∧ r.stages.resRG = true)
    (q.reading = .fv .tg → exec (.headAnswer c a) s = .next (s.updEngine c fun e => { e with
      request := some ⟨.fv .rg, 20, 40, s.now⟩, raw := some b, record := some { r with fvTG := some (fvOf b) } })) ∧
    (∀ l, q.reading = .range l .high → b.sum.natAbs < 64 * r.n →
      exec (.headAnswer c a) s = .next (s.updEngine c fun e => { e with
        request := some ⟨.range l .low, 400 + r.extension, r.n, s.now⟩, raw := some b, record := some r })) ∧
    (∀ l g l', q.reading = .range l g → (g = .high → 64 * r.n ≤ b.sum.natAbs) →
      (l = .tr ∧ l' = .tg ∧ r.stages.resTG = true) ∨
        (l = .tr ∧ l' = .rg ∧ r.stages.resTG = false ∧ r.stages.resRG = true) ∨
        (l = .tg ∧ l' = .rg ∧ r.stages.resRG = true) →
      exec (.headAnswer c a) s = .next (s.updEngine c fun e => { e with
        request := some ⟨.range l' .high, 40 + r.extension, r.n, s.now⟩, raw := some b
        record := some (withLeg k l g b.sum r) })) ∧
    (∀ l, q.reading = .cap → leg l →
      ∃ e, e.extension = (if (lengthOf b.time (capOf b.time k.ctrunk).nf k.cpk) ≤ k.thresholds.longLoop then 0 else
          min 1000 ((lengthOf b.time (capOf b.time k.ctrunk).nf k.cpk - k.thresholds.longLoop) / 1000 *
            k.settlePerKm)) ∧
        e.cap = some (capOf b.time k.ctrunk) ∧
        e.length = some (lengthOf b.time (capOf b.time k.ctrunk).nf k.cpk) ∧
        exec (.headAnswer c a) s = .next (s.updEngine c fun g => { g with
          request := some ⟨.range l .high, 40 + e.extension, r.n, s.now⟩, raw := some b, record := some e })) ∧
    (∀ f, q.reading = .fv .rg → r.fvTG = some f → f.saturated = false → f.ac ≤ 2 * k.thresholds.vacLimit →
      (fvOf b).saturated = false → (fvOf b).ac ≤ 2 * k.thresholds.vacLimit →
      (r.stages.cap = true → exec (.headAnswer c a) s = .next (s.updEngine c fun e => { e with
        request := some ⟨.cap, 50, 0, s.now⟩, raw := some b, record := some { r with fvRG := some (fvOf b) } })) ∧
      (∀ l, r.stages.cap = false → leg l → exec (.headAnswer c a) s = .next (s.updEngine c fun e => { e with
        request := some ⟨.range l .high, 40 + r.extension, r.n, s.now⟩, raw := some b
        record := some { r with fvRG := some (fvOf b) } }))))

/-- Tier 2. The answer of the last reading, whichever reading the stage set makes the last (R51), ends an operator
measurement DONE: the reading's value is written, the record is classified, becomes the
last result, the session is CONNECTED, the engine IDLE, and MEASURE-DONE carries the class with its deciding leg and
value (that it carries them: log entry 39, DEDUCED). FV values beyond R53, SATURATED or above twice the Vac limit on
either leg, end it at once, PARTIAL where a stage is passed over. A failing class with the ticket flag is handed to the
Ticket Store first, whose answer MEASURE-DONE carries (R51, R53, R62, R64, R65, R67, R68, R146). -/
def Obligations.LastAnswerEndsTheMeasurement : Prop :=
  ∀ (s : State) (c : Channel) (a : HeadAnswer) (q : HeadRequest) (k : Copies) (r r' : MeasureRecord),
    (s.chan c).engine.request = some q → (s.chan c).engine.copies = some k → (s.chan c).engine.record = some r →
    (s.chan c).session.purpose = .operator → s.done c = false →
    let b := limitAnswer q.samples a
    let v := fvOf b
    let cuts := fun f : FvValue => f.saturated = true ∨ 2 * k.thresholds.vacLimit < f.ac
    let noRange := r.stages.resTR = false ∧ r.stages.resTG = false ∧ r.stages.resRG = false
    ((∃ l g, q.reading = .range l g ∧ (g = .high → 64 * r.n ≤ b.sum.natAbs) ∧
        (l = .rg ∨ (l = .tg ∧ r.stages.resRG = false) ∨ (l = .tr ∧ r.stages.resTG = false ∧ r.stages.resRG = false)) ∧
        r' = withLeg k l g b.sum r) ∨
      (q.reading = .cap ∧ noRange ∧ r' = withCap k b.time r) ∨
      (q.reading = .fv .rg ∧ ¬ cuts v ∧ (∀ f, r.fvTG = some f → ¬ cuts f) ∧ r.stages.cap = false ∧ noRange ∧
        r' = { r with fvRG := some v }) ∨
      (q.reading = .fv .rg ∧ (cuts v ∨ ∃ f, r.fvTG = some f ∧ cuts f) ∧
        r' = { r with
          fvRG := some v
          partialMark := r.stages.cap || r.stages.resTR || r.stages.resTG || r.stages.resRG })) →
    let cls := classOf k r'
    let d := decidingOf k r' cls
    let stored := storeResult (s.chan c).session.line ⟨s.store.clock, .ownOperator, cls, d, r'.noisy⟩ s
    let ans : TicketAnswer :=
      if cls ≠ .pass ∧ (s.chan c).engine.ticketFlag = true then stored.1 else (none, none)
    ∃ t, exec (.headAnswer c a) s = .next t ∧
      (t.chan c).session = { (s.chan c).session with
        state := .connected
        lastResult := some { r' with
          cls := some cls, deciding := d
          distance := if cls = .short then (r'.ohms .tr).map (distanceOf · k.rpc) else none
          outcome := some .done } } ∧
      (t.chan c).engine.phase = .idle ∧ (t.chan c).engine.request = none ∧ (t.chan c).engine.record = none ∧
      t.busy c = false ∧ t.done c = true ∧
      (needsQuiet r.stages = false ∨ UrgentRoom s →
        (∃ e ∈ t.port.events, e.kind = .measureDone ∧ e.channel = some c ∧
          e.line = some (s.chan c).session.line.val ∧ e.trunk = some (s.chan c).session.trunk ∧
          e.outcome = some (.cls cls) ∧ e.deciding = d ∧ e.ticket = ans.1 ∧ e.station = ans.2 ∧
          e.time = s.store.clock) ∧
        (cls = .pass ∨ (s.chan c).engine.ticketFlag = false →
          t.ticketStore = s.ticketStore ∧ t.port.events = s.port.events ++
            [{ kind := .measureDone, time := s.store.clock, channel := some c,
               line := some (s.chan c).session.line.val, trunk := some (s.chan c).session.trunk,
               outcome := some (.cls cls), deciding := d, lostBefore := s.port.lost }])) ∧
      (needsQuiet r.stages = false → cls ≠ .pass → (s.chan c).engine.ticketFlag = true →
        t.ticketStore = stored.2.ticketStore ∧ t.link = stored.2.link)

/-- Tier 2. A head timeout (R46, R70): with no request, or one that has not been outstanding for 500 ms beyond its
expected length (FV 60 ms, CAP 116 ms, a range reading its settle and N ms), it changes nothing; else the measurement
ends with outcome HEAD-TIMEOUT and what was answered, the session stays on the line and an operator's MEASURE
completes; an automatic session is RELEASING from step 5. CANCEL of a MEASURE ends it the same way with CANCELLED
(R69). -/
def Obligations.HeadTimeoutAndCancelEndTheMeasurement : Prop :=
  (∀ (s : State) (c : Channel), ¬ HeadDue s c → exec (.headTimeout c) s = .next s) ∧
  (∀ (r : MeasureRecord) (t : Nat), (∀ l, expectedLength (requestFor r t (.fv l)) = 60) ∧
    expectedLength (requestFor r t .cap) = 116 ∧
    (∀ l, expectedLength (requestFor r t (.range l .high)) = 40 + r.extension + r.n ∧
      expectedLength (requestFor r t (.range l .low)) = 400 + r.extension + r.n)) ∧
  (∀ (s : State) (c : Channel) (q : HeadRequest), (s.chan c).engine.request = some q →
    (HeadDue s c ↔ q.sentAt + expectedLength q + 500 ≤ s.now)) ∧
  (∀ (s : State) (c : Channel) (r : MeasureRecord), (s.chan c).engine.record = some r →
    (HeadDue s c → (s.chan c).session.purpose = .operator → s.done c = false →
      ∃ t, exec (.headTimeout c) s = .next t ∧
        (t.chan c).session = { (s.chan c).session with
          state := .connected, lastResult := some { r with outcome := some .headTimeout } } ∧
        (t.chan c).engine.phase = .idle ∧ (t.chan c).engine.request = none ∧ t.store = s.store ∧
        t.busy c = false ∧
        ∃ e ∈ t.port.events, e.kind = .measureDone ∧ e.channel = some c ∧
          e.outcome = some (.channel .headTimeout) ∧ e.ticket = none) ∧
    (HeadDue s c → (s.chan c).session.purpose ≠ .operator →
      ∃ t, exec (.headTimeout c) s = .next t ∧ (t.chan c).session.state = .releasing ∧
        (t.chan c).session.relayStep = some 5 ∧ (t.chan c).engine.phase = .idle ∧
        (t.chan c).session.lastResult = some { r with outcome := some .headTimeout }) ∧
    (s.port.phase = .expectCommand → (s.chan c).command = some .measure →
      (s.chan c).session.purpose = .operator → (s.chan c).session.state = .measuring → s.done c = false →
      ∃ t, Answers (.cancel (some c)) s (.accepted .nothing) t ∧
        (t.chan c).session = { (s.chan c).session with
          state := .connected, lastResult := some { r with outcome := some .cancelled } } ∧
        (t.chan c).engine.phase = .idle ∧ (t.chan c).engine.request = none ∧ t.busy c = false ∧
        ∃ e ∈ t.port.events, e.kind = .measureDone ∧ e.channel = some c ∧
          e.outcome = some (.channel .cancelled) ∧ e.ticket = none))

/-- Tier 2, R57. DC, AC and SATURATED of an FV reading, from its limited numbers over 40 samples; all three are
written into the record; DC lies within ±250,000 mV and AC within 250,000 mV. -/
def Obligations.ForeignVoltageIsTruncatedDcAndRms : Prop :=
  ∀ (a : HeadAnswer) (k : Copies) (r : MeasureRecord),
    let b := limitAnswer 40 a
    let v := fvOf b
    b.sum = max (-81920) (min 81880 a.sum) ∧ b.sumSquares = min 167772160 a.sumSquares ∧ b.peak = min 2048 a.peak ∧
    v.dc = (b.sum * 250000).tdiv (2048 * 40) ∧
    (∃ rms : Nat, rms * rms ≤ (40 * (b.sumSquares : Int) - b.sum * b.sum).toNat / 1600 ∧
      (40 * (b.sumSquares : Int) - b.sum * b.sum).toNat / 1600 < (rms + 1) * (rms + 1) ∧
      v.ac = rms * 250000 / 2048) ∧
    (v.saturated = true ↔ 2040 ≤ b.peak) ∧
    (afterReading k (.fv .tg) b r).1.fvTG = some v ∧ (afterReading k (.fv .rg) b r).1.fvRG = some v ∧
    -250000 ≤ v.dc ∧ v.dc ≤ 250000 ∧ v.ac ≤ 250000

/-- Tier 2, R59. A leg's value from its last range reading: the first of the four cases that applies; the current of a
sum of at least N is at least 976 nA, and every value lies within 50,000,000 ohms. -/
def Obligations.ResistanceTakesTheFirstCaseThatApplies : Prop :=
  ∀ (g : Range) (sum : Int) (n : Nat) (dc : Int) (rtrunk : Nat), 0 < n →
    let vsrc : Int := match g with | .high => 48000 | .low => 100000
    let rs : Int := match g with | .high => 1000 | .low => 10000
    let ifs : Int := match g with | .high => 20000 | .low => 2000
    let i : Int := (sum * ifs * 1000).tdiv (2048 * n)
    let vnet : Int := vsrc - dc
    let rx : Int := (vnet * 1000000).tdiv i - rs - rtrunk
    (vnet ≤ 0 ∨ i < 0 → legOf g sum n dc rtrunk = ⟨g, none, false, false, true⟩) ∧
    (0 < vnet → 0 ≤ i →
      (sum.natAbs < n → legOf g sum n dc rtrunk = ⟨g, some 50000000, true, false, false⟩) ∧
      (n ≤ sum.natAbs →
        976 ≤ i ∧
        (g = .high → 2040 * n ≤ sum.natAbs → legOf g sum n dc rtrunk = ⟨g, some 0, false, true, false⟩) ∧
        (g = .low ∨ sum.natAbs < 2040 * n →
          (rx < 0 → legOf g sum n dc rtrunk = ⟨g, some 0, false, true, false⟩) ∧
          (50000000 < rx → legOf g sum n dc rtrunk = ⟨g, some 50000000, true, false, false⟩) ∧
          (0 ≤ rx → rx ≤ 50000000 → legOf g sum n dc rtrunk = ⟨g, some rx.toNat, false, false, false⟩)))) ∧
    (∀ v, (legOf g sum n dc rtrunk).ohms = some v → v ≤ 50000000)

/-- Tier 1. Capacitance, length, extension and distance: rounded to nearest, clamped, with the flags of a charge that
never ended or was too fast to count (R56, R60, R61). -/
def Obligations.LengthsRoundToNearestAndAreClamped : Prop :=
  (∀ a b : Nat, 0 < b → 2 * a < (2 * roundDiv a b + 1) * b ∧ (2 * roundDiv a b) * b ≤ 2 * a + b) ∧
  (∀ t k : Nat, capOf t k = ⟨roundDiv (t * 100000) 693147 - k, decide (65535 ≤ t), decide (t < 10)⟩) ∧
  (∀ t nf cpk : Nat, (65535 ≤ t → lengthOf t nf cpk = 30000) ∧ (t < 10 → lengthOf t nf cpk = 0) ∧
    (10 ≤ t → t < 65535 → lengthOf t nf cpk = min 30000 (roundDiv (nf * 1000) cpk))) ∧
  (∀ len long per : Nat, (len ≤ long → extensionOf len long per = 0) ∧
    (long < len → extensionOf len long per = min 1000 ((len - long) / 1000 * per))) ∧
  (∀ rx rpc : Nat, distanceOf rx rpc = min 30000 (roundDiv (rx * 1000) (2 * rpc)))

/-- Tier 2. The class of a DONE measurement is the first whose condition holds on what was measured, worst first, OPEN
before LOW-INSULATION and PASS where none holds (R62); its deciding leg and value follow it, the lowest of the legs
asked for in the order of R64 on a tie (R63, R64). -/
def Obligations.ClassIsTheFirstConditionThatHolds : Prop :=
  ∀ (k : Copies) (r : MeasureRecord),
    let t := k.thresholds
    let fv := (∃ f, (r.fvTG = some f ∨ r.fvRG = some f) ∧
        (t.vdcLimit < f.dc.natAbs ∨ t.vacLimit < f.ac ∨ f.saturated = true)) ∨
      ∃ l v, r.leg l = some v ∧ v.reversed = true
    let below := fun (l : Leg) (lim : Nat) => ∃ v, r.ohms l = some v ∧ v < lim
    let short := below .tr t.rshort
    let ground := below .tg t.rground ∨ below .rg t.rground
    let open_ := 0 < k.minLength ∧ ∃ v, r.length = some v ∧ v < k.minLength
    let low := ∃ l, below l t.rinsul
    (classOf k r = .foreignVoltage ↔ fv) ∧
    (classOf k r = .short ↔ ¬ fv ∧ short) ∧
    (classOf k r = .ground ↔ ¬ fv ∧ ¬ short ∧ ground) ∧
    (classOf k r = .openLine ↔ ¬ fv ∧ ¬ short ∧ ¬ ground ∧ open_) ∧
    (classOf k r = .lowInsulation ↔ ¬ fv ∧ ¬ short ∧ ¬ ground ∧ ¬ open_ ∧ low) ∧
    (classOf k r = .pass ↔ ¬ fv ∧ ¬ short ∧ ¬ ground ∧ ¬ open_ ∧ ¬ low) ∧
    (classOf k r = .foreignVoltage → ∃ o ∈ fvOffers t r, (∀ p ∈ fvOffers t r, p.value ≤ o.value) ∧
      decidingOf k r .foreignVoltage = some ⟨.leg o.leg (some o.component), o.value⟩) ∧
    (∀ v, r.ohms .tr = some v → decidingOf k r .short = some ⟨.leg .tr none, v⟩) ∧
    (∀ v, r.ohms .tg = some v → (∀ w, r.ohms .rg = some w → v ≤ w) →
      decidingOf k r .ground = some ⟨.leg .tg none, v⟩) ∧
    (∀ w, r.ohms .rg = some w → (∀ v, r.ohms .tg = some v → w < v) →
      decidingOf k r .ground = some ⟨.leg .rg none, w⟩) ∧
    (∀ v, r.length = some v → decidingOf k r .openLine = some ⟨.length, v⟩) ∧
    (∀ v, r.ohms .tr = some v → (∀ w, r.ohms .tg = some w ∨ r.ohms .rg = some w → v ≤ w) →
      decidingOf k r .lowInsulation = some ⟨.leg .tr none, v⟩) ∧
    (∀ v, r.ohms .tg = some v → (∀ w, r.ohms .tr = some w → v < w) → (∀ w, r.ohms .rg = some w → v ≤ w) →
      decidingOf k r .lowInsulation = some ⟨.leg .tg none, v⟩) ∧
    (∀ v, r.ohms .rg = some v → (∀ w, r.ohms .tr = some w ∨ r.ohms .tg = some w → v < w) →
      decidingOf k r .lowInsulation = some ⟨.leg .rg none, v⟩) ∧
    decidingOf k r .pass = none

/-! ### Quiets -/

/-- Tier 2. The own quiet's timers (R137, R140): the measurement starts when the 100 ms have passed and the wait list
is empty, at whichever comes last, and not before; the limit starts it NOISY, by the record's phase; a lapse of a HELD
quiet queues QUIET-END and marks the measurement NOISY, and in any other phase does nothing. Before that, a PENDING
record queues its QUIET, the model's row for it, where its block is free and the queue has room after the frames served
before it: it is REQUESTED and QUIET enters at urgency 1; a record in any other phase queues nothing (R85, R129; the
order of service: log entry 16). -/
def Obligations.QuietIsRequestedSettlesAndLapses : Prop :=
  (∀ (s : State) (c : Channel), (s.chan c).quiet.phase = .settling → (s.chan c).engine.phase = .quietWait →
    let starts := fun t : State => (t.chan c).engine.phase = .running ∧
      ∀ r, (s.chan c).engine.record = some r → (t.chan c).engine.record = some r ∧
        (t.chan c).engine.request = (firstReading r.stages).map (requestFor r s.now)
    ((s.chan c).quiet.waitList = [] → ∃ t, exec (.quietSettleEnd c) s = .next t ∧
      (t.chan c).quiet = { (s.chan c).quiet with phase := .held, settled := true } ∧ starts t ∧ t.link = s.link) ∧
    ((s.chan c).quiet.waitList ≠ [] →
      exec (.quietSettleEnd c) s = .next (s.updQuiet c fun q => { q with settled := true })) ∧
    (∀ b n m, (s.chan c).quiet.settled = true → (s.chan c).quiet.waitList = [.station n] →
      (s.chan c).quiet.block = some b → (s.chan c.other).quiet.block ≠ some b → s.store.station = some m →
      Heard s n (.quietClear b m) → ∃ t, exec (.quietClearTaken n b m) s = .next t ∧
        (t.chan c).quiet = { (s.chan c).quiet with phase := .held, waitList := [] } ∧ starts t)) ∧
  (∀ (s : State) (c : Channel), (s.chan c).engine.phase = .quietWait → ∃ t, exec (.quietLimit c) s = .next t ∧
    (t.chan c).engine.phase = .running ∧
    (∀ r, (s.chan c).engine.record = some r → (t.chan c).engine.record = some { r with noisy := true }) ∧
    ((s.chan c).quiet.phase = .pending → (t.chan c).quiet = .initial ∧ t.link = s.link) ∧
    ((s.chan c).quiet.phase = .settling →
      (t.chan c).quiet = { (s.chan c).quiet with phase := .held, waitList := [] } ∧ t.link = s.link) ∧
    (∀ f, (s.chan c).quiet.phase = .requested → s.link.quietFrame c = some f → s.link.onWire f = false →
      (t.chan c).quiet = .initial ∧ t.link.queue = s.link.queue.filter (·.entry != f.entry)) ∧
    (∀ f, (s.chan c).quiet.phase = .requested → s.link.quietFrame c = some f → s.link.onWire f = true →
      (t.chan c).quiet.phase = .requested ∧ t.link = s.link ∧
      ((s.chan c).quiet.withdrawal = none → (t.chan c).quiet.withdrawal = some .limit)) ∧
    ((s.chan c).quiet.phase = .ending → (t.chan c).quiet =
      { (s.chan c).quiet with requestNoted := false, notedBlock := none } ∧ t.link = s.link)) ∧
  (∀ (s : State) (c : Channel), (s.chan c).engine.phase ≠ .quietWait → exec (.quietLimit c) s = .next s) ∧
  (∀ (s : State) (c : Channel) (b : Block), (s.chan c).quiet.phase = .held → (s.chan c).quiet.block = some b →
    s.link.waiting = [] → s.link.queue.length < 12 → ∃ t, exec (.ownQuietLapse c) s = .next t ∧
      (t.chan c).quiet = { (s.chan c).quiet with phase := .ending, waitList := [] } ∧
      t.link.queue = s.link.queue ++ [⟨.built (.quietEnd b), 0, 0, s.link.nextEntry, 0, 0, false, some c⟩] ∧
      (∀ r, (s.chan c).engine.phase = .running → (s.chan c).engine.record = some r →
        (t.chan c).engine.record = some { r with noisy := true } ∧
        (t.chan c).engine.request = (s.chan c).engine.request)) ∧
  (∀ (s : State) (c : Channel), (s.chan c).quiet.phase ≠ .held → exec (.ownQuietLapse c) s = .next s) ∧
  (∀ (s : State) (c : Channel) (b : Block), (s.chan c).quiet.phase = .pending → (s.chan c).quiet.block = some b →
    s.link.state = .active → s.port.phase ≠ .starting → (∀ p ∈ s.roster, ∀ q ∈ p.quiets, q.block ≠ b) →
    ((s.chan c.other).quiet.phase = .none ∨ (s.chan c.other).quiet.block ≠ some b) →
    s.link.waiting = [] → lowCount s.link.queue + aheadOfChannelQuiet s c < 8 →
    s.link.queue.length + aheadOfChannelQuiet s c < 12 →
    ∃ t, exec (.quietRequestQueued c) s = .next t ∧ (t.chan c).quiet = { (s.chan c).quiet with phase := .requested } ∧
      t.link = { s.link with
        queue := s.link.queue ++ [⟨.built (.quiet b), 1, 1, s.link.nextEntry, 0, 0, false, some c⟩]
        nextEntry := s.link.nextEntry + 1 } ∧
      (t.chan c).session = (s.chan c).session ∧ t.chan c.other = s.chan c.other ∧ t.port = s.port) ∧
  (∀ (s : State) (c : Channel), (s.chan c).quiet.phase ≠ .pending → exec (.quietRequestQueued c) s = .next s) ∧
  (∀ (s : State) (c : Channel) (b : Block) (p : Peer) (q : QuietBlock), (s.chan c).quiet.block = some b →
    p ∈ s.roster → q ∈ p.quiets → q.block = b → exec (.quietRequestQueued c) s = .next s)

/-- Tier 2. QUIET-BUSY and QUIET-CLEAR taken (R136, R138), from a station the roster knows: addressed to this station
they join and leave the wait list of a SETTLING record on their block, and a QUIET-BUSY marks a HELD one's running
measurement NOISY; addressed to another station, or on no such block, they change nothing but the time last heard. -/
def Obligations.QuietAnswersMoveTheWaitList : Prop :=
  ∀ (s : State) (n m : Station) (b : Block) (c : Channel), s.store.station = some m →
    (Heard s n (.quietBusy b m) → (s.chan c).quiet.block = some b → (s.chan c.other).quiet.block ≠ some b →
      ((s.chan c).quiet.phase = .settling → exec (.quietBusyTaken n b m) s =
        .next ((s.heard n).updQuiet c fun q => { q with
          waitList := if .station n ∈ q.waitList then q.waitList else q.waitList ++ [.station n] })) ∧
      ((s.chan c).quiet.phase = .held → (s.chan c).engine.phase = .running → exec (.quietBusyTaken n b m) s =
        .next ((s.heard n).updEngine c fun e => { e with
          record := e.record.map fun r => { r with noisy := true } }))) ∧
    (Heard s n (.quietClear b m) → (s.chan c).quiet.block = some b → (s.chan c.other).quiet.block ≠ some b →
      (s.chan c).quiet.phase = .settling → (s.chan c).quiet.settled = false →
      exec (.quietClearTaken n b m) s =
        .next ((s.heard n).updQuiet c fun q => { q with waitList := q.waitList.filter (· ≠ .station n) })) ∧
    (∀ k, k ≠ m →
      (Heard s n (.quietBusy b k) → exec (.quietBusyTaken n b k) s = .next (s.heard n)) ∧
      (Heard s n (.quietClear b k) → exec (.quietClearTaken n b k) s = .next (s.heard n))) ∧
    ((∀ d, (s.chan d).quiet.block ≠ some b) →
      (Heard s n (.quietBusy b m) → exec (.quietBusyTaken n b m) s = .next (s.heard n)) ∧
      (Heard s n (.quietClear b m) → exec (.quietClearTaken n b m) s = .next (s.heard n)))

/-- Tier 2. The end of an own quiet (R139): its QUIET-END taken, or dropped after its fourth void, ends the record,
clears quiet held, lets a session it deferred go on with step 1, and serves the other channel's record PENDING on the
block: where the block is free and there is room, its QUIET enters the queue and it is REQUESTED, before a noted request
of the ended record turns that one PENDING (that this serves at once, and that the record turned PENDING waits for its
own row: log entry 41). The end of a measurement that asked for quiet, by a head timeout or by a CANCEL, which may come
while it waits for quiet, acts by the record's phase. -/
def Obligations.OwnQuietsEndWithTheirMeasurement : Prop :=
  (∀ (s : State) (w : Attempt) (f : QueuedFrame) (b : Block) (c : Channel), s.link.wire = some w → LinkOk s.link →
    f ∈ s.link.queue → f.entry = w.entry → f.body = .built (.quietEnd b) → w.body = .quietEnd b →
    f.origin = some c → s.inFarewell = false → (s.chan c).quiet.block = some b →
    ∀ how, how = .slots true false ∨ (how = .slots true true ∧ f.voids = 3) →
      let q := (s.chan c.other).quiet
      let left := s.link.queue.filter (·.entry ≠ f.entry)
      ∃ t, exec (.ownAttemptEnd how) s = .next t ∧ t.link.wire = none ∧
        (q.phase ≠ .pending ∨ q.block ≠ some b → t.link.queue = left ∧ (t.chan c.other).quiet = q) ∧
        (q.phase = .pending → q.block = some b → s.link.state = .active → s.port.phase ≠ .starting →
          quietHolder s b = none → s.link.waiting = [] → lowCount s.link.queue + aheadOfChannelQuiet s c.other < 8 →
          s.link.queue.length + aheadOfChannelQuiet s c.other < 12 →
          (t.chan c.other).quiet = { q with phase := .requested } ∧
          t.link.queue = left ++ [⟨.built (.quiet b), 1, 1, s.link.nextEntry, 0, 0, false, some c.other⟩]) ∧
        (quietHolder s b ≠ none → t.link.queue = left ∧ (t.chan c.other).quiet = q) ∧
        t.link.linkError = (s.link.linkError || decide (how = .slots true true)) ∧
        (t.chan c).session = { (s.chan c).session with quietHeld := none } ∧
        (t.chan c).quiet = (if (s.chan c).quiet.requestNoted then { QuietRecord.initial with
            phase := .pending, block := (s.chan c).quiet.notedBlock, limitTime := (s.chan c).quiet.limitTime }
          else .initial) ∧
        ((s.chan c.other).session.state = .deferred → (s.chan c.other).session.deferredBy = some .own →
          (s.chan c.other).session.block = b → quietHolder s b = none → (s.chan c.other).session.relayStep = none →
          (s.chan c.other).session.frozenAtClaim = false →
          (t.chan c.other).session = { (s.chan c.other).session with
            state := .connecting, relayStep := some 1, deferredBy := none }) ∧
        ((s.chan c.other).session.state ≠ .deferred → q.phase ≠ .pending ∨ q.block ≠ some b →
          t.chan c.other = s.chan c.other)) ∧
  (∀ (s : State) (c : Channel) (r : MeasureRecord), (s.chan c).engine.record = some r →
    needsQuiet r.stages = true → (s.chan c).session.purpose = .operator →
    let q := (s.chan c).quiet
    let ended := fun t : State => (t.chan c).engine.phase = .idle ∧
      (q.phase = .none → (t.chan c).quiet = q ∧ t.link = s.link) ∧
      (q.phase = .pending → (t.chan c).quiet = .initial ∧ t.link = s.link) ∧
      (∀ f, q.phase = .requested → s.link.quietFrame c = some f →
        (s.link.onWire f = false → (t.chan c).quiet = .initial ∧
          t.link.queue = s.link.queue.filter (·.entry ≠ f.entry)) ∧
        (s.link.onWire f = true → (t.chan c).quiet = { q with
          withdrawal := some .ended, requestNoted := false, notedBlock := none } ∧ t.link = s.link)) ∧
      (∀ b, q.phase = .settling ∨ q.phase = .held → q.block = some b → UrgentRoom s →
        (t.chan c).quiet = { q with phase := .ending, waitList := [] } ∧
        t.link = linkWith (.quietEnd b) (some c) s.link) ∧
      (q.phase = .ending → (t.chan c).quiet = { q with requestNoted := false, notedBlock := none } ∧
        t.link = s.link)
    (HeadDue s c → ∃ t, exec (.headTimeout c) s = .next t ∧ ended t) ∧
    (s.port.phase = .expectCommand → (s.chan c).command = some .measure → (s.chan c).session.state = .measuring →
      ∃ t, Answers (.cancel (some c)) s (.accepted .nothing) t ∧ ended t)) ∧
  (∀ (s : State) (w : Attempt) (f : QueuedFrame) (b : Block) (c : Channel), s.link.wire = some w → LinkOk s.link →
    f ∈ s.link.queue → f.entry = w.entry → f.body = .built (.quiet b) → w.body = .quiet b → f.origin = some c →
    s.inFarewell = false → s.link.waiting = [] → (s.chan c).quiet.block = some b →
    (s.chan c).quiet.withdrawal = some .ended → (s.chan c).quiet.requestNoted = false →
    (∃ t, exec (.ownAttemptEnd (.slots true false)) s = .next t ∧ (t.chan c).quiet.phase = .ending ∧
      t.link.queue.map (·.body) =
        (s.link.queue.filter (·.entry ≠ f.entry)).map (·.body) ++ [.built (.quietEnd b)]) ∧
    (∃ t, exec .arbitrationLoss s = .next t ∧ (t.chan c).quiet = .initial ∧
      t.link.queue.map (·.entry) = (s.link.queue.filter (·.entry ≠ f.entry)).map (·.entry)))

/-- Tier 2. Own quiets and releases beside a foreign quiet. A QUIET or a PRESENCE that puts a foreign quiet on the block
of an own REQUESTED one, whose session is MEASURING there, takes the own QUIET out of the queue, and its record returns
to PENDING (R132). A RELEASE on a
block under a foreign quiet queues QUIET-BUSY and owes its holder a clear; a session that owes it one already queues no
second (R134; that a clear owed to another station holds nothing back: log entry 45). On a block under the other
channel's own quiet it joins the wait list of a SETTLING one and marks the running measurement of a HELD one NOISY
(R136, R138). -/
def Obligations.ForeignQuietsWithdrawAndAreAnswered : Prop :=
  (∀ (s : State) (n : Station) (b : Block) (c : Channel) (f : QueuedFrame) (p : Peer), RosterOk s.roster →
    s.peer n = some p → (∀ o ∈ s.roster, ∀ q ∈ o.quiets, q.block ≠ b) → ownQuietOn s b = false →
    (s.chan c).quiet.phase = .requested → (s.chan c).quiet.block = some b → s.link.quietFrame c = some f →
    (s.chan c.other).quiet.phase ≠ .requested → (∀ d, (s.chan d).session.block ≠ b ∨
      (s.chan d).session.state ∉ [SessionState.claimed, .connecting, .releasing]) →
    ∀ i j, (i = .quietTaken n b ∧ Heard s n (.quiet b)) ∨
        (i = .presenceTaken n j [] [b] ∧ Heard s n (.presence j [] [b]) ∧ (j = false ∨ p.joining = true)) →
      ∃ t, exec i s = .next t ∧ (t.chan c).quiet = { (s.chan c).quiet with phase := .pending } ∧
        t.link.queue = s.link.queue.filter (·.entry ≠ f.entry) ∧ listsQuiet t n b = true) ∧
  (∀ (s : State) (c : Channel), s.port.phase = .expectCommand → (s.chan c).session.state = .connected →
    (s.chan c).session.purpose = .operator → s.busy c = false → s.done c = false →
    let b := (s.chan c).session.block
    let q := (s.chan c.other).quiet
    ∃ t, Answers (.release (some c)) s (.accepted .nothing) t ∧
      (∀ n, quietHolder s b = some n →
        ((∀ k ∈ (s.chan c).clears, k.block = b → k.requester = n → k.clearQueued = true) → UrgentRoom s →
          t.link = linkWith (.quietBusy b n) (some c) s.link ∧
          (t.chan c).clears = (s.chan c).clears ++ [⟨b, n, false, false⟩]) ∧
        ((∃ k ∈ (s.chan c).clears, k.block = b ∧ k.requester = n ∧ k.clearQueued = false) →
          t.link = s.link ∧ (t.chan c).clears = (s.chan c).clears)) ∧
      (q.block = some b → q.phase = .settling → (t.chan c.other).quiet = { q with
        waitList := if .own ∈ q.waitList then q.waitList else q.waitList ++ [.own] }) ∧
      (q.block = some b → q.phase = .held → ∀ r, (s.chan c.other).engine.phase = .running →
        (s.chan c.other).engine.record = some r →
        (t.chan c.other).engine.record = some { r with noisy := true }))

/-! ### Frames of other stations -/

/-- Tier 2. Frames of other stations (R78, R79, R97, R98). A frame that does not fit its kind is objected to (what fits:
log entries 9, DEDUCED, and 23) and not taken; in a farewell a fitting one is answered and not taken (log entry 26);
outside JOINING and ACTIVE, and during an own attempt (log entry 10), nothing is driven and nothing taken; one that
bears the own number is O50's. Every frame taken notes its sender as heard now, and no other entry changes; a new sender
is entered in its place and PEER-JOINED queued. A CLAIM adds its pair to the sender's holdings, a RELEASE removes it,
and where no own session is contested nothing else changes. -/
def Obligations.FramesOfOthersReachTheRoster : Prop :=
  (∀ (s : State) (n : Station) (b : FrameBody),
    s.onLine = false ∨ frameFits n b = false ∨ s.link.wire.isSome = true →
    frameFits n b = false ∨ s.store.station ≠ some n → exec (frameRow n b) s = .next
      (if (s.link.state = .joining ∨ s.link.state = .active) ∧ s.link.wire = none then { s with
        link := { s.link with slot := some (if frameFits n b = true then .heard else .objection) } } else s)) ∧
  (∀ (s : State) (n : Station) (b : FrameBody), s.onLine = true → s.link.wire = none → frameFits n b = true →
    s.store.station ≠ some n → ∃ t, exec (frameRow n b) s = .next t ∧
      (∃ p, t.peer n = some p ∧ p.lastHeard = s.now) ∧ ∀ m, m ≠ n → t.peer m = s.peer m) ∧
  (∀ (s : State) (n : Station) (l : Line) (t : Trunk) (p : Purpose) (c : Channel), Heard s n (.claim l t p c) →
    Uncontested s [(l, t)] → s.watch.op ≠ .monitor → exec (.claimTaken n l t p c) s = .next { s.answered with
      roster := rosterWith n
        (fun q => { q with lastHeard := s.now, holdings := addHolding ⟨l, t, p⟩ q.holdings }) s.roster }) ∧
  (∀ (s : State) (n : Station) (l : Line) (t : Trunk) (p : Purpose) (c : Channel), s.onLine = true →
    s.link.wire = none → frameFits n (.claim l t p c) = true → s.store.station ≠ some n → s.peer n = none →
    Uncontested s [(l, t)] → s.watch.op ≠ .monitor → generalCount s.port.events < 30 →
    exec (.claimTaken n l t p c) s = .next { s.answered with
      roster := insertPeer ⟨n, s.now, false, [⟨l, t, p⟩], []⟩ s.roster
      port := portWith { kind := .peerJoined, station := some n, outcome := some (.link .active) } s }) ∧
  (∀ (s : State) (n : Station) (l : Line) (t : Trunk), Heard s n (.release l t) →
    (∀ c, (s.chan c).session.state.active = false ∨ l ≠ (s.chan c).session.line ∧ t ≠ (s.chan c).session.trunk) →
    exec (.releaseFrameTaken n l t) s = .next { s.answered with
      roster := rosterWith n (fun q => { q with
        lastHeard := s.now, holdings := q.holdings.filter fun h => h.line ≠ l ∨ h.trunk ≠ t }) s.roster }) ∧
  (∀ h a b : Holding, (a.line ≠ h.line ∨ a.trunk ≠ h.trunk) → (b.line ≠ h.line ∨ b.trunk ≠ h.trunk) →
    addHolding h [] = [h] ∧ addHolding h [a] = [a, h] ∧ addHolding h [a, b] = [b, h] ∧
    ∀ p, addHolding h [{ h with purpose := p }, a] = [h, a] ∧ addHolding h [a, { h with purpose := p }] = [a, h])

/-- Tier 2. Another station's CLAIM, RELEASE or PRESENCE meets the own sessions on its line or trunk (R39, R102, R119 to
R125). A queued operator claim on the line ends CLAIM-LOST, naming the station; one on the trunk alone takes another
trunk behind every frame queued, or ends NO-TRUNK; a queued automatic claim on either ends its item BLOCKED; of two
queued claims the one that ends frees its trunk before the other is re-routed. Every active session, operator or
automatic, ends by CONFLICT, one or both of them by one frame: from CLAIMED, and from DEFERRED with no relay driven,
through CLOSING, else through RELEASING from the relay it reached, with an operate abandoned and a measurement
discarded; an automatic one reports BLOCKED. One that is ending already, and one on another pair, is as it was. That
channel A's RELEASE is queued before channel B's is the model's choice (log entry 40). -/
def Obligations.ForeignClaimsMeetOwnSessions : Prop :=
  (∀ (s : State) (n : Station) (l : Line) (t : Trunk) (p : Purpose) (k c : Channel) (f : QueuedFrame),
    Heard s n (.claim l t p k) → s.watch.op ≠ .monitor → (s.chan c).claim.stage = .queued →
    s.link.claimFrame c = some f →
    let x := (s.chan c).session
    let v := { s.answered with roster := rosterWith n (fun q =>
      { q with lastHeard := s.now, holdings := addHolding ⟨l, t, p⟩ q.holdings }) s.roster }
    ((s.chan c.other).claim.stage ≠ .queued → (s.chan c.other).session.state.active = false →
      (x.purpose = .operator → x.cancelPending = false → x.line = l → (s.chan c).command = some .access →
        s.done c = false → ∃ u, exec (.claimTaken n l t p k) s = .next u ∧ (u.chan c).session.state = .idle ∧
          (u.chan c).claim.stage = .none ∧ u.link.queue = s.link.queue.filter (·.entry != f.entry) ∧
          u.port = portWith { kind := .accessDone, channel := some c, line := some l.val, trunk := some x.trunk,
                              outcome := some (.channel .claimLost), station := some n } s ∧
          u.busy c = false) ∧
      ((x.purpose = .operator ∧ x.line ≠ l ∧ x.trunk = t) ∨
          (x.purpose ≠ .operator ∧ (x.line = l ∨ x.trunk = t)) →
        ∃ u, exec (.claimTaken n l t p k) s = .next u ∧ ClaimWithdrawn v c f (some n) u)) ∧
    (∀ g r, (s.chan c.other).claim.stage = .queued → s.link.claimFrame c.other = some g → LinkOk s.link →
      (x.line = l ∨ x.purpose ≠ .operator ∧ x.trunk = t) →
      (s.chan c.other).session.purpose = .operator → (s.chan c.other).session.line ≠ l →
      (s.chan c.other).session.trunk = t →
      chooseRoute (v.updSession c fun y => { y with state := .idle }) (s.chan c.other).session.line = .trunk r →
      ∃ u, exec (.claimTaken n l t p k) s = .next u ∧ (u.chan c).session.state = .idle ∧
        (u.chan c).claim.stage = .none ∧ (u.chan c.other).claim.stage = .queued ∧
        (u.chan c.other).session = { (s.chan c.other).session with trunk := r } ∧
        u.link.queue = (s.link.queue.filter fun h => h.entry ≠ f.entry ∧ h.entry ≠ g.entry) ++ [{ g with
          body := .built (.claim (s.chan c.other).session.line r .operator c.other)
          entry := s.link.nextEntry, voids := 0, losses := 0 }])) ∧
  (∀ (s : State) (n : Station) (l : Line) (t : Trunk) (b : FrameBody), Heard s n b → ShowsPair s n l t b →
    let met := fun c => (s.chan c).claim.stage ≠ .queued ∧
      ((s.chan c).session.line = l ∨ (s.chan c).session.trunk = t)
    let claimed := fun c => met c ∧ ((s.chan c).session.state = .claimed ∨
      ((s.chan c).session.state = .deferred ∧ (s.chan c).session.relayStep = none))
    let release := fun c => linkWith (.release (s.chan c).session.line (s.chan c).session.trunk) (some c)
    ∃ u, exec (frameRow n b) s = .next u ∧
      (∀ c,
        let x := (s.chan c).session
        let y := (u.chan c).session
        let q := (u.chan c).seq
        ((s.chan c).claim.stage ≠ .queued → ¬ met c ∨ x.state.active = false → y = x) ∧
        (met c →
          (x.state.active = true → q.outcome = some ((s.chan c).seq.outcome.getD .conflict)) ∧
          (claimed c → y = { x with state := .closing }) ∧
          (∀ m, x.state = .deferred ∨ x.state = .connecting → x.relayStep = some m →
            y = { x with state := .releasing } ∧
            q.releasing = some (if m = 5 then .cutOff else if 3 ≤ m then .testRelay else .selector) ∧
            (x.state = .connecting → m = 3 ∨ m = 5 → (s.chan c).seq.confirmTaken = false →
              q.abandoned = some ⟨m, x.line, x.trunk⟩)) ∧
          (x.state = .connected ∨ x.state = .measuring → y = { x with state := .releasing, relayStep := some 5 } ∧
            q.releasing = some .cutOff ∧ (x.state = .measuring → (u.chan c).engine.phase = .idle)) ∧
          (x.state.active = true → x.purpose ≠ .operator → (s.chan c.other).claim.stage ≠ .queued →
            ∀ j, s.auto.item = some j → j.outcome = none → j.aborted = false →
              u.auto.item = some { j with outcome := some .blocked }))) ∧
      (∀ c, claimed c → (s.chan c.other).claim.stage ≠ .queued →
        (s.chan c.other).session.state.active = false ∨ ¬ met c.other → UrgentRoom s →
        u.link = release c s.answered.link) ∧
      (claimed .a → claimed .b → s.link.waiting = [] → s.link.queue.length + 2 ≤ 12 →
        u.link = release .b (release .a s.answered.link)))

/-- Tier 2. A PRESENCE taken replaces its sender's entry: holdings whole; quiet blocks kept that were listed, with their
lapse, and new ones added with 10,500 ms where no other entry lists them and no own quiet stands; joining as flagged
(R101). The first joining one draws the join replies: every open ticket is announce-pending, and an out notice is queued
for each trunk declared out by self, in number order (R105). That an own record PENDING on a block that a PRESENCE frees
stays PENDING here, until its row QUIET_REQUEST_QUEUED, is the model's choice (log entry 41). -/
def Obligations.PresenceReplacesItsSendersEntry : Prop :=
  ∀ (s : State) (n : Station) (j : Bool) (hs : List Holding) (qs : List Block) (p : Peer),
    RosterOk s.roster →
    Heard s n (.presence j hs qs) → s.peer n = some p → Uncontested s (hs.map fun h => (h.line, h.trunk)) →
    (∀ c, (s.chan c).session.state ≠ .deferred ∧ (s.chan c).quiet.phase ≠ .requested) →
    let added := qs.filter fun b => !(p.quiets.any (·.block == b)) && !ownQuietOn s b &&
      !(s.roster.any fun o => o.station != n && o.quiets.any (·.block == b))
    let r := rosterWith n (fun q => { q with
      lastHeard := s.now, holdings := hs, joining := j
      quiets := (p.quiets.filter fun q => qs.contains q.block) ++ added.map fun b => ⟨b, s.now + 10500⟩ }) s.roster
    (j = false ∨ p.joining = true → exec (.presenceTaken n j hs qs) s = .next { s.answered with roster := r }) ∧
    (j = true → p.joining = false → ∃ u, exec (.presenceTaken n j hs qs) s = .next u ∧ u.roster = r ∧
      (s.declaredOut = [] ∨ s.link.holding = [] →
        u.ticketStore = { s.ticketStore with tickets := announced s.ticketStore.tickets }) ∧ OutNoticesQueued s u ∧
      (generalCount s.port.events < 30 → s.declaredOut = [] →
        u.port = portWith { kind := .peerJoined, station := some n, outcome := some (.link .joining) } s))

/-- Tier 2. A peer's silence (R106, R107): 3,500 ms after it was last heard, and not before, its entry, its place in
every own wait list and its index entries go; its handovers fail PEER-GONE, each with its HANDOVER-FAILED; PEER-DROPPED
is queued; a session it deferred goes on with step 1 where nothing else quiets the block. A station the roster does not
list, or a station not on the line (in STARTING during a farewell: log entry 26): nothing changes. That an own record
PENDING on a block of the dropped station stays PENDING here, until its row QUIET_REQUEST_QUEUED, is the model's choice
(log entry 41). -/
def Obligations.SilentPeersAreDropped : Prop :=
  (∀ (s : State) (n : Station), s.peer n = none ∨ s.onLine = false ∨
      (∃ p, s.peer n = some p ∧ s.now < p.lastHeard + 3500) → exec (.peerSilent n) s = .next s) ∧
  (∀ (s : State) (n : Station) (p : Peer), s.onLine = true → s.peer n = some p → p.lastHeard + 3500 ≤ s.now → ∃ u,
    exec (.peerSilent n) s = .next u ∧ u.roster = s.roster.filter (·.station ≠ n) ∧
    u.ticketStore.index = s.ticketStore.index.filter (·.owner ≠ n) ∧ u.link = s.link ∧
    (∀ c, (u.chan c).quiet.waitList = (s.chan c).quiet.waitList.filter (· ≠ .station n) ∧
      ((s.chan c).quiet.settled = false → (u.chan c).quiet = { (s.chan c).quiet with
        waitList := (s.chan c).quiet.waitList.filter (· ≠ .station n) })) ∧
    (generalCount u.port.events < 30 → (∃ e ∈ u.port.events, e.kind = .peerDropped ∧ e.station = some n) ∧
      ∀ t ∈ s.ticketStore.tickets, ∀ h, t.state = .handover → t.handover = some h → h.target = n →
        ∃ e ∈ u.port.events, e.kind = .handoverFailed ∧ e.ticket = some t.number ∧ e.line = some t.line.val ∧
          e.station = some n ∧ e.outcome = some (.handover .peerGone)) ∧
    (TicketsOk s.ticketStore → ∀ t ∈ s.ticketStore.tickets, ∀ h, t.state = .handover → t.handover = some h →
      h.target = n → { t with state := if h.priorRetest then .retest else .opened, handover := none } ∈
        u.ticketStore.tickets) ∧
    (∀ c b, (s.chan c).session.state = .deferred → (s.chan c).session.deferredBy = some (.station n) →
      (s.chan c).session.block = b → (∃ q ∈ p.quiets, q.block = b) →
      (∀ o ∈ s.roster, o.station ≠ n → ∀ q ∈ o.quiets, q.block ≠ b) → quietStandsOn s c.other b = false →
      (s.chan c).session.relayStep = none → (s.chan c).session.frozenAtClaim = false →
      (u.chan c).session.state = .connecting ∧ (u.chan c).session.relayStep = some 1) ∧
    ((∀ t ∈ s.ticketStore.tickets, t.state ≠ .handover) → (∀ c, (s.chan c).session.state ≠ .deferred) →
      u.ticketStore.tickets = s.ticketStore.tickets ∧ (∀ c, (u.chan c).session = (s.chan c).session) ∧
      (generalCount s.port.events < 30 →
        u.port = portWith { kind := .peerDropped, station := some n } s)))

/-- Tier 2. Foreign quiets (R99, R100, R132, R133). A QUIET for a free block joins its sender's quiet blocks with a
lapse of 10,500 ms, the block listed longest making room; a reassertion or a QUIET for a block already quieted only
notes its sender. A session CLAIMED on the block is DEFERRED; one from step 3 on, or in RELEASING, answers QUIET-BUSY
and owes a clear. A QUIET-END or a lapse removes a listed block, and changes nothing on one that is not listed. That an
own record PENDING on a block freed so, or by a block that made room, stays PENDING here, until its row
QUIET_REQUEST_QUEUED, is the model's choice (log entry 41). -/
def Obligations.ForeignQuietsAreRecordedAndEnd : Prop :=
  (∀ (s : State) (n : Station) (b : Block) (p : Peer), Heard s n (.quiet b) → s.peer n = some p →
    ((∃ o ∈ s.roster, ∃ q ∈ o.quiets, q.block = b) ∨ ownQuietOn s b = true →
      exec (.quietTaken n b) s = .next (s.heard n)) ∧
    ((∀ o ∈ s.roster, ∀ q ∈ o.quiets, q.block ≠ b) → ownQuietOn s b = false →
      (∀ c, (s.chan c).quiet.phase ≠ .requested) → (∀ c, (s.chan c).session.state ≠ .deferred) →
      let v := { s.answered with roster := rosterWith n (fun q => { q with
        lastHeard := s.now
        quiets := (if q.quiets.length < 2 then q.quiets else q.quiets.drop 1) ++
          [⟨b, s.now + 10500⟩] }) s.roster }
      RosterOk s.roster →
      ((∀ c, (s.chan c).session.block ≠ b ∨ (s.chan c).session.state ∉ [.claimed, .connecting, .releasing] ∨
          ((s.chan c).session.state = .connecting ∧ (s.chan c).session.relayStep.getD 0 < 3)) →
        exec (.quietTaken n b) s = .next v) ∧
      (∀ c, (s.chan c.other).session.block ≠ b → (s.chan c).session.block = b →
        ((s.chan c).session.state = .claimed → exec (.quietTaken n b) s = .next (v.updSession c fun x =>
          { x with state := .deferred, deferredBy := some (.station n) })) ∧
        ((s.chan c).session.state = .releasing ∨
            ((s.chan c).session.state = .connecting ∧ 3 ≤ (s.chan c).session.relayStep.getD 0) → UrgentRoom s →
          exec (.quietTaken n b) s = .next
            ((v.updClears c (· ++ [⟨b, n, false, false⟩])).updLink (linkWith (.quietBusy b n) (some c))))))) ∧
  (∀ (s : State) (n : Station) (b : Block), RosterOk s.roster → (∀ c, (s.chan c).session.state ≠ .deferred) →
    (Heard s n (.quietEnd b) → exec (.quietEndTaken n b) s = .next { s.answered with
      roster := rosterWith n (fun q => { q with
        lastHeard := s.now, quiets := q.quiets.filter (·.block ≠ b) }) s.roster }) ∧
    (s.onLine = true → exec (.foreignQuietLapse n b) s = .next { s with
      roster := rosterWith n (fun q => { q with quiets := q.quiets.filter (·.block ≠ b) }) s.roster })) ∧
  (∀ (s : State) (n : Station) (b : Block) (c : Channel) (p : Peer), s.onLine = true → s.peer n = some p →
    (∃ q ∈ p.quiets, q.block = b) → (∀ o ∈ s.roster, o.station ≠ n → ∀ q ∈ o.quiets, q.block ≠ b) →
    (s.chan c).session.state = .deferred → (s.chan c).session.deferredBy = some (.station n) →
    (s.chan c).session.block = b → quietStandsOn s c.other b = false → (s.chan c).session.relayStep = none →
    (s.chan c).session.frozenAtClaim = false → ∃ u, exec (.foreignQuietLapse n b) s = .next u ∧
      (u.chan c).session = { (s.chan c).session with
        state := .connecting, relayStep := some 1, deferredBy := none })

/-! ### Tickets between stations -/

/-- Tier 2. Notes and additions (R145, R150, R153, R154). A note acts entry by entry, in order: an open entry for a
line without an own ticket enters the index; with one, the own ticket merges, or reasserts where its note was taken
and this station's number is the lower; a closed entry removes its owner's index entry. An addition is appended at
the owner alone, where number and line name a ticket. That one of class PASS is stored with the deciding value it
carries is the model's choice (log entry 48). -/
def Obligations.NotesAndAdditionsActOnTheTicketStore : Prop :=
  (∀ (s : State) (n : Station) (es : List NoteEntry), Heard s n (.ticketNote es) →
    exec (.ticketNoteTaken n es) s = .next (es.foldl (fun r e => takeNoteEntry n e r) (s.heard n))) ∧
  (∀ (s : State) (n : Station) (e : NoteEntry),
    (e.isOpen = true → s.ticketStore.byLine e.line = none →
      takeNoteEntry n e s = s.updTickets (putIndex ⟨e.line, n, e.number, e.cls⟩)) ∧
    (e.isOpen = false → takeNoteEntry n e s = s.updTickets fun ts => { ts with
      index := if (∃ x, ts.indexFor e.line = some x ∧ x.owner = n ∧ x.number = e.number) then
        ts.index.filter (·.line ≠ e.line) else ts.index }) ∧
    (∀ t m, e.isOpen = true → s.ticketStore.byLine e.line = some t → s.store.station = some m →
      (t.noteTaken = true → m < n → takeNoteEntry n e s =
        s.updTickets (updateTicket t.number fun t => { t with announcePending := true })) ∧
      (t.noteTaken = false ∨ n ≤ m → generalCount s.port.events < 30 → NoticeRoom s →
        let o := t.observations.reverse.find? fun o => o.cls.failing && !o.noisy
        ∃ u, takeNoteEntry n e s = u ∧
          u.ticketStore.tickets = s.ticketStore.tickets.filter (·.number ≠ t.number) ∧
          u.ticketStore.index = (putIndex ⟨e.line, n, e.number, e.cls⟩ s.ticketStore).index ∧
          (t.noteTaken = false → u.ticketStore.closedNotes = s.ticketStore.closedNotes) ∧
          (t.noteTaken = true → ⟨t.line, t.number, false, t.cls⟩ ∈ u.ticketStore.closedNotes) ∧
          u.port = portWith { kind := .ticketMerged, ticket := some t.number, line := some t.line.val,
                              station := some n } s ∧
          (∀ k, t.state ≠ .cleared → o = some k →
            u.link = linkWith (.ticketAdd n e.number e.line ⟨k.cls, k.deciding⟩) none s.link) ∧
          (t.state = .cleared ∨ o = none → u.link = s.link)))) ∧
  (∀ (e : IndexEntry) (ts : TicketStore),
    ((∃ x ∈ ts.index, x.line = e.line) →
      (putIndex e ts).index = ts.index.map fun x => if x.line = e.line then e else x) ∧
    ((∀ x ∈ ts.index, x.line ≠ e.line) → ts.index.length < 256 → (putIndex e ts).index = ts.index ++ [e]) ∧
    ((∀ x ∈ ts.index, x.line ≠ e.line) → 256 ≤ ts.index.length → (putIndex e ts).index = ts.index)) ∧
  (∀ (s : State) (n o : Station) (k : TicketNo) (l : Line) (obs : ObsData), Heard s n (.ticketAdd o k l obs) →
    (s.store.station ≠ some o ∨ (∀ t, s.ticketStore.byNumber k = some t → t.line ≠ l) →
      exec (.ticketAddTaken n o k l obs) s = .next (s.heard n)) ∧
    (∀ t, s.store.station = some o → s.ticketStore.byNumber k = some t → t.line = l → TicketsOk s.ticketStore →
      let seen : List Observation := (if t.observations.length < 8 then t.observations else t.observations.drop 1) ++
        [⟨s.store.clock, .peer n, obs.cls, obs.deciding, false⟩]
      (obs.cls = .pass → exec (.ticketAddTaken n o k l obs) s = .next ((s.heard n).updTickets
        (updateTicket k fun t => { t with observations := seen }))) ∧
      (obs.cls ≠ .pass → t.state ≠ .cleared → exec (.ticketAddTaken n o k l obs) s = .next ((s.heard n).updTickets
        (updateTicket k fun t => { t with
          observations := seen, cls := obs.cls, streak := 0
          announcePending := t.announcePending || (t.noteTaken && decide (t.cls ≠ obs.cls)) }))) ∧
      (obs.cls ≠ .pass → t.state = .cleared → generalCount s.port.events < 30 →
        exec (.ticketAddTaken n o k l obs) s = .next
        { (s.heard n).updTickets (updateTicket k fun t => { t with
            observations := seen, cls := obs.cls, streak := 0, state := .opened, announcePending := true }) with
          port := portWith { kind := .ticketOpened, ticket := some k, line := some l.val,
                             outcome := some (.cls obs.cls) } s })))

/-- Tier 2. What a result does at the Ticket Store (R144, R146 to R149). A failing one that is not NOISY is appended to
the line's own ticket, else goes to the index entry's owner as a TICKET-ADD, else opens a ticket, else is reported as
TICKET-STORE-FULL; a NOISY failing one is appended to an own ticket and opens none; PASS does nothing. A retest's result
joins its ticket in RETEST and moves its streak, count and next due: the second PASS clears the ticket, the last count
takes its plan away. The last answer of an automatic measurement hands its result there, fixes the item's outcome and
releases the session (R169, R170). That the next due after a measured result is at most the clock's largest value is the
model's choice (log entry 18). -/
def Obligations.ResultsReachTheTicketStore : Prop :=
  (∀ (s : State) (l : Line) (o : Observation),
    let found := s.ticketStore.byLine l
    let event := fun (k : EventKind) (n : Option TicketNo) => portWith
      { kind := k, ticket := n, line := some l.val, outcome := some (.cls o.cls) } s
    (o.cls = .pass → storeResult l o s = ((none, none), s)) ∧
    (o.cls ≠ .pass → o.noisy = true → found = none → storeResult l o s = ((none, none), s)) ∧
    (o.cls ≠ .pass → ∀ t, found = some t →
      storeResult l o s = ((some t.number, none), appendObservation t.number o s)) ∧
    (o.cls ≠ .pass → o.noisy = false → found = none →
      (∀ e, s.ticketStore.indexFor l = some e → storeResult l o s =
        ((some e.number, some e.owner), offerNotice (.ticketAdd e.owner e.number l ⟨o.cls, o.deciding⟩) s)) ∧
      (s.ticketStore.indexFor l = none → generalCount s.port.events < 30 →
        (96 ≤ s.ticketStore.tickets.length → (∀ t ∈ s.ticketStore.tickets, t.state ≠ .cleared) →
          storeResult l o s = ((none, none), { s with port := event .ticketStoreFull none })) ∧
        (s.ticketStore.tickets.length < 96 → TicketsOk s.ticketStore →
          ∀ g, (o.source, g) ∈ [(ObsSource.ownOperator, TicketOrigin.operator), (.ownSweep, .sweep),
              (.ownRetest, .retest)] →
            ∃ n, (∀ t ∈ s.ticketStore.tickets, t.number ≠ n) ∧ storeResult l o s = ((some n, none), { s with
              ticketStore := { s.ticketStore with
                tickets := s.ticketStore.tickets ++
                  [⟨n, l, .opened, o.cls, s.store.clock, g, [o], none, 0, true, false, false, none, none⟩]
                nextNumber := if n = 9999 then 1 else n + 1 }
              port := event .ticketOpened (some n) }))))) ∧
  (∀ (s : State) (t : Ticket) (o : Observation), s.ticketStore.byNumber t.number = some t →
    let seen := (if t.observations.length < 8 then t.observations else t.observations.drop 1) ++ [o]
    let put := fun u : Ticket => s.updTickets (updateTicket t.number fun _ => u)
    let append := fun f : Ticket → Ticket => s.updTickets (updateTicket t.number f)
    let told := fun (k : EventKind) (u : Ticket) => { put u with
      port := portWith { kind := k, ticket := some t.number, line := some t.line.val, outcome := some (.cls u.cls) } s }
    (o.cls = .pass ∨ o.noisy = true → TicketsOk s.ticketStore →
      appendObservation t.number o s = append fun _ => { t with observations := seen }) ∧
    (o.cls ≠ .pass → o.noisy = false → TicketsOk s.ticketStore →
      (t.state ≠ .cleared → appendObservation t.number o s = append fun _ => { t with
        observations := seen, cls := o.cls, streak := 0
        announcePending := t.announcePending || (t.noteTaken && decide (t.cls ≠ o.cls)) }) ∧
      (t.state = .cleared → generalCount s.port.events < 30 → appendObservation t.number o s =
        told .ticketOpened { t with
          observations := seen, cls := o.cls, streak := 0, state := .opened, announcePending := true })) ∧
    (t.state = .handover ∨ t.state = .cleared → ∀ l, retestResult t.number l o s = s) ∧
    (t.state = .opened → ∀ l, retestResult t.number l o s = (storeResult l o s).2) ∧
    (∀ l p, t.state = .retest → t.plan = some p → generalCount s.port.events < 30 →
      let plan := fun left => some (⟨p.interval, left, min 4294967295 (s.store.clock + p.interval * 60)⟩ : RetestPlan)
      let failed := { t with
        observations := seen, cls := o.cls, streak := 0
        announcePending := t.announcePending || (t.noteTaken && decide (t.cls ≠ o.cls)) }
      let passed := { t with observations := seen, streak := t.streak + 1 }
      (o.noisy = true → retestResult t.number l o s =
        put { t with observations := seen, plan := plan p.remaining }) ∧
      (o.noisy = false → o.cls ≠ .pass →
        (2 ≤ p.remaining → retestResult t.number l o s = put { failed with plan := plan (p.remaining - 1) }) ∧
        (p.remaining = 1 → retestResult t.number l o s =
          told .retestExhausted { failed with plan := none, state := .opened })) ∧
      (o.noisy = false → o.cls = .pass →
        (t.streak = 1 → retestResult t.number l o s =
          told .ticketCleared { passed with state := .cleared, plan := none, announcePending := t.noteTaken }) ∧
        (t.streak = 0 → 2 ≤ p.remaining →
          retestResult t.number l o s = put { passed with plan := plan (p.remaining - 1) }) ∧
        (t.streak = 0 → p.remaining = 1 → retestResult t.number l o s =
          told .retestExhausted { passed with plan := none, state := .opened })))) ∧
  (∀ (s : State) (n : TicketNo) (l : Line) (o : Observation), s.ticketStore.byNumber n = none →
    retestResult n l o s = s) ∧
  (∀ (s : State) (c : Channel) (a : HeadAnswer) (q : HeadRequest) (k : Copies) (r r' : MeasureRecord) (i : Item),
    (s.chan c).engine.request = some q → (s.chan c).engine.copies = some k → (s.chan c).engine.record = some r →
    afterReading k q.reading (limitAnswer q.samples a) r = (r', none) → needsQuiet r'.stages = false →
    (s.chan c).session.purpose ≠ .operator → s.auto.item = some i → i.outcome = none → i.aborted = false →
    quietHolder s (s.chan c).session.block = none →
    let obs := fun src => (⟨s.store.clock, src, classOf k r', decidingOf k r' (classOf k r'), r'.noisy⟩ : Observation)
    ∃ t, exec (.headAnswer c a) s = .next t ∧
      (t.chan c).session = { (s.chan c).session with
        state := .releasing, relayStep := some 5, lastResult := some (classified k r') } ∧
      (t.chan c).engine.phase = .idle ∧
      t.auto.item = some { i with
        outcome := some (if r'.noisy then .noisy else if classOf k r' = .pass then .pass else .fail) } ∧
      (i.purpose = .sweep → t.ticketStore = (storeResult i.line (obs .ownSweep) s).2.ticketStore) ∧
      (∀ n, i.purpose = .retest → i.ticket = some n →
        t.ticketStore = (retestResult n i.line (obs .ownRetest) s).ticketStore))

/-- Tier 2. A TICKET-NOTE is given up to four entries as its attempt starts, the closed-note list's first, oldest
first, then the announce-pending tickets that hold no note back, in store order. Taken, its closed entries leave the
list, an open entry sets note taken, and an entry that still matches its ticket clears announce pending; dropped after
its fourth void it changes neither (R151, R152). -/
def Obligations.NotesCarryWhatIsPending : Prop :=
  (∀ ts : TicketStore,
    let pending := (ts.tickets.filter fun t => t.announcePending && !t.noteHeldBack).map fun t =>
      (⟨t.line, t.number, decide (t.state ≠ .cleared), t.cls⟩ : NoteEntry)
    noteEntries ts = ((ts.closedNotes ++ pending).take 4, min 4 ts.closedNotes.length)) ∧
  (∀ (s : State) (f : QueuedFrame) (es : List NoteEntry) (k : Nat),
    s.link.wire = some ⟨f.entry, .ticketNote es, k⟩ → LinkOk s.link → f ∈ s.link.queue → f.body = .noteMark →
    s.inFarewell = false →
    let out := { s.link with queue := s.link.queue.filter (·.entry ≠ f.entry), wire := none }
    let roomed := { s.auto with waitingForRoom := if f.first = 0 then s.auto.waitingForRoom else false }
    exec (.ownAttemptEnd (.slots true false)) s = .next { s with
      link := out, auto := roomed
      ticketStore := { s.ticketStore with
        closedNotes := s.ticketStore.closedNotes.filter (· ∉ es.take k)
        tickets := s.ticketStore.tickets.map fun t => { t with
          noteTaken := t.noteTaken || decide (∃ e ∈ es.drop k, e.number = t.number ∧ e.isOpen = true)
          announcePending := t.announcePending &&
            decide (⟨t.line, t.number, decide (t.state ≠ .cleared), t.cls⟩ ∉ es.drop k) } } } ∧
    (f.voids = 3 → ∃ t, exec (.ownAttemptEnd (.slots true true)) s = .next t ∧ t.ticketStore = s.ticketStore ∧
      t.link = { out with linkError := true } ∧ t.auto = roomed))

/-- Tier 2. A handover (R160 to R163): TICKET HANDOVER's checks in order, then the ticket is in HANDOVER and a
HAND-OFFER queued. Its target refuses or takes the ticket in; an accept removes the ticket, late or in time; a refusal
or 3,000 ms return it. Frames for others, or that name no such ticket, only note their sender. That the next due of a
plan handed in is at most the clock's largest value, and that an observation of class PASS is handed in with the
deciding value it carries, are the model's choices (log entries 18 and 48). -/
def Obligations.HandoversRunToTheirEnd : Prop :=
  (∀ (s : State) (n : TicketNo) (m : Nat), s.port.phase = .expectCommand →
    ((m < 1 ∨ 15 < m ∨ s.store.station = some m) → Answers (.ticketHandover n m) s (.badArgument 2) s) ∧
    (1 ≤ m → m ≤ 15 → s.store.station ≠ some m →
      (s.ticketStore.byNumber n = none → Answers (.ticketHandover n m) s (.noTicket n) s) ∧
      (∀ t, s.ticketStore.byNumber n = some t →
        (s.link.state ≠ .active → Answers (.ticketHandover n m) s (.linkDown s.link.state) s) ∧
        (s.link.state = .active → s.peer m = none → Answers (.ticketHandover n m) s (.noPeer m) s) ∧
        (s.link.state = .active → (s.peer m).isSome = true →
          (t.state = .handover ∨ t.state = .cleared → Answers (.ticketHandover n m) s .wrongState s) ∧
          (t.state = .opened ∨ t.state = .retest →
            ((∃ c, linkedTo (s.chan c).session n = true) → Answers (.ticketHandover n m) s (.busy none) s) ∧
            ((∀ c, linkedTo (s.chan c).session n = false) → NoticeRoom s →
              let obs : ObsData := match t.observations.getLast? with
                | some o => ⟨o.cls, o.deciding⟩
                | none => ⟨t.cls, none⟩
              let offer : HandOffer := ⟨m, t.number, t.line, t.cls, s.store.clock - t.openedAt,
                t.plan.map fun p => ⟨p.interval, p.remaining, p.nextDue - s.store.clock⟩, obs⟩
              Answers (.ticketHandover n m) s (.accepted .nothing) { s with
                ticketStore := updateTicket n (fun t => { t with
                  state := .handover
                  handover := some ⟨m, s.now, t.state == .retest, false⟩ }) s.ticketStore
                link := linkWith (.handOffer offer) none s.link })))))) ∧
  (∀ (s : State) (n : Station) (o : HandOffer), Heard s n (.handOffer o) →
    (s.store.station ≠ some o.target → exec (.handOfferTaken n o) s = .next (s.heard n)) ∧
    (s.store.station = some o.target → NoticeRoom s →
      let refusal := fun r => { s.heard n with link := linkWith (.handRefuse n o.number r) none s.answered.link }
      (s.link.state = .joining → exec (.handOfferTaken n o) s = .next (refusal .notActive)) ∧
      (s.link.state = .active → (s.ticketStore.byLine o.line).isSome = true →
        exec (.handOfferTaken n o) s = .next (refusal .duplicate)) ∧
      (s.link.state = .active → s.ticketStore.byLine o.line = none →
        (96 ≤ s.ticketStore.tickets.length → (∀ t ∈ s.ticketStore.tickets, t.state ≠ .cleared) →
          exec (.handOfferTaken n o) s = .next (refusal .full)) ∧
        (s.ticketStore.tickets.length < 96 → TicketsOk s.ticketStore → generalCount s.port.events < 30 →
          ∃ u k, exec (.handOfferTaken n o) s = .next u ∧ (∀ t ∈ s.ticketStore.tickets, t.number ≠ k) ∧
            u.ticketStore.tickets = s.ticketStore.tickets ++ [{
              number := k, line := o.line, state := if o.plan.isSome then .retest else .opened, cls := o.cls
              openedAt := s.store.clock - o.age, origin := .handedIn
              observations := [⟨s.store.clock, .peer n, o.obs.cls, o.obs.deciding, false⟩]
              plan := o.plan.map fun p => ⟨p.interval, p.remaining, min 4294967295 (s.store.clock + p.dueIn)⟩
              streak := 0, announcePending := true, noteTaken := false, noteHeldBack := true, handover := none
              previousOwner := some (n, o.number) }] ∧
            u.ticketStore.index = s.ticketStore.index.filter (·.line ≠ o.line) ∧
            u.link = linkWith (.handAccept n o.number k) none s.answered.link ∧
            u.port = portWith { kind := .ticketHandedIn, ticket := some k, line := some o.line.val,
                                station := some n, outcome := some (.cls o.cls) } s)))) ∧
  (∀ (s : State) (m o : Station) (k new : TicketNo) (r : RefuseReason), TicketsOk s.ticketStore →
    (Heard s m (.handAccept o k new) →
      (s.store.station ≠ some o ∨ s.ticketStore.byNumber k = none ∨
          (∃ t, s.ticketStore.byNumber k = some t ∧ t.handover = none) →
        exec (.handAcceptTaken m o k new) s = .next (s.heard m)) ∧
      (∀ t h, s.store.station = some o → s.ticketStore.byNumber k = some t → t.handover = some h →
        (h.target ≠ m ∨ (t.state ≠ .handover ∧ h.lapsed = false) →
          exec (.handAcceptTaken m o k new) s = .next (s.heard m)) ∧
        (h.target = m → (t.state = .handover ∨ h.lapsed = true) → generalCount s.port.events < 30 →
          exec (.handAcceptTaken m o k new) s = .next { s.heard m with
            ticketStore := { s.ticketStore with tickets := s.ticketStore.tickets.filter (·.number ≠ k) }
            port := portWith { kind := if t.state = .handover then .handoverDone else .handoverLate
                               ticket := some k, line := some t.line.val, station := some m } s }))) ∧
    (Heard s m (.handRefuse o k r) →
      (s.store.station ≠ some o ∨ s.ticketStore.byNumber k = none ∨
          (∃ t, s.ticketStore.byNumber k = some t ∧ t.handover = none) →
        exec (.handRefuseTaken m o k r) s = .next (s.heard m)) ∧
      (∀ t h, s.store.station = some o → s.ticketStore.byNumber k = some t → t.handover = some h →
        (h.target ≠ m ∨ (t.state ≠ .handover ∧ h.lapsed = false) →
          exec (.handRefuseTaken m o k r) s = .next (s.heard m)) ∧
        (h.target = m → t.state ≠ .handover → h.lapsed = true → exec (.handRefuseTaken m o k r) s =
          .next ((s.heard m).updTickets (updateTicket k fun t => { t with handover := none }))) ∧
        (h.target = m → t.state = .handover → generalCount s.port.events < 30 →
          exec (.handRefuseTaken m o k r) s = .next { s.heard m with
            ticketStore := updateTicket k (fun t => { t with
              state := if h.priorRetest then .retest else .opened, handover := none }) s.ticketStore
            port := portWith { kind := .handoverFailed, ticket := some k, line := some t.line.val,
                               station := some m, outcome := some (.handover (.refused r)) } s })))) ∧
  (∀ (s : State) (k : TicketNo), TicketsOk s.ticketStore →
    ((∀ t, s.ticketStore.byNumber k = some t → t.state ≠ .handover) → exec (.handoverTimeout k) s = .next s) ∧
    (∀ t h, s.port.phase ≠ .starting → s.ticketStore.byNumber k = some t → t.state = .handover →
      t.handover = some h → generalCount s.port.events < 30 → exec (.handoverTimeout k) s = .next { s with
        ticketStore := updateTicket k (fun t => { t with
          state := if h.priorRetest then .retest else .opened
          handover := some { h with lapsed := true } }) s.ticketStore
        port := portWith { kind := .handoverFailed, ticket := some k, line := some t.line.val,
                           station := some h.target, outcome := some (.handover .timeout) } s }))

/-! ### The line -/

/-- Tier 2. Joining and losing the line (R89 to R95, R103): REJOIN, a line recessive again and another station's frame
heard in LOST enter JOINING, each from its cause; the join settle ends in ACTIVE; the presence timer sets the mark; a
stuck line ends in LOST; a clash, and every fitting frame that bears the own number, in MUTE; in a farewell each of
these ends the farewell at once; CLEAR LINK STATUS clears the two indications. In any other state of the link each row
changes nothing, but for the slot that a frame with the own number is answered in. That a clash or a stuck line asks for
no own frame on the wire, and what the rows do in STARTING, is the model's reading (log entries 11, 26 and 33); that the
mark waits for its row, its choice (log entry 41). -/
def Obligations.TheLineIsJoinedAndLost : Prop :=
  (∀ s : State, s.port.phase = .expectCommand → Answers .clearLinkStatus s (.accepted .nothing)
    { s with link := { s.link with linkError := false, clash := false } }) ∧
  (∀ s : State, s.port.phase = .expectCommand →
    (s.link.state = .lost → s.link.cause = some .unheard →
      ∃ u, Answers .rejoin s (.accepted .nothing) u ∧ JoinsTheLine s u) ∧
    (s.link.state ≠ .lost ∨ s.link.cause ≠ some .unheard → Answers .rejoin s .wrongState s)) ∧
  (∀ s : State, s.link.state = .lost → s.link.cause = some .stuck → s.softReset = none →
    (∃ u, exec .stuckCleared s = .next u ∧ JoinsTheLine s u) ∧ exec .stuckLine s = .next s) ∧
  (∀ s : State, s.link.state = .lost → s.link.cause = some .unheard → s.softReset = none →
    (∀ n b, frameFits n b = true → s.store.station ≠ some n → ∃ u, exec (.lostFrameHeard n b) s = .next u ∧
      u.link.state = .joining ∧ (u.peer n).isSome = true) ∧
    (generalCount s.port.events < 30 → exec .stuckLine s = .next { s with
      link := { s.link with cause := some .stuck }
      port := portWith { kind := .linkState, outcome := some (.link .lost), linkCause := some .stuck } s })) ∧
  (∀ s : State, s.onLine = true →
    (s.link.state = .joining → generalCount s.port.events < 30 → exec .joinSettleEnd s = .next { s with
      link := { s.link with state := .active, joinEnd := none }
      port := portWith { kind := .linkState, outcome := some (.link .active), linkCause := s.link.cause } s }) ∧
    exec .presenceTimer s = .next { s with link := { s.link with
      presenceDue := some (s.now + 1000)
      presenceMark := s.link.presenceMark || !s.link.queue.any (·.body == .presenceMark) } }) ∧
  (∀ s : State, s.onLine = true → s.inFarewell = false →
    (∃ u, exec .stuckLine s = .next u ∧ LosesTheLine s .lost (some .stuck) u) ∧
    (∃ u, exec .clashFound s = .next u ∧ LosesTheLine s .mute none u) ∧
    (∃ u, exec .ownNumberFrame s = .next u ∧ LosesTheLine s .mute none u) ∧
    (∀ n b, frameFits n b = true → s.store.station = some n →
      ∃ u, exec (frameRow n b) s = .next u ∧ LosesTheLine s .mute none u)) ∧
  (∀ s : State, s.link.state = .lost → s.softReset = none → s.onLine = false →
    (∃ u, exec .ownNumberFrame s = .next u ∧ LosesTheLine s .mute none u) ∧
    ∀ n b, frameFits n b = true → s.store.station = some n → ∀ i ∈ [frameRow n b, .lostFrameHeard n b],
      ∃ u, exec i s = .next u ∧ LosesTheLine s .mute none u) ∧
  (∀ s : State, s.inFarewell = true → ∀ i, i ∈ [Instr.stuckLine, .clashFound, .ownNumberFrame] ∨
      (∃ n b, i = frameRow n b ∧ frameFits n b = true ∧ s.store.station = some n) → ∃ u,
    exec i s = .next u ∧ u.inFarewell = false ∧ u.link.queue = [] ∧ u.link.waiting = [] ∧ u.link.wire = none ∧
    u.link.state = s.link.state ∧ u.port = s.port) ∧
  (∀ s : State,
    let lost := fun k => s.link.state = .lost ∧ s.link.cause = some k ∧ s.softReset = none
    let on := s.onLine = true
    (¬ (on ∧ s.link.state = .joining) → exec .joinSettleEnd s = .next s) ∧
    (¬ on → exec .presenceTimer s = .next s) ∧
    (¬ on → s.inFarewell = false → exec .clashFound s = .next s) ∧
    (¬ on → s.inFarewell = false → ¬ lost .unheard → exec .stuckLine s = .next s) ∧
    (¬ lost .stuck → exec .stuckCleared s = .next s) ∧
    (∀ n b, frameFits n b = false ∨ ¬ (s.link.state = .lost ∧ s.softReset = none) ∨
      (¬ lost .unheard ∧ s.store.station ≠ some n) → exec (.lostFrameHeard n b) s = .next s) ∧
    (¬ on → s.inFarewell = false → ¬ (s.link.state = .lost ∧ s.softReset = none) → ∀ i, i = .ownNumberFrame ∨
        (∃ n b, i = frameRow n b ∧ frameFits n b = true ∧ s.store.station = some n) → exec i s = .next
      (if (s.link.state = .joining ∨ s.link.state = .active) ∧ s.link.wire = none then s.answered else s)))

/-- Tier 2. An own attempt (R12, R77, R80, R81, R85, R86, R117, R118, R120 to R122, R130, R131, R139): the frame of
lowest urgency, then of earliest entry, goes on the wire; a loss is counted and ages it once; a void is counted, the
fourth drops it with LINK-ERROR; a taken frame leaves the queue and acts; an unheard one in ACTIVE with a roster loses
the line. A claim whose trunk went OUT under its attempt is withdrawn at the loss or the void, and not sent again. A
cancel pending on a claim acts before the line is lost, whether it was unheard, stuck or a clash (the last two: log
entry 33). -/
def Obligations.OwnAttemptsStartAndEnd : Prop :=
  (∀ s : State, s.link.queue = [] ∨ s.link.wire.isSome = true ∨ (s.onLine = false ∧ s.inFarewell = false) →
    exec .frameAttemptStart s = .next s) ∧
  (∀ (s : State) (f : QueuedFrame), s.onLine = true → s.link.wire = none → LinkOk s.link → f ∈ s.link.queue →
    (∀ g ∈ s.link.queue, f.urgency < g.urgency ∨ f.urgency = g.urgency ∧ f.entry ≤ g.entry) →
    (∀ b, f.body = .built b → (∀ l t p c, b ≠ .claim l t p c) →
      exec .frameAttemptStart s = .next { s with link := { s.link with wire := some ⟨f.entry, b, 0⟩ } }) ∧
    (∀ l t p k c, f.body = .built (.claim l t p k) → f.origin = some c → exec .frameAttemptStart s = .next
      ({ s with link := { s.link with wire := some ⟨f.entry, .claim l t p k, 0⟩ } }.updClaim c fun k =>
        { k with stage := .onWire })) ∧
    (f.body = .presenceMark → ∃ hs qs, exec .frameAttemptStart s = .next { s with link := { s.link with
        wire := some ⟨f.entry, .presence (s.link.state == .joining) hs qs, 0⟩ } } ∧
      (∀ h, h ∈ hs ↔ ∃ c, (s.chan c).claim.stage = .held ∧
        h = ⟨(s.chan c).session.line, (s.chan c).session.trunk, (s.chan c).session.purpose⟩) ∧
      ∀ b, b ∈ qs ↔ ∃ c, quietStandsOn s c b = true) ∧
    (∀ es k, f.body = .noteMark → noteEntries s.ticketStore = (es, k) → es ≠ [] →
      exec .frameAttemptStart s = .next { s with link := { s.link with
        wire := some ⟨f.entry, .ticketNote es, k⟩ } })) ∧
  (∀ (s : State) (w : Attempt) (f : QueuedFrame), s.link.wire = some w → LinkOk s.link → f ∈ s.link.queue →
    f.entry = w.entry →
    let lost : QueuedFrame := if 7 ≤ f.losses ∧ 2 ≤ f.first ∧ f.aged = false then
        { f with losses := 8, urgency := f.urgency - 1, aged := true }
      else { f with losses := min 8 (f.losses + 1) }
    let on := fun g => { s.link with
      queue := s.link.queue.map (fun x => if x.entry = f.entry then g else x), wire := none }
    let out := { s.link with queue := s.link.queue.filter (·.entry ≠ f.entry), wire := none }
    let roomed := { s.auto with waitingForRoom := if f.first = 0 then s.auto.waitingForRoom else false }
    (∀ b, f.body = .built b → (∀ l t p c, b ≠ .claim l t p c) → (∀ k, b ≠ .quiet k) →
      exec .arbitrationLoss s = .next { s with link := on lost } ∧
      (s.inFarewell = false → f.voids < 3 → ∀ how, how = .arbitrationMismatch ∨ (∃ h, how = .slots h true) →
        exec (.ownAttemptEnd how) s = .next { s with link := on { f with voids := f.voids + 1 } })) ∧
    (∀ l t p k c, f.body = .built (.claim l t p k) → f.origin = some c →
      (s.chan c).session.cancelPending = false → (s.chan c).claim.withdrawal = none →
      exec .arbitrationLoss s = .next ({ s with link := on lost }.updClaim c fun _ => ⟨.queued, none⟩) ∧
      (s.inFarewell = false → f.voids < 3 → exec (.ownAttemptEnd (.slots true true)) s = .next
        ({ s with link := on { f with voids := f.voids + 1 } }.updClaim c fun _ => ⟨.queued, none⟩))) ∧
    (∀ l t p k c, f.body = .built (.claim l t p k) → f.origin = some c → f.first ≤ 1 → s.inFarewell = false →
      s.link.claimFrame c = some f → (s.chan c).session.cancelPending = false →
      (s.chan c).claim.withdrawal = some .trunk →
      ∀ i ∈ [Instr.arbitrationLoss, .ownAttemptEnd (.slots true true), .ownAttemptEnd (.slots false true),
          .ownAttemptEnd .arbitrationMismatch], ∃ u, exec i s = .next u ∧
        ClaimWithdrawn ({ s with link := { s.link with wire := none } }.updClaim c fun _ => ⟨.queued, none⟩) c f none
          u) ∧
    (∀ t o, f.body = .built (.trunkNotice t o) → w.body = .trunkNotice t o → s.inFarewell = false →
      exec (.ownAttemptEnd (.slots true false)) s = .next { s with link := out, auto := roomed } ∧
      (f.voids = 3 → s.link.linkError = false → generalCount s.port.events < 30 →
        exec (.ownAttemptEnd (.slots true true)) s = .next { s with
          link := { out with linkError := true }, auto := roomed
          port := portWith { kind := .linkState, outcome := some .linkError } s })) ∧
    (∀ l t p k c, f.body = .built (.claim l t p k) → w.body = .claim l t p k → f.origin = some c →
      s.inFarewell = false → (s.chan c).session.state = .claiming → (s.chan c).session.cancelPending = false →
      (s.chan c).session.relayStep = none → (s.chan c).session.frozenAtClaim = false → s.watch.op = .off →
      quietedBy s c (s.chan c).session.block = none → ∃ u, exec (.ownAttemptEnd (.slots true false)) s = .next u ∧
        u.link = out ∧ (u.chan c).claim = ⟨.held, none⟩ ∧ (u.chan c).session.state = .connecting ∧
        (u.chan c).session.relayStep = some 1 ∧ (u.chan c).seq.drives.selector = true) ∧
    (∀ b c, f.body = .built (.quiet b) → w.body = .quiet b → f.origin = some c → s.inFarewell = false →
      (s.chan c).quiet.block = some b → (s.chan c).quiet.withdrawal = none → (s.chan c).session.state ≠ .idle →
      (s.chan c.other).session.block ≠ b → exec (.ownAttemptEnd (.slots true false)) s = .next
        (({ s with link := out, auto := roomed }.updQuiet c fun q =>
            { q with phase := .settling, takenAt := some s.now, settled := false }).updSession c fun x =>
          { x with quietHeld := some b })) ∧
    (∀ l t c, f.body = .built (.release l t) → w.body = .release l t → f.origin = some c → s.inFarewell = false →
      (s.chan c).session.state = .closing → ∃ u, exec (.ownAttemptEnd (.slots true false)) s = .next u ∧
        u.link = out ∧ (u.chan c).session.state = .idle ∧ (u.chan c).claim.stage = .none) ∧
    (s.inFarewell = false → s.link.state = .active → s.roster ≠ [] →
      ∃ u, exec (.ownAttemptEnd (.slots false false)) s = .next u ∧ LosesTheLine s .lost (some .unheard) u) ∧
    (∀ l t p k c, f.body = .built (.claim l t p k) → f.origin = some c → s.onLine = true → s.link.state = .active →
      s.inFarewell = false → s.roster ≠ [] → (s.chan c).session.cancelPending = true →
      (s.chan c).session.purpose = .operator → (s.chan c).command = some .access → s.done c = false →
      ∀ i ∈ [Instr.ownAttemptEnd (.slots false false), .stuckLine, .clashFound], ∃ u, exec i s = .next u ∧
        u.link.state = (if i = .clashFound then .mute else .lost) ∧
        ∃ e ∈ u.port.events, e.kind = .accessDone ∧ e.channel = some c ∧ e.outcome = some (.channel .cancelled))) ∧
  (∀ s : State, s.link.wire = none →
    exec .arbitrationLoss s = .next s ∧ ∀ how, exec (.ownAttemptEnd how) s = .next s)

/-- Tier 2. Entering the transmit queue (R82 to R85): the urgency-0 frame that has waited longest takes a free slot;
the oldest frame of the holding area enters where its urgency has room; then a set presence mark, then the note mark,
each while room remains after those before it. An urgency-0 frame that finds all 12 slots full displaces the newest
frame first queued at urgency 2 or 3 and not on the wire, whether others wait or not, else it waits. That a frame waits
behind those that wait already, though there is room, is the model's choice (log entry 16). -/
def Obligations.FramesEnterTheQueueInTheirOrder : Prop :=
  (∀ s : State, (s.link.waiting = [] ∨ 12 ≤ s.link.queue.length → exec .urgentFrameEnters s = .next s) ∧
    (∀ f rest, s.link.waiting = f :: rest → s.link.queue.length < 12 →
      exec .urgentFrameEnters s = .next { s with link := { s.link with
        waiting := rest, nextEntry := s.link.nextEntry + 1
        queue := s.link.queue ++ [newFrame f.body f.origin s.link.nextEntry] } })) ∧
  (∀ s : State, (s.link.holding = [] ∨ 8 ≤ lowCount s.link.queue ∨ s.link.waiting ≠ [] →
      exec .holdingAreaEnter s = .next s) ∧
    (∀ f rest, s.link.holding = f :: rest → lowCount s.link.queue < 8 → s.link.queue.length < 12 →
      s.link.waiting = [] → exec .holdingAreaEnter s = .next { s with link := { s.link with
        holding := rest, nextEntry := s.link.nextEntry + 1
        queue := s.link.queue ++ [newFrame f.body f.origin s.link.nextEntry] } })) ∧
  (∀ s : State, (s.onLine = false → exec .markEntersQueue s = .next s) ∧
    (s.onLine = true → s.link.waiting = [] →
      (s.link.presenceMark = true → lowCount s.link.queue + s.link.holding.length < 8 →
        s.link.queue.length + s.link.holding.length < 12 →
        exec .markEntersQueue s = .next { s with link := { s.link with
          presenceMark := false, nextEntry := s.link.nextEntry + 1
          queue := s.link.queue ++ [⟨.presenceMark, 3, 3, s.link.nextEntry, 0, 0, false, none⟩] } }) ∧
      (s.link.presenceMark = false → s.ticketStore.hasNotes = true → (∀ f ∈ s.link.queue, f.body ≠ .noteMark) →
        lowCount s.link.queue + s.link.holding.length < 8 → s.link.queue.length + s.link.holding.length < 12 →
        exec .markEntersQueue s = .next { s with link := { s.link with
          nextEntry := s.link.nextEntry + 1
          queue := s.link.queue ++ [⟨.noteMark, 2, 2, s.link.nextEntry, 0, 0, false, none⟩] } }))) ∧
  (∀ (b : FrameBody) (c : Option Channel) (s : State),
    (UrgentRoom s → offerUrgent b c s = { s with link := { s.link with
      nextEntry := s.link.nextEntry + 1, queue := s.link.queue ++ [newFrame (.built b) c s.link.nextEntry] } }) ∧
    (s.link.waiting ≠ [] ∧ s.link.queue.length < 12 ∨
        12 ≤ s.link.queue.length ∧ (∀ f ∈ s.link.queue, 2 ≤ f.first → s.link.onWire f = true) →
      offerUrgent b c s = { s with link := { s.link with
        waiting := s.link.waiting ++ [newFrame (.built b) c 0] } }) ∧
    (∀ pre f post, 12 ≤ s.link.queue.length → LinkOk s.link →
      s.link.queue = pre ++ f :: post → 2 ≤ f.first → s.link.onWire f = false →
      (∀ g ∈ post, 2 ≤ g.first → s.link.onWire g = true) →
      (offerUrgent b c s).link.queue = pre ++ post ++ [newFrame (.built b) c s.link.nextEntry] ∧
      (offerUrgent b c s).link.waiting = s.link.waiting ∧
      (f.body = .presenceMark → (offerUrgent b c s).link.presenceMark = true) ∧
      (∀ d, f.body = .built d → s.link.holding.length < 4 →
        (offerUrgent b c s).link.holding = s.link.holding ++ [{ f with voids := 0, losses := 0 }]))) ∧
  (∀ (b : FrameBody) (s : State), (NoticeRoom s → offerNotice b s = { s with link := linkWith b none s.link }) ∧
    (s.link.holding ≠ [] ∨ 8 ≤ lowCount s.link.queue → s.link.holding.length < 4 →
      (offerNotice b s).link = { s.link with holding := s.link.holding ++ [newFrame (.built b) none 0] }) ∧
    (∀ f rest, s.link.holding = f :: rest → rest.length = 3 →
      (offerNotice b s).link.holding = rest ++ [newFrame (.built b) none 0] ∧
      (offerNotice b s).link.linkError = true))

/-! ### Ticket commands -/

/-- Tier 2. TICKET OPEN, CLOSE and RETEST: their checks in order; the number given is the first free one from the
counter on, and the counter moves one past it, from 9,999 to 1; a full store evicts its first CLEARED ticket; a closed
ticket owes its closed entry by its state; a plan is clamped and stored whole (R142, R143, R151, R156 to R158). Its due
time is at most the clock's largest value, and count 0 is answered with the clamped interval and no due time: the
model's choices (log entries 18 and 46). -/
def Obligations.TicketCommandsKeepTheStore : Prop :=
  (∀ (s : State) (l : Line), s.port.phase = .expectCommand →
    (∀ k, k = none ∨ k = some .pass → Answers (.ticketOpen l k) s (.badArgument 2) s) ∧
    (∀ k : FaultClass, k ≠ .pass →
      (s.store.configured = false → Answers (.ticketOpen l (some k)) s .notConfigured s) ∧
      (s.store.configured = true →
        (∀ t, s.ticketStore.byLine l = some t → Answers (.ticketOpen l (some k)) s (.exists_ t.number) s) ∧
        (∀ e, s.ticketStore.byLine l = none → s.ticketStore.indexFor l = some e →
          Answers (.ticketOpen l (some k)) s (.ownedElsewhere e.owner e.number) s) ∧
        (s.ticketStore.byLine l = none → s.ticketStore.indexFor l = none →
          let made : TicketNo → Ticket := fun n =>
            ⟨n, l, .opened, k, s.store.clock, .manual, [], none, 0, true, false, false, none, none⟩
          (96 ≤ s.ticketStore.tickets.length → (∀ t ∈ s.ticketStore.tickets, t.state ≠ .cleared) →
            Answers (.ticketOpen l (some k)) s .storeFull s) ∧
          (s.ticketStore.tickets.length < 96 → TicketsOk s.ticketStore → ∃ n, 1 ≤ n ∧ n ≤ 9999 ∧
            (∀ t ∈ s.ticketStore.tickets, t.number ≠ n) ∧
            (∃ k, n = (s.ticketStore.nextNumber - 1 + k) % 9999 + 1 ∧
              ∀ j < k, ∃ t ∈ s.ticketStore.tickets, t.number = (s.ticketStore.nextNumber - 1 + j) % 9999 + 1) ∧
            Answers (.ticketOpen l (some k)) s (.accepted (.ticketNumber n)) { s with
              ticketStore := { s.ticketStore with
                tickets := s.ticketStore.tickets ++ [made n]
                nextNumber := if n = 9999 then 1 else n + 1 } }) ∧
          (∀ pre t post, s.ticketStore.tickets = pre ++ t :: post → 96 ≤ s.ticketStore.tickets.length →
            TicketsOk s.ticketStore → (∀ x ∈ pre, x.state ≠ .cleared) → t.state = .cleared →
            ∃ n u, Answers (.ticketOpen l (some k)) s (.accepted (.ticketNumber n)) u ∧
              u.ticketStore.tickets = pre ++ post ++ [made n] ∧ (∀ x ∈ pre ++ post, x.number ≠ n) ∧
              (∃ k, n = (s.ticketStore.nextNumber - 1 + k) % 9999 + 1 ∧
                ∀ j < k, ∃ x ∈ pre ++ post, x.number = (s.ticketStore.nextNumber - 1 + j) % 9999 + 1) ∧
              u.ticketStore.nextNumber = (if n = 9999 then 1 else n + 1) ∧
              (t.announcePending = false → u.ticketStore.closedNotes = s.ticketStore.closedNotes) ∧
              (t.announcePending = true → s.ticketStore.closedNotes.length < 16 → u.ticketStore.closedNotes =
                s.ticketStore.closedNotes ++ [⟨t.line, t.number, false, t.cls⟩])))))) ∧
  (∀ (s : State) (n : TicketNo), s.port.phase = .expectCommand →
    (s.ticketStore.byNumber n = none → Answers (.ticketClose n) s (.noTicket n) s ∧
      ∀ i k, Answers (.ticketRetest n i k) s (.noTicket n) s) ∧
    (∀ t, s.ticketStore.byNumber n = some t →
      (t.state = .handover → Answers (.ticketClose n) s .wrongState s) ∧
      (t.state ≠ .handover →
        let owes := if t.state = .cleared then t.announcePending else t.noteTaken
        let notes := if s.ticketStore.closedNotes.length < 16 then s.ticketStore.closedNotes
          else s.ticketStore.closedNotes.drop 1
        Answers (.ticketClose n) s (.accepted .nothing) { s with ticketStore := { s.ticketStore with
          tickets := s.ticketStore.tickets.filter (·.number ≠ n)
          closedNotes := if owes = true then notes ++ [⟨t.line, t.number, false, t.cls⟩]
            else s.ticketStore.closedNotes } }) ∧
      (∀ i k, t.state = .handover ∨ t.state = .cleared → Answers (.ticketRetest n i k) s .wrongState s) ∧
      (∀ i, t.state = .opened ∨ t.state = .retest → Answers (.ticketRetest n i 0) s
        (.accepted (.retestPlan (max 1 (min 240 i)) 0 none))
        { s with ticketStore := updateTicket n (fun _ => { t with plan := none, state := .opened }) s.ticketStore }) ∧
      (∀ i k, t.state = .opened ∨ t.state = .retest → 1 ≤ k →
        let j := max 1 (min 240 i)
        let due := min 4294967295 (s.store.clock + j * 60)
        Answers (.ticketRetest n i k) s (.accepted (.retestPlan j (min 15 k) (some due))) { s with
          ticketStore := updateTicket n (fun _ =>
            { t with plan := some ⟨j, min 15 k, due⟩, streak := 0, state := .retest }) s.ticketStore })))

/-! ### Automatic work -/

/-- Tier 2. The Automatic Engine (R166 to R168, R172 to R176, R179): SWEEP START sets a new record; RUN and STEP start
the engine after their checks; STOP, CONTINUE and ABORT act by the run state and the item; the arbiter chooses the
earliest due retest, else the line under the cursor, whose claim begins the automatic session, and in STEPPING with
nothing due it queues STEP-IDLE and halts. An engine frozen at a claim lets its session go on; one frozen at a request
asks again, past the watch, where the item still stands (R175, R192). ABORT reverses the item's session from whatever
state it has reached (R41, R176). That RUN and STEP leave the choice to the
arbiter's row, the position BAD-ARGUMENT gives a range, and the frames that go before the engine's, are the model's
reading (log entries 15, 36 and 16). -/
def Obligations.TheEngineIsSteeredAndChooses : Prop :=
  (∀ (s : State) (a b : Line) (g : StageSet) (n : SampleArg), s.port.phase = .expectCommand →
    (b < a → Answers (.sweepStart a b g n) s (.badArgument 1) s) ∧
    (a ≤ b → g = ⟨false, false, false, false, false⟩ → Answers (.sweepStart a b g n) s (.badArgument 3) s) ∧
    (a ≤ b → g ≠ ⟨false, false, false, false, false⟩ →
      (s.auto.run ≠ .halted → Answers (.sweepStart a b g n) s .wrongState s) ∧
      (s.auto.run = .halted →
        Answers (.sweepStart a b g n) s (.accepted (.sweepRange a b (b.val - a.val + 1)))
          { s with auto := { s.auto with sweep := some ⟨a, b, g, n, .main, a, [], 0, 0, 0⟩ } }))) ∧
  (∀ s : State, s.port.phase = .expectCommand →
    ∀ i r, (i = Instr.run ∧ r = RunState.running) ∨ (i = .step ∧ r = .stepping) →
      (s.auto.run = .halted → s.store.configured = false → Answers i s .notConfigured s) ∧
      (s.store.configured = true → s.auto.run ≠ .halted → (i = .step → s.auto.run ≠ .frozen) →
        Answers i s .wrongState s) ∧
      (s.store.configured = true → s.auto.run = .halted →
        (s.store.autoChannel = none → Answers i s (.automaticChannel none) s) ∧
        (∀ c, s.store.autoChannel = some c →
          ((s.chan c).session.state ≠ .idle ∧ (s.chan c).session.purpose = .operator →
            Answers i s (.channelInUse c) s) ∧
          ((s.chan c).session.state = .idle ∨ (s.chan c).session.purpose ≠ .operator →
            Answers i s (.accepted .nothing) { s with auto := { s.auto with run := r } })))) ∧
  (∀ s : State, s.port.phase = .expectCommand →
    let off := { s.auto with run := .halted, returnState := none, freezeCause := none, waitingForRoom := false }
    (s.auto.run = .halted ∨ s.auto.run = .stopping ∨ s.auto.run = .stepping → Answers .stop s .wrongState s) ∧
    (s.auto.run = .running → s.auto.item.isSome = true →
      Answers .stop s (.accepted .nothing) { s with auto := { s.auto with run := .stopping } }) ∧
    (s.auto.run = .running → s.auto.item = none → Answers .stop s (.accepted .nothing) { s with auto := off }) ∧
    (s.auto.run = .frozen → s.auto.item = none ∨ s.auto.freezeCause = some .watchRequest →
      Answers .stop s (.accepted .nothing) { s with auto := { off with item := none } }) ∧
    (s.auto.run ≠ .frozen → Answers .continueRun s .wrongState s) ∧
    (∀ i r, s.auto.run = .frozen → s.auto.returnState = some .running ∨ s.auto.returnState = some .stepping →
      (i = Instr.continueRun ∧ some r = s.auto.returnState) ∨ (i = .step ∧ r = .stepping) →
      let go := { s.auto with run := r, returnState := none, freezeCause := none }
      (s.auto.item = none → Answers i s (.accepted .nothing) { s with auto := go }) ∧
      (∀ j c, s.auto.item = some j → s.store.autoChannel = some c → s.auto.freezeCause = some .watchRequest →
        let stands := ∀ n, j.purpose = .retest → j.ticket = some n →
          ∃ t, s.ticketStore.byNumber n = some t ∧ t.state = .retest
        let dropped := { go with item := none }
        (¬ stands → Answers i s (.accepted .nothing) { s with auto := dropped }) ∧
        (stands →
          (checkClaim s c j.line (aheadOfEngine s) = .linkDown →
            Answers i s (.accepted .nothing) { s with auto := dropped }) ∧
          (checkClaim s c j.line (aheadOfEngine s) = .linkBusy →
            Answers i s (.accepted .nothing) { s with auto := { dropped with waitingForRoom := true } }) ∧
          (∀ t, checkClaim s c j.line (aheadOfEngine s) = .passes t →
            ∃ u, Answers i s (.accepted .nothing) u ∧ u.auto = go ∧ u.watch = s.watch ∧
              (u.chan c).session.state = .claiming ∧ (u.chan c).session.purpose = j.purpose ∧
              (u.chan c).session.line = j.line ∧ (u.chan c).session.trunk = t ∧
              (u.chan c).session.linkedTicket = j.ticket ∧ (u.chan c).claim.stage = .queued ∧
              u.link = linkWith (.claim j.line t j.purpose c) (some c) s.link)))) ∧
    (∀ i r, s.auto.run = .frozen → s.auto.returnState = some .running ∨ s.auto.returnState = some .stepping →
      (i = Instr.continueRun ∧ some r = s.auto.returnState) ∨ (i = .step ∧ r = .stepping) ∨
        (i = .stop ∧ r = .stopping) →
      ∀ j c, s.auto.item = some j → s.store.autoChannel = some c → s.auto.freezeCause = some .watchClaim →
        let go := { s.auto with run := r, returnState := none, freezeCause := none }
        (s.chan c).session.state = .claimed → (s.chan c).session.relayStep = none →
        ∃ u, Answers i s (.accepted .nothing) u ∧ u.auto = go ∧
          (quietedBy s c (s.chan c).session.block = none → (u.chan c).session = { (s.chan c).session with
            state := .connecting, relayStep := some 1, frozenAtClaim := false, deferredBy := none }) ∧
          (∀ h, quietedBy s c (s.chan c).session.block = some h → (u.chan c).session = { (s.chan c).session with
            state := .deferred, frozenAtClaim := false, deferredBy := some h })) ∧
    (s.auto.run = .halted → Answers .abort s (.accepted .nothing) s) ∧
    (s.auto.run ≠ .halted → s.auto.item = none ∨ (∃ c, s.store.autoChannel = some c ∧
        (s.chan c).session.state = .idle) → Answers .abort s (.accepted .nothing) { s with auto :=
          { off with item := none } }) ∧
    (∀ j c, s.auto.run ≠ .halted → s.auto.item = some j → s.store.autoChannel = some c →
      (s.chan c).session.purpose ≠ .operator →
      let x := (s.chan c).session
      let left := fun u : State => Answers .abort s (.accepted .nothing) u ∧ u.auto.run = .halted ∧
        u.auto.item = some { j with aborted := true }
      let reversed := fun u : State => left u ∧ (u.chan c).seq.outcome = some ((s.chan c).seq.outcome.getD .cancelled)
      (j.outcome ≠ none → x.state ≠ .idle → Answers .abort s (.accepted .nothing) { s with auto :=
        { off with item := some { j with aborted := true } } }) ∧
      (j.outcome = none →
        (x.state = .claiming → s.link.claimFrame c = none → ∃ u, Answers .abort s (.accepted .nothing) u ∧
          u.auto.run = .halted ∧ u.auto.item = none ∧ (u.chan c).session.state = .idle) ∧
        (∀ f, x.state = .claiming → s.link.claimFrame c = some f →
          (s.link.onWire f = true → ∃ u, reversed u ∧ (u.chan c).session = { x with cancelPending := true } ∧
            u.link = s.link) ∧
          (s.link.onWire f = false → ∃ u, Answers .abort s (.accepted .nothing) u ∧ u.auto.run = .halted ∧
            u.auto.item = none ∧ (u.chan c).session.state = .idle ∧
            u.link.queue = s.link.queue.filter (·.entry ≠ f.entry))) ∧
        (x.state = .claimed ∨ (x.state = .deferred ∧ x.relayStep = none) → ∃ u, reversed u ∧
          (u.chan c).session = { x with state := .closing } ∧
          (UrgentRoom s → u.link = linkWith (.release x.line x.trunk) (some c) s.link)) ∧
        (∀ k, x.state = .connecting ∨ x.state = .deferred → x.relayStep = some k → ∃ u, reversed u ∧
          (u.chan c).session = { x with state := .releasing } ∧
          (u.chan c).seq.releasing = some (if k = 5 then .cutOff else if 3 ≤ k then .testRelay else .selector)) ∧
        (x.state = .connected ∨ x.state = .measuring → ∃ u, reversed u ∧
          (u.chan c).session = { x with state := .releasing, relayStep := some 5 } ∧
          (u.chan c).seq.releasing = some .cutOff ∧
          (x.state = .measuring → (u.chan c).engine.phase = .idle ∧ (u.chan c).engine.request = none)) ∧
        (x.state ∈ [SessionState.releasing, .guard, .closing] → ∃ u, left u ∧ (u.chan c).session = x ∧
          u.link = s.link)))) ∧
  (∀ s : State, (s.auto.run ≠ .running ∧ s.auto.run ≠ .stepping) ∨ s.auto.item.isSome = true ∨
      s.link.state ≠ .active ∨ s.auto.waitingForRoom = true ∨ s.store.autoChannel = none ∨
      (∃ c, s.store.autoChannel = some c ∧ (s.chan c).session.state ≠ .idle) →
    exec .arbiterChoose s = .next s) ∧
  (∀ (s : State) (c : Channel), s.auto.run = .running ∨ s.auto.run = .stepping → s.auto.item = none →
    s.link.state = .active → s.port.phase ≠ .starting → s.auto.waitingForRoom = false →
    s.store.autoChannel = some c → (s.chan c).session.state = .idle →
    let due := fun t : Ticket => t.state = .retest ∧ ∃ p, t.plan = some p ∧ p.nextDue ≤ s.store.clock
    ((∀ t ∈ s.ticketStore.tickets, ¬ due t) → (∀ w, s.auto.sweep = some w → w.phase = .complete) →
      (s.auto.run = .running → exec .arbiterChoose s = .next s) ∧
      (s.auto.run = .stepping → generalCount s.port.events < 30 → exec .arbiterChoose s = .next { s with
        auto := { s.auto with run := .halted, returnState := none, freezeCause := none, waitingForRoom := false }
        port := portWith { kind := .stepIdle } s })) ∧
    (∀ i : Item,
      ((∃ t p, t ∈ s.ticketStore.tickets ∧ due t ∧ t.plan = some p ∧
          (∀ x ∈ s.ticketStore.tickets, ∀ q, due x → x.plan = some q → p.nextDue ≤ q.nextDue) ∧
          (∀ x ∈ s.ticketStore.tickets, ∀ q, due x → x.plan = some q → q.nextDue = p.nextDue → x = t) ∧
          i = ⟨.retest, t.line, some t.number, retestStages t.cls, 0, false, none, false⟩) ∨
        ((∀ t ∈ s.ticketStore.tickets, ¬ due t) ∧ ∃ w, s.auto.sweep = some w ∧ w.phase = .main ∧
          s.ticketStore.byLine w.cursor = none ∧ s.ticketStore.indexFor w.cursor = none ∧
          i = ⟨.sweep, w.cursor, none, w.stages, w.n, false, none, false⟩)) →
      (s.blockEntry (blockOf i.line)).isSome = true →
      (checkClaim s c i.line (aheadOfEngine s) = .linkBusy →
        exec .arbiterChoose s = .next { s with auto := { s.auto with waitingForRoom := true } }) ∧
      (∀ t, checkClaim s c i.line (aheadOfEngine s) = .passes t → s.watch.op ≠ .stopOnRequest →
        ∃ u, exec .arbiterChoose s = .next u ∧ u.auto = { s.auto with item := some i } ∧
          (u.chan c).session.state = .claiming ∧ (u.chan c).session.purpose = i.purpose ∧
          (u.chan c).session.line = i.line ∧ (u.chan c).session.trunk = t ∧
          (u.chan c).session.linkedTicket = i.ticket ∧ (u.chan c).claim.stage = .queued ∧ u.busy c = true ∧
          u.link = linkWith (.claim i.line t i.purpose c) (some c) s.link) ∧
      (∀ t, checkClaim s c i.line (aheadOfEngine s) = .passes t → s.watch.op = .stopOnRequest →
        s.watch.line = i.line → filterAdmits s.watch.filter true s.ownStation i.purpose = true →
        generalCount s.port.events < 30 → exec .arbiterChoose s = .next { s with
          auto := { s.auto with
            run := .frozen, returnState := some s.auto.run, freezeCause := some .watchRequest, item := some i }
          watch := { s.watch with
            capture := some ⟨s.ownStation, i.purpose, t, c, s.store.clock⟩, hits := min 255 (s.watch.hits + 1) }
          port := portWith { kind := .frozen, line := some i.line.val
                             outcome := some (.freeze .watchRequest) } s })))

/-- Tier 2. What becomes of an item (R170, R171, R181 to R183): the first report fixes its outcome, TIMEOUT, BLOCKED or
YIELDED for the rows that measure nothing, and queues ITEM-RESULT where R171 has one; later reports, and reports for an
item left by ABORT, leave the item and the sweep as they are. A fixed outcome counts in the sweep, moves the cursor,
puts the line off or takes it off the deferred list; a sweep that runs out of lines completes with SWEEP-DONE; a retest
that measured nothing is postponed by 120 or 300 seconds, to the clock's largest value at most, as R183 says. -/
def Obligations.OutcomesMoveTheSweepAndTheRetests : Prop :=
  (∀ (s : State) (c : Channel) (j : Item) (i : Instr) (o : ItemOutcome), s.auto.item = some j →
    (s.chan c).session.purpose ≠ .operator → (s.chan c.other).session.purpose = .operator →
    (i = .confirmTimeout c ∧ o = .timeout ∧ (s.chan c).session.state = .connecting ∧
        (s.chan c).session.relayStep = some 3 ∧ (s.chan c).seq.confirmTaken = false ∧
        (s.chan c).claim.stage = .held) ∨
      (i = .headTimeout c ∧ o = .timeout ∧ HeadDue s c ∧ (s.chan c).engine.record ≠ none) ∨
      (i = .busyTestEnd c ∧ o = .blocked ∧ (s.chan c).session.state = .connecting ∧
        (s.chan c).session.relayStep = some 4 ∧ (s.chan c).seq.inUse = true ∧ (s.chan c).session.forced = false) ∨
      (i = .loopClosureChange c true ∧ o = .yielded ∧
        ((s.chan c).session.state = .connected ∨ (s.chan c).session.state = .measuring)) →
    (j.outcome ≠ none ∨ j.aborted = true → ∃ t, exec i s = .next t ∧
      { t.auto with waitingForRoom := s.auto.waitingForRoom } = s.auto) ∧
    (j.outcome = none → j.aborted = false → ∃ t, exec i s = .next t ∧
      t.auto.item = some { j with outcome := some o } ∧
      (o ≠ .blocked → generalCount t.port.events < 30 → ∃ e ∈ t.port.events, e.kind = .itemResult ∧
        e.channel = s.store.autoChannel ∧ e.line = some j.line.val ∧ e.outcome = some (.item o) ∧
        e.ticket = (if j.purpose = .retest then j.ticket else none)))) ∧
  (∀ (o : ItemOutcome) (k : FaultClass), itemResultOutcome o (some k) =
    match o with
    | .fail => some (.cls k)
    | .noisy => if k = .pass then none else some (.item .noisy)
    | .timeout => some (.item .timeout)
    | .yielded => some (.item .yielded)
    | .pass => none
    | .blocked => none) ∧
  (∀ (s : State) (i : Item) (o : ItemOutcome) (w : Sweep), s.auto.sweep = some w →
    let tested := if o = .pass ∨ o = .fail ∨ o = .noisy then 1 else 0
    let putOff := o = .blocked ∨ o = .yielded
    let rest := w.deferred.filter (· ≠ i.line)
    let done := fun (t : State) (v : Sweep) => v.phase = .complete → generalCount t.port.events < 30 →
      ∃ e ∈ t.port.events, e.kind = .sweepDone ∧ e.counts = some (v.tested, v.failed, v.skipped)
    let skips := fun t : State => generalCount t.port.events < 30 →
      ∃ e ∈ t.port.events, e.kind = .sweepSkipped ∧ e.line = some i.line.val
    (i.fromDeferred = false → w.phase = .main → i.line ≤ w.last →
      let full := 16 ≤ w.deferred.length ∧ i.line ∉ w.deferred
      let v : Sweep := { w with
        tested := min 65535 (w.tested + tested)
        failed := min 65535 (w.failed + if o = .fail then 1 else 0)
        skipped := min 65535 (w.skipped + if o = .timeout ∨ (putOff ∧ full) then 1 else 0)
        deferred := if putOff ∧ i.line ∉ w.deferred ∧ w.deferred.length < 16 then w.deferred ++ [i.line]
          else w.deferred }
      SweepOk w → ∃ t, sweepOutcome i o s = t ∧ (putOff → full → skips t) ∧
        (i.line < w.last → ∃ x, t.auto.sweep = some { v with cursor := x } ∧ x.val = i.line.val + 1) ∧
        (i.line = w.last → ∃ u, t.auto.sweep = some u ∧ done t u ∧
          u = { v with phase := if v.deferred = [] then .complete else .deferredPass })) ∧
    (i.fromDeferred = true → w.phase = .deferredPass →
      SweepOk w → ∃ t u, sweepOutcome i o s = t ∧ t.auto.sweep = some u ∧ done t u ∧ (putOff → skips t) ∧ u = { w with
        tested := min 65535 (w.tested + tested)
        failed := min 65535 (w.failed + if o = .fail then 1 else 0)
        skipped := min 65535 (w.skipped + if o = .timeout ∨ putOff then 1 else 0)
        deferred := rest
        phase := if rest = [] then .complete else .deferredPass })) ∧
  (∀ (s : State) (n : TicketNo) (o : ItemOutcome), retestOutcome n o s =
    match o with
    | .pass => s
    | .fail => s
    | .noisy => s
    | _ => s.updTickets (updateTicket n fun t => if t.state = .retest then { t with
        plan := t.plan.map fun p => { p with
          nextDue := min 4294967295 (s.store.clock + if o = .yielded then 300 else 120) } } else t))

/-- Tier 2. The arbiter's walk over the sweep (R180, R182): a line of an absent block passes over the rest of the block
with BLOCK-SKIPPED, a ticketed line is passed over with no event, both counted as skipped; in the deferred pass the
head of the list is taken out the same way, with SWEEP-SKIPPED for an absent block; any other line is the item. The
walk goes on until it has an item or the sweep is complete. -/
def Obligations.TheWalkPassesOverBlockedLines : Prop :=
  (∀ (s : State) (w : Sweep), s.auto.sweep = some w →
    let known := fun l : Line => ticketed s.ticketStore l = true
    let absent := fun l : Line => s.blockEntry (blockOf l) = none
    let upTo := min w.last.val (w.cursor.val / 1024 * 1024 + 1023)
    let moved := fun (n : Nat) (v : Sweep) => if n < w.last.val ∧ n + 1 < 65536
      then v.cursor.val = n + 1 ∧ v = { w with cursor := v.cursor, skipped := v.skipped }
      else v = { w with phase := if w.deferred = [] then .complete else .deferredPass, skipped := v.skipped }
    (w.phase = .complete → walkStep s = .done) ∧
    (w.phase = .main → absent w.cursor → ∃ t v, walkStep s = .passed t ∧ t.auto.sweep = some v ∧
      moved upTo v ∧ v.skipped = min 65535 (w.skipped + (upTo - w.cursor.val + 1)) ∧
      (generalCount t.port.events < 30 → ∃ e ∈ t.port.events, e.kind = .blockSkipped ∧
        e.line = some w.cursor.val)) ∧
    (w.phase = .main → ¬ absent w.cursor → known w.cursor → ∃ t v, walkStep s = .passed t ∧
      t.auto.sweep = some v ∧ moved w.cursor.val v ∧ v.skipped = min 65535 (w.skipped + 1) ∧
      (v.phase ≠ .complete → t.port = s.port)) ∧
    (w.phase = .main → ¬ absent w.cursor → ¬ known w.cursor →
      walkStep s = .item ⟨.sweep, w.cursor, none, w.stages, w.n, false, none, false⟩) ∧
    (w.phase = .deferredPass → w.deferred = [] → walkStep s = .done) ∧
    (∀ l rest, w.phase = .deferredPass → w.deferred = l :: rest →
      let out : Sweep := { w with
        deferred := rest, skipped := min 65535 (w.skipped + 1)
        phase := if rest = [] then .complete else .deferredPass }
      (absent l → ∃ t, walkStep s = .passed t ∧ t.auto.sweep = some out ∧
        (generalCount t.port.events < 30 → ∃ e ∈ t.port.events, e.kind = .sweepSkipped ∧ e.line = some l.val)) ∧
      (¬ absent l → known l → ∃ t, walkStep s = .passed t ∧ t.auto.sweep = some out) ∧
      (¬ absent l → ¬ known l →
        walkStep s = .item ⟨.sweep, l, none, w.stages, w.n, true, none, false⟩))) ∧
  (∀ (s : State) (l : Line), ticketed s.ticketStore l = true ↔
    (∃ t ∈ s.ticketStore.tickets, t.line = l) ∨ ∃ e ∈ s.ticketStore.index, e.line = l) ∧
  (∀ (s t : State) (n : Nat), walkStep s = .passed t → walkSweep (n + 1) s = walkSweep n t) ∧
  (∀ s : State, earliestDue s.store.clock s.ticketStore.tickets = none →
    (∀ u i, chooseItem s = (u, some i) → walkStep u = .item i) ∧
    (∀ u, chooseItem s = (u, none) → walkStep u = .done))

/-! ### The Line Watch -/

/-- Tier 2. The Line Watch (R186 to R189, R191, R193): WATCH SET's checks, then the whole setting anew; the claims
each filter admits; a claim in MONITOR for the watched line is captured and counted, and queues WATCH-HIT unless one
waits; an own automatic claim taken in STOP-ON-CLAIM freezes the engine, its session held in CLAIMED. -/
def Obligations.TheWatchCapturesAndStops : Prop :=
  (∀ (s : State) (l : Line), s.port.phase = .expectCommand →
    (∀ f, Answers (.watchSet none l f) s (.badArgument 1) s) ∧
    (∀ o, Answers (.watchSet (some o) l .other) s (.badArgument 3) s) ∧
    (∀ o n, n < 1 ∨ 15 < n → Answers (.watchSet (some o) l (.station n)) s (.badArgument 4) s) ∧
    (∀ o f g, (f, g) ∈ [(FilterArg.any, WatchFilter.any), (.own, .own), (.ownOperator, .ownOperator),
        (.ownAutomatic, .ownAutomatic)] ∨ (∃ n, 1 ≤ n ∧ n ≤ 15 ∧ f = .station n ∧ g = .station n) →
      Answers (.watchSet (some o) l f) s (.accepted .nothing) { s with watch := ⟨o, l, g, none, 0⟩ })) ∧
  (∀ (own : Bool) (n m : Station) (p : Purpose),
    filterAdmits .any own n p = true ∧ (filterAdmits .own own n p = true ↔ own = true) ∧
    (filterAdmits .ownOperator own n p = true ↔ own = true ∧ p = .operator) ∧
    (filterAdmits .ownAutomatic own n p = true ↔ own = true ∧ p ≠ .operator) ∧
    (filterAdmits (.station m) own n p = true ↔ own = false ∧ n = m)) ∧
  (∀ (s : State) (n : Station) (l : Line) (t : Trunk) (p : Purpose) (c : Channel), Heard s n (.claim l t p c) →
    Uncontested s [(l, t)] → s.watch.op = .monitor →
    let r := rosterWith n (fun q => { q with
      lastHeard := s.now, holdings := addHolding ⟨l, t, p⟩ q.holdings }) s.roster
    let w := { s.watch with capture := some ⟨n, p, t, c, s.store.clock⟩, hits := min 255 (s.watch.hits + 1) }
    (s.watch.line ≠ l ∨ filterAdmits s.watch.filter false n p = false →
      exec (.claimTaken n l t p c) s = .next { s.answered with roster := r }) ∧
    (s.watch.line = l → filterAdmits s.watch.filter false n p = true →
      ((∃ e ∈ s.port.events, e.kind = .watchHit) →
        exec (.claimTaken n l t p c) s = .next { s.answered with roster := r, watch := w }) ∧
      ((∀ e ∈ s.port.events, e.kind ≠ .watchHit) → generalCount s.port.events < 30 →
        exec (.claimTaken n l t p c) s = .next { s.answered with
          roster := r, watch := w
          port := portWith { kind := .watchHit, line := some l.val, station := some n, channel := some c
                             outcome := some (.purpose p) } s }))) ∧
  (∀ (s : State) (f : QueuedFrame) (w : Attempt) (l : Line) (t : Trunk) (p : Purpose) (k c : Channel),
    s.link.wire = some w → LinkOk s.link → f ∈ s.link.queue → f.entry = w.entry → w.body = .claim l t p k →
    f.origin = some c → s.inFarewell = false → (s.chan c).session.state = .claiming →
    (s.chan c).session.cancelPending = false → (s.chan c).session.purpose ≠ .operator →
    s.watch.op = .stopOnClaim → s.watch.line = (s.chan c).session.line →
    filterAdmits s.watch.filter true s.ownStation (s.chan c).session.purpose = true →
    s.auto.run = .running ∨ s.auto.run = .stepping → quietedBy s c (s.chan c).session.block = none →
    generalCount s.port.events < 30 → ∃ u, exec (.ownAttemptEnd (.slots true false)) s = .next u ∧
      (u.chan c).session.state = .claimed ∧ (u.chan c).session.frozenAtClaim = true ∧
      (u.chan c).seq.drives = (s.chan c).seq.drives ∧ (u.chan c).claim.stage = .held ∧
      u.auto.run = .frozen ∧ u.auto.returnState = some s.auto.run ∧ u.auto.freezeCause = some .watchClaim ∧
      u.watch.capture = some ⟨s.ownStation, (s.chan c).session.purpose, (s.chan c).session.trunk, c, s.store.clock⟩ ∧
      u.watch.hits = min 255 (s.watch.hits + 1) ∧
      u.port = portWith { kind := .frozen, line := some (s.chan c).session.line.val
                          outcome := some (.freeze .watchClaim) } s)

/-! ### The soft reset -/

/-- Tier 2. A soft reset (R20, R43, R95, R185, R186, R211, R212). Accepted, the port is in STARTING, every session,
measurement and quiet has ended with its drives released, and where the link is ACTIVE the farewell's frames are queued,
a RELEASE for each claim held, a QUIET-CLEAR for each QUIET-BUSY taken whose QUIET-CLEAR has not been, a QUIET-END for
each own quiet that stands, those past the twelfth waiting for a slot. 250 ms end the farewell. At its end the blocks
are at their reset values, the tickets and the clock are kept, and with the configuration kept the link is JOINING, else
OFF with the store at its defaults. Which of this comes at which of the rows is the model's reading (log entries 29 and
35); that an own attempt on the wire in JOINING ends at once is its choice (log entry 44), and so is the order of
channel A's frames before channel B's in each of the farewell's three groups (log entry 40), and so is that a
QUIET-CLEAR dropped is owed no more (log entry 52). -/
def Obligations.ASoftResetSaysFarewellAndStartsAnew : Prop :=
  (∀ s : State, s.port.phase ≠ .expectCommand → exec .softReset s = .next s) ∧
  (∀ s : State, s.port.phase = .expectCommand → ∃ u, exec .softReset s = .next u ∧ u.port.phase = .starting ∧
    u.statusByte = 0 ∧ u.store = s.store ∧ u.ticketStore = s.ticketStore ∧ u.link.state = s.link.state ∧
    (∀ c, (u.chan c).session.state = .idle ∧ (u.chan c).session.lastResult = none ∧
      (u.chan c).seq.drives = ⟨false, false, false, []⟩ ∧ (u.chan c).engine.phase = .idle ∧
      (u.chan c).quiet.phase = .none ∧ (u.chan c).claim.stage = .none ∧ u.busy c = false) ∧
    u.auto.run = .halted ∧ u.auto.item = none ∧ u.softReset.map (·.kept) = some s.store.lock ∧
    (s.link.state ≠ .active → u.link.queue = [] ∧ u.link.wire = none ∧ u.inFarewell = false) ∧
    (s.link.state = .active →
      let releases := [Channel.a, .b].flatMap fun c => if (s.chan c).claim.stage = .held then
        [QueuedBody.built (.release (s.chan c).session.line (s.chan c).session.trunk)] else []
      let clears := [Channel.a, .b].flatMap fun c => ((s.chan c).clears.filter (·.busyTaken)).map fun k =>
        QueuedBody.built (.quietClear k.block k.requester)
      let ends := [Channel.a, .b].flatMap fun c => if (s.chan c).quiet.stands then
        (s.chan c).quiet.block.toList.map fun b => QueuedBody.built (.quietEnd b) else []
      let frames := releases ++ clears ++ ends
      u.link.queue.map (·.body) = frames.take 12 ∧ u.link.waiting.map (·.body) = frames.drop 12 ∧
      (∀ f ∈ u.link.queue ++ u.link.waiting, f.urgency = 0) ∧
      u.inFarewell = (!frames.isEmpty || s.link.wire.isSome))) ∧
  (∀ s : State, (s.inFarewell = false → exec .farewellLimit s = .next s) ∧
    (s.inFarewell = true → ∃ u, exec .farewellLimit s = .next u ∧ u.link.queue = [] ∧ u.link.waiting = [] ∧
      u.inFarewell = false ∧ u.link.state = s.link.state)) ∧
  (∀ s : State, (s.softReset = none ∨ s.inFarewell = true → exec .softResetEnd s = .next s) ∧
    (∀ r, s.softReset = some r → r.farewell = false → ∃ u, exec .softResetEnd s = .next u ∧
      u.port.phase = .expectCommand ∧ u.port.mask = s.port.mask ∧ u.port.lost = 0 ∧ u.roster = [] ∧
      u.ticketStore.index = [] ∧ u.ticketStore.closedNotes = s.ticketStore.closedNotes ∧
      u.ticketStore.nextNumber = s.ticketStore.nextNumber ∧
      u.ticketStore.tickets.map (·.number) = s.ticketStore.tickets.map (·.number) ∧
      (∀ t ∈ u.ticketStore.tickets, t.noteHeldBack = false) ∧
      u.auto = .initial ∧ u.watch = .initial ∧ u.softReset = none ∧ u.link.clash = false ∧
      (r.kept = false ∨ s.declaredOut = [] → u.link.linkError = false) ∧
      u.store.clock = s.store.clock ∧
      (∀ k, (u.trunkEntry k).condition = (s.trunkEntry k).condition ∧
        (u.trunkEntry k).streak = (s.trunkEntry k).streak ∧
        (u.trunkEntry k).declaredBy = (s.trunkEntry k).declaredBy) ∧
      (r.kept = true → s.store.configured = true → s.declaredOut = [] → u.store = s.store ∧
        u.link.state = .joining ∧ u.link.presenceMark = false ∧ u.link.queue.map (·.body) = [.presenceMark] ∧
        u.link.joinEnd = some (s.now + 1500) ∧
        (s.link.state = .joining → u.port.events = []) ∧
        (s.link.state ≠ .joining → u.port.events =
          [{ kind := .linkState, outcome := some (.link .joining), time := s.store.clock }])) ∧
      (r.kept = false → u.link.state = .off ∧ u.link.queue = [] ∧ u.store.configured = false ∧
        u.store.station = none ∧ u.store.autoChannel = some .b ∧ u.store.lock = false ∧
        (∀ b, u.blockEntry b = none) ∧ (∀ k, (u.trunkEntry k).rtrunk = 0 ∧ (u.trunkEntry k).ctrunk = 0) ∧
        u.store.thresholds = ⟨20000, 20000, 1000000, 10000, 25000, 8000, 16⟩)))

/-! ### The invariant -/

/-- Tier 1. The stores and queues are in their limits right after a hardware reset. -/
def Obligations.TheInvariantHoldsAtReset : Prop := Inv State.reset

/-- Tier 3. Every step keeps the limits the manual states of its stores and queues: the event queue's slots and lost
count, the ranges of the configuration, the transmit queue's slots and order, the roster's order and sizes with the
own number never in it, the Ticket Store's sizes, numbers, lines and plans with no line both own and foreign, the
sweep's deferred list and counts, the watch's count (R2, R5, R14, R16, R82 to R84, R96, R142 to R145, R148, R151,
R178, R181, R186, R203, R204). -/
def Obligations.EveryStepKeepsTheInvariant : Prop := ∀ s t : State, Inv s → step s = .next t → Inv t
end

