-- ==== Sys2Proof/Laws/State.lean ====
section
/-! SUPPORT. One lemma per field per update of the state, so that no proof unfolds a record update. -/

namespace Sys2Proof.Machine
open State

/-! ### A channel's records -/

@[simp] theorem port_setChan (c : Channel) (r : ChannelRecord) (s : State) :
    (s.setChan c r).port = s.port := by cases c <;> rfl
@[simp] theorem store_setChan (c : Channel) (r : ChannelRecord) (s : State) :
    (s.setChan c r).store = s.store := by cases c <;> rfl
@[simp] theorem link_setChan (c : Channel) (r : ChannelRecord) (s : State) :
    (s.setChan c r).link = s.link := by cases c <;> rfl
@[simp] theorem roster_setChan (c : Channel) (r : ChannelRecord) (s : State) :
    (s.setChan c r).roster = s.roster := by cases c <;> rfl
@[simp] theorem ticketStore_setChan (c : Channel) (r : ChannelRecord) (s : State) :
    (s.setChan c r).ticketStore = s.ticketStore := by cases c <;> rfl
@[simp] theorem auto_setChan (c : Channel) (r : ChannelRecord) (s : State) :
    (s.setChan c r).auto = s.auto := by cases c <;> rfl
@[simp] theorem watch_setChan (c : Channel) (r : ChannelRecord) (s : State) :
    (s.setChan c r).watch = s.watch := by cases c <;> rfl
@[simp] theorem softReset_setChan (c : Channel) (r : ChannelRecord) (s : State) :
    (s.setChan c r).softReset = s.softReset := by cases c <;> rfl
@[simp] theorem now_setChan (c : Channel) (r : ChannelRecord) (s : State) :
    (s.setChan c r).now = s.now := by cases c <;> rfl
@[simp] theorem pending_setChan (c : Channel) (r : ChannelRecord) (s : State) :
    (s.setChan c r).pending = s.pending := by cases c <;> rfl
@[simp] theorem chan_setChan (c : Channel) (r : ChannelRecord) (s : State) :
    (s.setChan c r).chan c = r := by cases c <;> rfl
@[simp] theorem chan_setChan_other (c : Channel) (r : ChannelRecord) (s : State) :
    (s.setChan c r).chan c.other = s.chan c.other := by cases c <;> rfl
@[simp] theorem chan_other_setChan (c : Channel) (r : ChannelRecord) (s : State) :
    (s.setChan c.other r).chan c = s.chan c := by cases c <;> rfl
@[simp] theorem other_other (c : Channel) :
    c.other.other = c := by cases c <;> rfl
@[simp] theorem chan_a (s : State) :
    s.chan .a = s.chanA := rfl
@[simp] theorem chan_b (s : State) :
    s.chan .b = s.chanB := rfl

@[simp] theorem port_updSession (c : Channel) (f : Session → Session) (s : State) :
    (s.updSession c f).port = s.port := by cases c <;> rfl
@[simp] theorem store_updSession (c : Channel) (f : Session → Session) (s : State) :
    (s.updSession c f).store = s.store := by cases c <;> rfl
@[simp] theorem link_updSession (c : Channel) (f : Session → Session) (s : State) :
    (s.updSession c f).link = s.link := by cases c <;> rfl
@[simp] theorem roster_updSession (c : Channel) (f : Session → Session) (s : State) :
    (s.updSession c f).roster = s.roster := by cases c <;> rfl
@[simp] theorem ticketStore_updSession (c : Channel) (f : Session → Session) (s : State) :
    (s.updSession c f).ticketStore = s.ticketStore := by cases c <;> rfl
@[simp] theorem auto_updSession (c : Channel) (f : Session → Session) (s : State) :
    (s.updSession c f).auto = s.auto := by cases c <;> rfl
@[simp] theorem watch_updSession (c : Channel) (f : Session → Session) (s : State) :
    (s.updSession c f).watch = s.watch := by cases c <;> rfl
@[simp] theorem softReset_updSession (c : Channel) (f : Session → Session) (s : State) :
    (s.updSession c f).softReset = s.softReset := by cases c <;> rfl
@[simp] theorem now_updSession (c : Channel) (f : Session → Session) (s : State) :
    (s.updSession c f).now = s.now := by cases c <;> rfl
@[simp] theorem pending_updSession (c : Channel) (f : Session → Session) (s : State) :
    (s.updSession c f).pending = s.pending := by cases c <;> rfl
@[simp] theorem chan_updSession (c : Channel) (f : Session → Session) (s : State) :
    (s.updSession c f).chan c = { s.chan c with session := f (s.chan c).session } := by cases c <;> rfl
@[simp] theorem chan_updSession_other (c : Channel) (f : Session → Session) (s : State) :
    (s.updSession c f).chan c.other = s.chan c.other := by cases c <;> rfl
@[simp] theorem chan_other_updSession (c : Channel) (f : Session → Session) (s : State) :
    (s.updSession c.other f).chan c = s.chan c := by cases c <;> rfl

@[simp] theorem port_updSeq (c : Channel) (f : Sequencer → Sequencer) (s : State) :
    (s.updSeq c f).port = s.port := by cases c <;> rfl
@[simp] theorem store_updSeq (c : Channel) (f : Sequencer → Sequencer) (s : State) :
    (s.updSeq c f).store = s.store := by cases c <;> rfl
@[simp] theorem link_updSeq (c : Channel) (f : Sequencer → Sequencer) (s : State) :
    (s.updSeq c f).link = s.link := by cases c <;> rfl
@[simp] theorem roster_updSeq (c : Channel) (f : Sequencer → Sequencer) (s : State) :
    (s.updSeq c f).roster = s.roster := by cases c <;> rfl
@[simp] theorem ticketStore_updSeq (c : Channel) (f : Sequencer → Sequencer) (s : State) :
    (s.updSeq c f).ticketStore = s.ticketStore := by cases c <;> rfl
@[simp] theorem auto_updSeq (c : Channel) (f : Sequencer → Sequencer) (s : State) :
    (s.updSeq c f).auto = s.auto := by cases c <;> rfl
@[simp] theorem watch_updSeq (c : Channel) (f : Sequencer → Sequencer) (s : State) :
    (s.updSeq c f).watch = s.watch := by cases c <;> rfl
@[simp] theorem softReset_updSeq (c : Channel) (f : Sequencer → Sequencer) (s : State) :
    (s.updSeq c f).softReset = s.softReset := by cases c <;> rfl
@[simp] theorem now_updSeq (c : Channel) (f : Sequencer → Sequencer) (s : State) :
    (s.updSeq c f).now = s.now := by cases c <;> rfl
@[simp] theorem pending_updSeq (c : Channel) (f : Sequencer → Sequencer) (s : State) :
    (s.updSeq c f).pending = s.pending := by cases c <;> rfl
@[simp] theorem chan_updSeq (c : Channel) (f : Sequencer → Sequencer) (s : State) :
    (s.updSeq c f).chan c = { s.chan c with seq := f (s.chan c).seq } := by cases c <;> rfl
@[simp] theorem chan_updSeq_other (c : Channel) (f : Sequencer → Sequencer) (s : State) :
    (s.updSeq c f).chan c.other = s.chan c.other := by cases c <;> rfl
@[simp] theorem chan_other_updSeq (c : Channel) (f : Sequencer → Sequencer) (s : State) :
    (s.updSeq c.other f).chan c = s.chan c := by cases c <;> rfl

@[simp] theorem port_updClaim (c : Channel) (f : ClaimRecord → ClaimRecord) (s : State) :
    (s.updClaim c f).port = s.port := by cases c <;> rfl
@[simp] theorem store_updClaim (c : Channel) (f : ClaimRecord → ClaimRecord) (s : State) :
    (s.updClaim c f).store = s.store := by cases c <;> rfl
@[simp] theorem link_updClaim (c : Channel) (f : ClaimRecord → ClaimRecord) (s : State) :
    (s.updClaim c f).link = s.link := by cases c <;> rfl
@[simp] theorem roster_updClaim (c : Channel) (f : ClaimRecord → ClaimRecord) (s : State) :
    (s.updClaim c f).roster = s.roster := by cases c <;> rfl
@[simp] theorem ticketStore_updClaim (c : Channel) (f : ClaimRecord → ClaimRecord) (s : State) :
    (s.updClaim c f).ticketStore = s.ticketStore := by cases c <;> rfl
@[simp] theorem auto_updClaim (c : Channel) (f : ClaimRecord → ClaimRecord) (s : State) :
    (s.updClaim c f).auto = s.auto := by cases c <;> rfl
@[simp] theorem watch_updClaim (c : Channel) (f : ClaimRecord → ClaimRecord) (s : State) :
    (s.updClaim c f).watch = s.watch := by cases c <;> rfl
@[simp] theorem softReset_updClaim (c : Channel) (f : ClaimRecord → ClaimRecord) (s : State) :
    (s.updClaim c f).softReset = s.softReset := by cases c <;> rfl
@[simp] theorem now_updClaim (c : Channel) (f : ClaimRecord → ClaimRecord) (s : State) :
    (s.updClaim c f).now = s.now := by cases c <;> rfl
@[simp] theorem pending_updClaim (c : Channel) (f : ClaimRecord → ClaimRecord) (s : State) :
    (s.updClaim c f).pending = s.pending := by cases c <;> rfl
@[simp] theorem chan_updClaim (c : Channel) (f : ClaimRecord → ClaimRecord) (s : State) :
    (s.updClaim c f).chan c = { s.chan c with claim := f (s.chan c).claim } := by cases c <;> rfl
@[simp] theorem chan_updClaim_other (c : Channel) (f : ClaimRecord → ClaimRecord) (s : State) :
    (s.updClaim c f).chan c.other = s.chan c.other := by cases c <;> rfl
@[simp] theorem chan_other_updClaim (c : Channel) (f : ClaimRecord → ClaimRecord) (s : State) :
    (s.updClaim c.other f).chan c = s.chan c := by cases c <;> rfl

@[simp] theorem port_updQuiet (c : Channel) (f : QuietRecord → QuietRecord) (s : State) :
    (s.updQuiet c f).port = s.port := by cases c <;> rfl
@[simp] theorem store_updQuiet (c : Channel) (f : QuietRecord → QuietRecord) (s : State) :
    (s.updQuiet c f).store = s.store := by cases c <;> rfl
@[simp] theorem link_updQuiet (c : Channel) (f : QuietRecord → QuietRecord) (s : State) :
    (s.updQuiet c f).link = s.link := by cases c <;> rfl
@[simp] theorem roster_updQuiet (c : Channel) (f : QuietRecord → QuietRecord) (s : State) :
    (s.updQuiet c f).roster = s.roster := by cases c <;> rfl
@[simp] theorem ticketStore_updQuiet (c : Channel) (f : QuietRecord → QuietRecord) (s : State) :
    (s.updQuiet c f).ticketStore = s.ticketStore := by cases c <;> rfl
@[simp] theorem auto_updQuiet (c : Channel) (f : QuietRecord → QuietRecord) (s : State) :
    (s.updQuiet c f).auto = s.auto := by cases c <;> rfl
@[simp] theorem watch_updQuiet (c : Channel) (f : QuietRecord → QuietRecord) (s : State) :
    (s.updQuiet c f).watch = s.watch := by cases c <;> rfl
@[simp] theorem softReset_updQuiet (c : Channel) (f : QuietRecord → QuietRecord) (s : State) :
    (s.updQuiet c f).softReset = s.softReset := by cases c <;> rfl
@[simp] theorem now_updQuiet (c : Channel) (f : QuietRecord → QuietRecord) (s : State) :
    (s.updQuiet c f).now = s.now := by cases c <;> rfl
@[simp] theorem pending_updQuiet (c : Channel) (f : QuietRecord → QuietRecord) (s : State) :
    (s.updQuiet c f).pending = s.pending := by cases c <;> rfl
@[simp] theorem chan_updQuiet (c : Channel) (f : QuietRecord → QuietRecord) (s : State) :
    (s.updQuiet c f).chan c = { s.chan c with quiet := f (s.chan c).quiet } := by cases c <;> rfl
@[simp] theorem chan_updQuiet_other (c : Channel) (f : QuietRecord → QuietRecord) (s : State) :
    (s.updQuiet c f).chan c.other = s.chan c.other := by cases c <;> rfl
@[simp] theorem chan_other_updQuiet (c : Channel) (f : QuietRecord → QuietRecord) (s : State) :
    (s.updQuiet c.other f).chan c = s.chan c := by cases c <;> rfl

@[simp] theorem port_updClears (c : Channel) (f : List OwedClear → List OwedClear) (s : State) :
    (s.updClears c f).port = s.port := by cases c <;> rfl
@[simp] theorem store_updClears (c : Channel) (f : List OwedClear → List OwedClear) (s : State) :
    (s.updClears c f).store = s.store := by cases c <;> rfl
@[simp] theorem link_updClears (c : Channel) (f : List OwedClear → List OwedClear) (s : State) :
    (s.updClears c f).link = s.link := by cases c <;> rfl
@[simp] theorem roster_updClears (c : Channel) (f : List OwedClear → List OwedClear) (s : State) :
    (s.updClears c f).roster = s.roster := by cases c <;> rfl
@[simp] theorem ticketStore_updClears (c : Channel) (f : List OwedClear → List OwedClear) (s : State) :
    (s.updClears c f).ticketStore = s.ticketStore := by cases c <;> rfl
@[simp] theorem auto_updClears (c : Channel) (f : List OwedClear → List OwedClear) (s : State) :
    (s.updClears c f).auto = s.auto := by cases c <;> rfl
@[simp] theorem watch_updClears (c : Channel) (f : List OwedClear → List OwedClear) (s : State) :
    (s.updClears c f).watch = s.watch := by cases c <;> rfl
@[simp] theorem softReset_updClears (c : Channel) (f : List OwedClear → List OwedClear) (s : State) :
    (s.updClears c f).softReset = s.softReset := by cases c <;> rfl
@[simp] theorem now_updClears (c : Channel) (f : List OwedClear → List OwedClear) (s : State) :
    (s.updClears c f).now = s.now := by cases c <;> rfl
@[simp] theorem pending_updClears (c : Channel) (f : List OwedClear → List OwedClear) (s : State) :
    (s.updClears c f).pending = s.pending := by cases c <;> rfl
@[simp] theorem chan_updClears (c : Channel) (f : List OwedClear → List OwedClear) (s : State) :
    (s.updClears c f).chan c = { s.chan c with clears := f (s.chan c).clears } := by cases c <;> rfl
@[simp] theorem chan_updClears_other (c : Channel) (f : List OwedClear → List OwedClear) (s : State) :
    (s.updClears c f).chan c.other = s.chan c.other := by cases c <;> rfl
@[simp] theorem chan_other_updClears (c : Channel) (f : List OwedClear → List OwedClear) (s : State) :
    (s.updClears c.other f).chan c = s.chan c := by cases c <;> rfl

@[simp] theorem port_updEngine (c : Channel) (f : EngineRecord → EngineRecord) (s : State) :
    (s.updEngine c f).port = s.port := by cases c <;> rfl
@[simp] theorem store_updEngine (c : Channel) (f : EngineRecord → EngineRecord) (s : State) :
    (s.updEngine c f).store = s.store := by cases c <;> rfl
@[simp] theorem link_updEngine (c : Channel) (f : EngineRecord → EngineRecord) (s : State) :
    (s.updEngine c f).link = s.link := by cases c <;> rfl
@[simp] theorem roster_updEngine (c : Channel) (f : EngineRecord → EngineRecord) (s : State) :
    (s.updEngine c f).roster = s.roster := by cases c <;> rfl
@[simp] theorem ticketStore_updEngine (c : Channel) (f : EngineRecord → EngineRecord) (s : State) :
    (s.updEngine c f).ticketStore = s.ticketStore := by cases c <;> rfl
@[simp] theorem auto_updEngine (c : Channel) (f : EngineRecord → EngineRecord) (s : State) :
    (s.updEngine c f).auto = s.auto := by cases c <;> rfl
@[simp] theorem watch_updEngine (c : Channel) (f : EngineRecord → EngineRecord) (s : State) :
    (s.updEngine c f).watch = s.watch := by cases c <;> rfl
@[simp] theorem softReset_updEngine (c : Channel) (f : EngineRecord → EngineRecord) (s : State) :
    (s.updEngine c f).softReset = s.softReset := by cases c <;> rfl
@[simp] theorem now_updEngine (c : Channel) (f : EngineRecord → EngineRecord) (s : State) :
    (s.updEngine c f).now = s.now := by cases c <;> rfl
@[simp] theorem pending_updEngine (c : Channel) (f : EngineRecord → EngineRecord) (s : State) :
    (s.updEngine c f).pending = s.pending := by cases c <;> rfl
@[simp] theorem chan_updEngine (c : Channel) (f : EngineRecord → EngineRecord) (s : State) :
    (s.updEngine c f).chan c = { s.chan c with engine := f (s.chan c).engine } := by cases c <;> rfl
@[simp] theorem chan_updEngine_other (c : Channel) (f : EngineRecord → EngineRecord) (s : State) :
    (s.updEngine c f).chan c.other = s.chan c.other := by cases c <;> rfl
@[simp] theorem chan_other_updEngine (c : Channel) (f : EngineRecord → EngineRecord) (s : State) :
    (s.updEngine c.other f).chan c = s.chan c := by cases c <;> rfl

@[simp] theorem port_updPins (c : Channel) (f : Pins → Pins) (s : State) :
    (s.updPins c f).port = s.port := by cases c <;> rfl
@[simp] theorem store_updPins (c : Channel) (f : Pins → Pins) (s : State) :
    (s.updPins c f).store = s.store := by cases c <;> rfl
@[simp] theorem link_updPins (c : Channel) (f : Pins → Pins) (s : State) :
    (s.updPins c f).link = s.link := by cases c <;> rfl
@[simp] theorem roster_updPins (c : Channel) (f : Pins → Pins) (s : State) :
    (s.updPins c f).roster = s.roster := by cases c <;> rfl
@[simp] theorem ticketStore_updPins (c : Channel) (f : Pins → Pins) (s : State) :
    (s.updPins c f).ticketStore = s.ticketStore := by cases c <;> rfl
@[simp] theorem auto_updPins (c : Channel) (f : Pins → Pins) (s : State) :
    (s.updPins c f).auto = s.auto := by cases c <;> rfl
@[simp] theorem watch_updPins (c : Channel) (f : Pins → Pins) (s : State) :
    (s.updPins c f).watch = s.watch := by cases c <;> rfl
@[simp] theorem softReset_updPins (c : Channel) (f : Pins → Pins) (s : State) :
    (s.updPins c f).softReset = s.softReset := by cases c <;> rfl
@[simp] theorem now_updPins (c : Channel) (f : Pins → Pins) (s : State) :
    (s.updPins c f).now = s.now := by cases c <;> rfl
@[simp] theorem pending_updPins (c : Channel) (f : Pins → Pins) (s : State) :
    (s.updPins c f).pending = s.pending := by cases c <;> rfl
@[simp] theorem chan_updPins (c : Channel) (f : Pins → Pins) (s : State) :
    (s.updPins c f).chan c = { s.chan c with pins := f (s.chan c).pins } := by cases c <;> rfl
@[simp] theorem chan_updPins_other (c : Channel) (f : Pins → Pins) (s : State) :
    (s.updPins c f).chan c.other = s.chan c.other := by cases c <;> rfl
@[simp] theorem chan_other_updPins (c : Channel) (f : Pins → Pins) (s : State) :
    (s.updPins c.other f).chan c = s.chan c := by cases c <;> rfl

@[simp] theorem port_setCommand (c : Channel) (k : Option ChannelCommand) (s : State) :
    (s.setCommand c k).port = s.port := by cases c <;> rfl
@[simp] theorem store_setCommand (c : Channel) (k : Option ChannelCommand) (s : State) :
    (s.setCommand c k).store = s.store := by cases c <;> rfl
@[simp] theorem link_setCommand (c : Channel) (k : Option ChannelCommand) (s : State) :
    (s.setCommand c k).link = s.link := by cases c <;> rfl
@[simp] theorem roster_setCommand (c : Channel) (k : Option ChannelCommand) (s : State) :
    (s.setCommand c k).roster = s.roster := by cases c <;> rfl
@[simp] theorem ticketStore_setCommand (c : Channel) (k : Option ChannelCommand) (s : State) :
    (s.setCommand c k).ticketStore = s.ticketStore := by cases c <;> rfl
@[simp] theorem auto_setCommand (c : Channel) (k : Option ChannelCommand) (s : State) :
    (s.setCommand c k).auto = s.auto := by cases c <;> rfl
@[simp] theorem watch_setCommand (c : Channel) (k : Option ChannelCommand) (s : State) :
    (s.setCommand c k).watch = s.watch := by cases c <;> rfl
@[simp] theorem softReset_setCommand (c : Channel) (k : Option ChannelCommand) (s : State) :
    (s.setCommand c k).softReset = s.softReset := by cases c <;> rfl
@[simp] theorem now_setCommand (c : Channel) (k : Option ChannelCommand) (s : State) :
    (s.setCommand c k).now = s.now := by cases c <;> rfl
@[simp] theorem pending_setCommand (c : Channel) (k : Option ChannelCommand) (s : State) :
    (s.setCommand c k).pending = s.pending := by cases c <;> rfl
@[simp] theorem chan_setCommand (c : Channel) (k : Option ChannelCommand) (s : State) :
    (s.setCommand c k).chan c = { s.chan c with command := k } := by cases c <;> rfl
@[simp] theorem chan_setCommand_other (c : Channel) (k : Option ChannelCommand) (s : State) :
    (s.setCommand c k).chan c.other = s.chan c.other := by cases c <;> rfl
@[simp] theorem chan_other_setCommand (c : Channel) (k : Option ChannelCommand) (s : State) :
    (s.setCommand c.other k).chan c = s.chan c := by cases c <;> rfl

/-! ### The single blocks -/

@[simp] theorem port_updLink (f : Link → Link) (s : State) :
    (s.updLink f).port = s.port := rfl
@[simp] theorem store_updLink (f : Link → Link) (s : State) :
    (s.updLink f).store = s.store := rfl
@[simp] theorem link_updLink (f : Link → Link) (s : State) :
    (s.updLink f).link = f s.link := rfl
@[simp] theorem roster_updLink (f : Link → Link) (s : State) :
    (s.updLink f).roster = s.roster := rfl
@[simp] theorem ticketStore_updLink (f : Link → Link) (s : State) :
    (s.updLink f).ticketStore = s.ticketStore := rfl
@[simp] theorem auto_updLink (f : Link → Link) (s : State) :
    (s.updLink f).auto = s.auto := rfl
@[simp] theorem watch_updLink (f : Link → Link) (s : State) :
    (s.updLink f).watch = s.watch := rfl
@[simp] theorem softReset_updLink (f : Link → Link) (s : State) :
    (s.updLink f).softReset = s.softReset := rfl
@[simp] theorem now_updLink (f : Link → Link) (s : State) :
    (s.updLink f).now = s.now := rfl
@[simp] theorem pending_updLink (f : Link → Link) (s : State) :
    (s.updLink f).pending = s.pending := rfl
@[simp] theorem chan_updLink (c : Channel) (f : Link → Link) (s : State) :
    (s.updLink f).chan c = s.chan c := by cases c <;> rfl

@[simp] theorem port_updTickets (f : TicketStore → TicketStore) (s : State) :
    (s.updTickets f).port = s.port := rfl
@[simp] theorem store_updTickets (f : TicketStore → TicketStore) (s : State) :
    (s.updTickets f).store = s.store := rfl
@[simp] theorem link_updTickets (f : TicketStore → TicketStore) (s : State) :
    (s.updTickets f).link = s.link := rfl
@[simp] theorem roster_updTickets (f : TicketStore → TicketStore) (s : State) :
    (s.updTickets f).roster = s.roster := rfl
@[simp] theorem ticketStore_updTickets (f : TicketStore → TicketStore) (s : State) :
    (s.updTickets f).ticketStore = f s.ticketStore := rfl
@[simp] theorem auto_updTickets (f : TicketStore → TicketStore) (s : State) :
    (s.updTickets f).auto = s.auto := rfl
@[simp] theorem watch_updTickets (f : TicketStore → TicketStore) (s : State) :
    (s.updTickets f).watch = s.watch := rfl
@[simp] theorem softReset_updTickets (f : TicketStore → TicketStore) (s : State) :
    (s.updTickets f).softReset = s.softReset := rfl
@[simp] theorem now_updTickets (f : TicketStore → TicketStore) (s : State) :
    (s.updTickets f).now = s.now := rfl
@[simp] theorem pending_updTickets (f : TicketStore → TicketStore) (s : State) :
    (s.updTickets f).pending = s.pending := rfl
@[simp] theorem chan_updTickets (c : Channel) (f : TicketStore → TicketStore) (s : State) :
    (s.updTickets f).chan c = s.chan c := by cases c <;> rfl

@[simp] theorem port_updAuto (f : AutoEngine → AutoEngine) (s : State) :
    (s.updAuto f).port = s.port := rfl
@[simp] theorem store_updAuto (f : AutoEngine → AutoEngine) (s : State) :
    (s.updAuto f).store = s.store := rfl
@[simp] theorem link_updAuto (f : AutoEngine → AutoEngine) (s : State) :
    (s.updAuto f).link = s.link := rfl
@[simp] theorem roster_updAuto (f : AutoEngine → AutoEngine) (s : State) :
    (s.updAuto f).roster = s.roster := rfl
@[simp] theorem ticketStore_updAuto (f : AutoEngine → AutoEngine) (s : State) :
    (s.updAuto f).ticketStore = s.ticketStore := rfl
@[simp] theorem auto_updAuto (f : AutoEngine → AutoEngine) (s : State) :
    (s.updAuto f).auto = f s.auto := rfl
@[simp] theorem watch_updAuto (f : AutoEngine → AutoEngine) (s : State) :
    (s.updAuto f).watch = s.watch := rfl
@[simp] theorem softReset_updAuto (f : AutoEngine → AutoEngine) (s : State) :
    (s.updAuto f).softReset = s.softReset := rfl
@[simp] theorem now_updAuto (f : AutoEngine → AutoEngine) (s : State) :
    (s.updAuto f).now = s.now := rfl
@[simp] theorem pending_updAuto (f : AutoEngine → AutoEngine) (s : State) :
    (s.updAuto f).pending = s.pending := rfl
@[simp] theorem chan_updAuto (c : Channel) (f : AutoEngine → AutoEngine) (s : State) :
    (s.updAuto f).chan c = s.chan c := by cases c <;> rfl

@[simp] theorem port_updPort (f : Port → Port) (s : State) :
    (s.updPort f).port = f s.port := rfl
@[simp] theorem store_updPort (f : Port → Port) (s : State) :
    (s.updPort f).store = s.store := rfl
@[simp] theorem link_updPort (f : Port → Port) (s : State) :
    (s.updPort f).link = s.link := rfl
@[simp] theorem roster_updPort (f : Port → Port) (s : State) :
    (s.updPort f).roster = s.roster := rfl
@[simp] theorem ticketStore_updPort (f : Port → Port) (s : State) :
    (s.updPort f).ticketStore = s.ticketStore := rfl
@[simp] theorem auto_updPort (f : Port → Port) (s : State) :
    (s.updPort f).auto = s.auto := rfl
@[simp] theorem watch_updPort (f : Port → Port) (s : State) :
    (s.updPort f).watch = s.watch := rfl
@[simp] theorem softReset_updPort (f : Port → Port) (s : State) :
    (s.updPort f).softReset = s.softReset := rfl
@[simp] theorem now_updPort (f : Port → Port) (s : State) :
    (s.updPort f).now = s.now := rfl
@[simp] theorem pending_updPort (f : Port → Port) (s : State) :
    (s.updPort f).pending = s.pending := rfl
@[simp] theorem chan_updPort (c : Channel) (f : Port → Port) (s : State) :
    (s.updPort f).chan c = s.chan c := by cases c <;> rfl

@[simp] theorem port_updStore (f : Store → Store) (s : State) :
    (s.updStore f).port = s.port := rfl
@[simp] theorem store_updStore (f : Store → Store) (s : State) :
    (s.updStore f).store = f s.store := rfl
@[simp] theorem link_updStore (f : Store → Store) (s : State) :
    (s.updStore f).link = s.link := rfl
@[simp] theorem roster_updStore (f : Store → Store) (s : State) :
    (s.updStore f).roster = s.roster := rfl
@[simp] theorem ticketStore_updStore (f : Store → Store) (s : State) :
    (s.updStore f).ticketStore = s.ticketStore := rfl
@[simp] theorem auto_updStore (f : Store → Store) (s : State) :
    (s.updStore f).auto = s.auto := rfl
@[simp] theorem watch_updStore (f : Store → Store) (s : State) :
    (s.updStore f).watch = s.watch := rfl
@[simp] theorem softReset_updStore (f : Store → Store) (s : State) :
    (s.updStore f).softReset = s.softReset := rfl
@[simp] theorem now_updStore (f : Store → Store) (s : State) :
    (s.updStore f).now = s.now := rfl
@[simp] theorem pending_updStore (f : Store → Store) (s : State) :
    (s.updStore f).pending = s.pending := rfl
@[simp] theorem chan_updStore (c : Channel) (f : Store → Store) (s : State) :
    (s.updStore f).chan c = s.chan c := by cases c <;> rfl

end Sys2Proof.Machine
end

