-- ==== Sys2Proof/Laws/Invariant.lean ====
section
/-! SUPPORT. `Inv` over the updates of the state: what leaves it as it is, and the one field a block's update
must answer for. -/

namespace Sys2Proof.Machine

/-- `Inv` reads the stores and queues only. -/
theorem inv_of_fields {s t : State} (hp : t.port = s.port) (hs : t.store = s.store) (hl : t.link = s.link)
    (hr : t.roster = s.roster) (ht : t.ticketStore = s.ticketStore) (ha : t.auto.sweep = s.auto.sweep)
    (hw : t.watch = s.watch) (h : Inv s) : Inv t where
  port := hp ▸ h.port
  store := hs ▸ h.store
  link := hl ▸ h.link
  roster := hr ▸ h.roster
  fits := hs ▸ hl ▸ hr ▸ h.fits
  tickets := ht ▸ h.tickets
  sweep := ha ▸ h.sweep
  hits := hw ▸ h.hits

@[simp] theorem inv_setChan {s : State} {c : Channel} {r : ChannelRecord} : Inv (s.setChan c r) ↔ Inv s := by
  cases c <;>
  exact ⟨inv_of_fields rfl rfl rfl rfl rfl rfl rfl, inv_of_fields rfl rfl rfl rfl rfl rfl rfl⟩

@[simp] theorem inv_updSession {s : State} {c : Channel} {f : Session → Session} :
    Inv (s.updSession c f) ↔ Inv s := inv_setChan

@[simp] theorem inv_updSeq {s : State} {c : Channel} {f : Sequencer → Sequencer} :
    Inv (s.updSeq c f) ↔ Inv s := inv_setChan

@[simp] theorem inv_updClaim {s : State} {c : Channel} {f : ClaimRecord → ClaimRecord} :
    Inv (s.updClaim c f) ↔ Inv s := inv_setChan

@[simp] theorem inv_updQuiet {s : State} {c : Channel} {f : QuietRecord → QuietRecord} :
    Inv (s.updQuiet c f) ↔ Inv s := inv_setChan

@[simp] theorem inv_updClears {s : State} {c : Channel} {f : List OwedClear → List OwedClear} :
    Inv (s.updClears c f) ↔ Inv s := inv_setChan

@[simp] theorem inv_updEngine {s : State} {c : Channel} {f : EngineRecord → EngineRecord} :
    Inv (s.updEngine c f) ↔ Inv s := inv_setChan

@[simp] theorem inv_setCommand {s : State} {c : Channel} {k : Option ChannelCommand} :
    Inv (s.setCommand c k) ↔ Inv s := inv_setChan

@[simp] theorem inv_updPins {s : State} {c : Channel} {f : Pins → Pins} :
    Inv (s.updPins c f) ↔ Inv s := inv_setChan

/-- An update of the Automatic Engine that leaves the sweep record. -/
@[simp] theorem inv_updAuto {s : State} {f : AutoEngine → AutoEngine} (hf : ∀ a, (f a).sweep = a.sweep) :
    Inv (s.updAuto f) ↔ Inv s :=
  ⟨inv_of_fields rfl rfl rfl rfl rfl (hf _).symm rfl, inv_of_fields rfl rfl rfl rfl rfl (hf _) rfl⟩

/-- An update of the sweep record. -/
theorem inv_updAuto_sweep {s : State} {f : AutoEngine → AutoEngine} (h : Inv s)
    (hf : ∀ w, (f s.auto).sweep = some w → SweepOk w) : Inv (s.updAuto f) :=
  { h with sweep := hf }

/-- An update of the Console Port. -/
theorem inv_updPort {s : State} {f : Port → Port} (h : Inv s) (hf : PortOk s.port → PortOk (f s.port)) :
    Inv (s.updPort f) :=
  { h with port := hf h.port }

/-- An update of the Configuration Store that keeps the station number. -/
theorem inv_updStore {s : State} {f : Store → Store} (h : Inv s) (hf : StoreOk s.store → StoreOk (f s.store))
    (hn : (f s.store).station = s.store.station) : Inv (s.updStore f) :=
  { h with store := hf h.store, fits := { foreign := hn.symm ▸ h.fits.foreign, onLine := h.fits.onLine } }

/-- An update of the Link Controller that keeps the link state. -/
theorem inv_updLink {s : State} {f : Link → Link} (h : Inv s) (hf : LinkOk s.link → LinkOk (f s.link))
    (hn : (f s.link).state = s.link.state) : Inv (s.updLink f) :=
  { h with link := hf h.link, fits := { foreign := h.fits.foreign, onLine := hn.symm ▸ h.fits.onLine } }

/-- An update of the Ticket Store. -/
theorem inv_updTickets {s : State} {f : TicketStore → TicketStore} (h : Inv s)
    (hf : TicketsOk s.ticketStore → TicketsOk (f s.ticketStore)) : Inv (s.updTickets f) :=
  { h with tickets := hf h.tickets }

/-- An update of the roster. -/
theorem inv_roster {s : State} {r : List Peer} (h : Inv s) (hr : RosterOk r)
    (hf : RosterFits s.store.station s.link.state r) : Inv { s with roster := r } :=
  { h with roster := hr, fits := hf }

/-- An update of the Line Watch. -/
theorem inv_watch {s : State} {w : Watch} (h : Inv s) (hw : w.hits ≤ Config.countMax) :
    Inv { s with watch := w } :=
  { h with hits := hw }

end Sys2Proof.Machine
end

