-- ==== Sys2Proof/Laws/Port.lean ====
section
/-! SUPPORT. The event queue and the port under the shared operations of Ops.lean: room, completions, results,
the command phase; the fields of a result. -/

namespace Sys2Proof.Machine

/-! ### Fields -/

/-- An absent mark is not the zero of its place (R197). -/
theorem absentMark_ne_zero (t : RecordTable) (row part : Nat) :
    absentMark t row part ≠ Config.fieldBytes t row part (.number 0) := by
  unfold absentMark
  dsimp only
  split
  · rename_i h
    rw [← h]
    exact List.cons_ne_self _ _
  · assumption

/-- A field that is present has its value's bytes (R197). -/
@[simp] theorem Field.bytes_some {t : RecordTable} {row part : Nat} {v : FieldValue} :
    Field.bytes ⟨t, row, part, some v⟩ = Config.fieldBytes t row part v := rfl

/-- A field that is absent has its absent mark (R197). -/
@[simp] theorem Field.bytes_none {t : RecordTable} {row part : Nat} :
    Field.bytes ⟨t, row, part, none⟩ = absentMark t row part := rfl

/-! ### Which kinds are completions -/

@[simp] theorem isCompletion_accessDone : EventKind.isCompletion .accessDone = true := by decide
@[simp] theorem isCompletion_measureDone : EventKind.isCompletion .measureDone = true := by decide
@[simp] theorem isCompletion_releaseDone : EventKind.isCompletion .releaseDone = true := by decide
@[simp] theorem isCompletion_sessionEnded : EventKind.isCompletion .sessionEnded = true := by decide
@[simp] theorem isCompletion_offHook : EventKind.isCompletion .offHook = false := by decide
@[simp] theorem isCompletion_onHook : EventKind.isCompletion .onHook = false := by decide
@[simp] theorem isCompletion_lateConfirm : EventKind.isCompletion .lateConfirm = false := by decide
@[simp] theorem isCompletion_ticketOpened : EventKind.isCompletion .ticketOpened = false := by decide
@[simp] theorem isCompletion_ticketCleared : EventKind.isCompletion .ticketCleared = false := by decide
@[simp] theorem isCompletion_ticketMerged : EventKind.isCompletion .ticketMerged = false := by decide
@[simp] theorem isCompletion_ticketStoreFull : EventKind.isCompletion .ticketStoreFull = false := by decide
@[simp] theorem isCompletion_retestExhausted : EventKind.isCompletion .retestExhausted = false := by decide
@[simp] theorem isCompletion_handoverDone : EventKind.isCompletion .handoverDone = false := by decide
@[simp] theorem isCompletion_handoverFailed : EventKind.isCompletion .handoverFailed = false := by decide
@[simp] theorem isCompletion_handoverLate : EventKind.isCompletion .handoverLate = false := by decide
@[simp] theorem isCompletion_ticketHandedIn : EventKind.isCompletion .ticketHandedIn = false := by decide
@[simp] theorem isCompletion_sweepDone : EventKind.isCompletion .sweepDone = false := by decide
@[simp] theorem isCompletion_sweepSkipped : EventKind.isCompletion .sweepSkipped = false := by decide
@[simp] theorem isCompletion_blockSkipped : EventKind.isCompletion .blockSkipped = false := by decide
@[simp] theorem isCompletion_stepDone : EventKind.isCompletion .stepDone = false := by decide
@[simp] theorem isCompletion_stepIdle : EventKind.isCompletion .stepIdle = false := by decide
@[simp] theorem isCompletion_frozen : EventKind.isCompletion .frozen = false := by decide
@[simp] theorem isCompletion_itemResult : EventKind.isCompletion .itemResult = false := by decide
@[simp] theorem isCompletion_watchHit : EventKind.isCompletion .watchHit = false := by decide
@[simp] theorem isCompletion_trunkCondition : EventKind.isCompletion .trunkCondition = false := by decide
@[simp] theorem isCompletion_linkState : EventKind.isCompletion .linkState = false := by decide
@[simp] theorem isCompletion_peerJoined : EventKind.isCompletion .peerJoined = false := by decide
@[simp] theorem isCompletion_peerDropped : EventKind.isCompletion .peerDropped = false := by decide
@[simp] theorem isCompletion_clash : EventKind.isCompletion .clash = false := by decide

/-! ### Counting -/

theorem generalCount_append (l m : List Event) : generalCount (l ++ m) = generalCount l + generalCount m := by
  simp [generalCount]

/-- A map that changes no event's kind keeps the general count. -/
theorem generalCount_map (l : List Event) (f : Event → Event) (hf : ∀ e, (f e).kind = e.kind) :
    generalCount (l.map f) = generalCount l := by
  induction l with
  | nil => rfl
  | cons e l ih =>
    simp only [generalCount, List.map_cons, List.filter_cons, hf] at *
    split <;> simp [ih]

/-- A map that changes no event's kind or channel keeps the completions. -/
theorem completions_map (l : List Event) (c : Channel) (f : Event → Event)
    (hk : ∀ e, (f e).kind = e.kind) (hc : ∀ e, (f e).channel = e.channel) :
    ((l.map f).filter (·.completes c)).length = (l.filter (·.completes c)).length := by
  induction l with
  | nil => rfl
  | cons e l ih =>
    simp only [List.map_cons, List.filter_cons, Event.completes, hk, hc] at *
    split <;> simp [ih]

/-- A queue with no completion of a channel counts none. -/
theorem completions_of_not_done {s : State} {c : Channel} (h : s.done c = false) :
    (s.port.events.filter (·.completes c)).length = 0 := by
  simpa [State.done] using h

/-! ### Events entering -/

theorem portOk_tail {p : Port} (h : PortOk p) {e : Event} {l : List Event} (he : p.events = e :: l) :
    PortOk { p with events := l } where
  general := by
    have := h.general
    rw [he] at this
    unfold generalCount at *
    rw [List.filter_cons] at this
    split at this <;> simp at * <;> omega
  completions c := by
    have := h.completions c
    rw [he, List.filter_cons] at this
    change (l.filter (·.completes c)).length ≤ 1
    split at this
    · rw [List.length_cons] at this; omega
    · exact this
  named e' hm := h.named e' (by rw [he]; exact List.mem_cons_of_mem _ hm)
  lost := h.lost

theorem portOk_general {p : Port} (h : PortOk p) {e : Event} (he : e.kind.isCompletion = false)
    (hr : generalCount p.events < Config.eventSlots) {n : Nat} (hn : n ≤ Config.countMax) :
    PortOk { p with events := p.events ++ [e], lost := n } where
  general := by
    rw [generalCount_append]
    simp [generalCount, he] at *
    omega
  completions c := by
    have := h.completions c
    simpa [Event.completes, he] using this
  named e' hm := by
    rcases List.mem_append.1 hm with hm | hm
    · exact h.named e' hm
    · rw [List.mem_singleton.1 hm, he]; simp
  lost := hn

theorem portOk_completion {p : Port} (h : PortOk p) {e : Event} {c : Channel}
    (he : e.kind.isCompletion = true) (hc : e.channel = some c)
    (hr : (p.events.filter (·.completes c)).length = 0) {n : Nat} (hn : n ≤ Config.countMax) :
    PortOk { p with events := p.events ++ [e], lost := n } where
  general := by
    rw [generalCount_append]
    have := h.general
    simpa [generalCount, he] using this
  completions d := by
    have hd := h.completions d
    simp only [List.filter_append, List.length_append]
    by_cases hdc : d = c
    · subst hdc
      rw [hr]
      simp [Event.completes, he, hc]
    · have : e.completes d = false := by
        simp [Event.completes, hc, Ne.symm hdc]
      simpa [this] using hd
  named e' hm := by
    rcases List.mem_append.1 hm with hm | hm
    · exact h.named e' hm
    · rw [List.mem_singleton.1 hm, hc]; simp
  lost := hn

/-- An event that is no completion enters or is counted as lost (R204). -/
@[simp] theorem inv_emit {s : State} {e : Event} (he : e.kind.isCompletion = false) (h : Inv s) :
    Inv (emit e s) := by
  unfold emit
  split
  · next hr => exact inv_updPort (s := s) (f := fun _ => _) h fun hp =>
      portOk_general (e := { e with time := s.store.clock, lostBefore := s.port.lost }) hp he hr (Nat.zero_le _)
  · refine inv_updPort (s := s) (f := fun _ => _) h fun hp => { hp with lost := ?_ }
    exact Nat.min_le_left _ _

@[simp] theorem inv_complete {s : State} {c : Channel} {e : Event} (he : e.kind.isCompletion = true) (h : Inv s) :
    Inv (complete c e s) := by
  unfold complete
  rw [inv_setCommand]
  split
  · exact h
  · next hd =>
    exact inv_updPort (s := s) (f := fun _ => _) h fun hp =>
      portOk_completion (e := { e with time := s.store.clock, channel := some c, lostBefore := s.port.lost }) hp he rfl
        (completions_of_not_done (by simpa using hd)) (Nat.zero_le _)

@[simp] theorem inv_writeSessionEnd {s : State} {c : Channel} {k : SessionEndCause} (h : Inv s) :
    Inv (writeSessionEnd c k s) := by
  have hk : ∀ e : Event, (if e.completes c then { e with sessionEnd := some k } else e).kind = e.kind := by
    intro e; split <;> rfl
  have hc : ∀ e : Event, (if e.completes c then { e with sessionEnd := some k } else e).channel = e.channel := by
    intro e; split <;> rfl
  refine inv_updPort (s := s) (f := fun _ => _) h fun hp =>
    { general := ?_, completions := fun d => ?_, named := ?_, lost := hp.lost }
  · rw [generalCount_map _ _ hk]; exact hp.general
  · rw [completions_map _ _ _ hk hc]; exact hp.completions d
  · intro e he
    obtain ⟨e', hm, rfl⟩ := List.mem_map.1 he
    rw [hk, hc]
    exact hp.named e' hm

@[simp] theorem inv_emitLinkState {s : State} (h : Inv s) : Inv (emitLinkState s) := by
  simp [emitLinkState, h]

/-! ### The command phase -/

@[simp] theorem inv_holdResult {s : State} {ph : PortPhase} {k : Option CommandName} {a : Answer} (h : Inv s) :
    Inv (holdResult ph k a s) :=
  inv_updPort (s := s) (f := fun _ => _) h fun hp => ⟨hp.general, hp.completions, hp.named, hp.lost⟩

/-- A command phase keeps what its command keeps. -/
theorem inv_commandPhase {s : State} {take : State → Answer × State} (h : Inv s) (ht : Inv (take s).2) :
    Inv (commandPhase take s) := by
  unfold commandPhase
  split
  · exact inv_holdResult ht
  · exact h

/-- An update of the port that leaves its events and its lost count. -/
theorem inv_updPort_phase {s : State} {f : Port → Port} (h : Inv s) (he : (f s.port).events = s.port.events)
    (hl : (f s.port).lost = s.port.lost) : Inv (s.updPort f) :=
  inv_updPort h fun hp =>
    ⟨he ▸ hp.general, he ▸ hp.completions, he ▸ hp.named, hl ▸ hp.lost⟩

@[simp] theorem inv_idle {s : State} (h : Inv s) : Inv (idle s) :=
  inv_of_fields (s := { s with port := { s.port with phase := _ } }) rfl rfl rfl rfl rfl rfl rfl
    (inv_updPort_phase (f := fun p => { p with phase := _ }) h rfl rfl)

end Sys2Proof.Machine
end

