-- ==== Sys2Proof/Laws/TicketStore.lean ====
section
/-! SUPPORT. The Ticket Store's own operations keep its sizes, its numbers and lines apart, and each ticket within
its limits; the number given is no ticket's. -/

namespace Sys2Proof.Machine

/-! ### Finding -/

theorem byNumber_mem {ts : TicketStore} {n : TicketNo} {t : Ticket} (h : ts.byNumber n = some t) :
    t ∈ ts.tickets ∧ t.number = n :=
  ⟨List.mem_of_find?_eq_some h, by simpa using List.find?_some h⟩

theorem byLine_mem {ts : TicketStore} {l : Line} {t : Ticket} (h : ts.byLine l = some t) :
    t ∈ ts.tickets ∧ t.line = l :=
  ⟨List.mem_of_find?_eq_some h, by simpa using List.find?_some h⟩

theorem byLine_none {ts : TicketStore} {l : Line} (h : ts.byLine l = none) : ∀ t ∈ ts.tickets, t.line ≠ l := by
  simpa [TicketStore.byLine] using h

theorem indexFor_none {ts : TicketStore} {l : Line} (h : ts.indexFor l = none) : ∀ e ∈ ts.index, e.line ≠ l := by
  simpa [TicketStore.indexFor] using h

/-- A ticket, frame or peer of a store is known by its key, where the store has no key twice. -/
theorem same_of_key {ε κ : Type} {key : ε → κ} {store : List ε} (apart : (store.map key).Nodup) {x y : ε}
    (hx : x ∈ store) (hy : y ∈ store) (hk : key x = key y) : x = y := by
  obtain ⟨i, hi, rfl⟩ := List.getElem_of_mem hx
  obtain ⟨j, hj, rfl⟩ := List.getElem_of_mem hy
  have hij : i = j := (List.getElem_inj (h₀ := by simpa using hi) (h₁ := by simpa using hj) apart).1 (by simpa using hk)
  subst hij
  rfl

/-- Every ticket with a number is on one line. -/
def NumberOnLine (n : TicketNo) (l : Line) (ts : TicketStore) : Prop := ∀ t ∈ ts.tickets, t.number = n → t.line = l

theorem numberOnLine_of_byNumber {ts : TicketStore} (h : TicketsOk ts) {n : TicketNo} {t : Ticket}
    (ht : ts.byNumber n = some t) : NumberOnLine n t.line ts := fun u hu hn => by
  have hm := byNumber_mem ht
  rw [same_of_key h.numbers hu hm.1 (hn.trans hm.2.symm)]

/-! ### Changing tickets in place -/

theorem ticketsOk_map {ts : TicketStore} (h : TicketsOk ts) {f : Ticket → Ticket}
    (hn : ∀ t ∈ ts.tickets, (f t).number = t.number) (hl : ∀ t ∈ ts.tickets, (f t).line = t.line)
    (hf : ∀ t ∈ ts.tickets, TicketOk t → TicketOk (f t)) :
    TicketsOk { ts with tickets := ts.tickets.map f } where
  size := by simpa using h.size
  numbers := by
    have : (ts.tickets.map f).map (·.number) = ts.tickets.map (·.number) := by
      rw [List.map_map]; exact List.map_congr_left hn
    rw [this]; exact h.numbers
  lines := by
    have : (ts.tickets.map f).map (·.line) = ts.tickets.map (·.line) := by
      rw [List.map_map]; exact List.map_congr_left hl
    rw [this]; exact h.lines
  tickets t ht := by
    obtain ⟨u, hu, rfl⟩ := List.mem_map.1 ht
    exact hf u hu (h.tickets u hu)
  index := h.index
  indexLines := h.indexLines
  apart t ht e he := by
    obtain ⟨u, hu, rfl⟩ := List.mem_map.1 ht
    rw [hl u hu]; exact h.apart u hu e he
  closedNotes := h.closedNotes
  next := h.next

theorem ticketsOk_update {ts : TicketStore} (h : TicketsOk ts) {n : TicketNo} {f : Ticket → Ticket}
    (hn : ∀ t, (f t).number = t.number) (hl : ∀ t, (f t).line = t.line)
    (hf : ∀ t, TicketOk t → TicketOk (f t)) : TicketsOk (updateTicket n f ts) := by
  refine ticketsOk_map h ?_ ?_ ?_ <;> intro t _ <;> split <;> simp_all

theorem ticketsOk_set {ts : TicketStore} (h : TicketsOk ts) {u : Ticket} {n : TicketNo} (hn : u.number = n)
    (hl : NumberOnLine n u.line ts) (hu : TicketOk u) : TicketsOk (updateTicket n (fun _ => u) ts) := by
  refine ticketsOk_map h ?_ ?_ ?_ <;> intro t ht <;> split
  · next e => rw [hn, e]
  · rfl
  · next e => exact (hl t ht e).symm
  · rfl
  · exact fun _ => hu
  · exact id

theorem numberOnLine_update {ts : TicketStore} {n m : TicketNo} {l : Line} {f : Ticket → Ticket}
    (hn : ∀ t, (f t).number = t.number) (hl : ∀ t, (f t).line = t.line) (h : NumberOnLine n l ts) :
    NumberOnLine n l (updateTicket m f ts) := by
  intro t ht he
  obtain ⟨u, hu, rfl⟩ := List.mem_map.1 ht
  split at he
  · next e => rw [hn] at he; rw [if_pos e, hl]; exact h u hu he
  · next e => rw [if_neg e]; exact h u hu he

/-! ### Removing tickets -/

theorem ticketsOk_filter {ts : TicketStore} (h : TicketsOk ts) (p : Ticket → Bool) :
    TicketsOk { ts with tickets := ts.tickets.filter p } where
  size := Nat.le_trans (List.length_filter_le _ _) h.size
  numbers := (List.filter_sublist.map _).nodup h.numbers
  lines := (List.filter_sublist.map _).nodup h.lines
  tickets t ht := h.tickets t (List.mem_of_mem_filter ht)
  index := h.index
  indexLines := h.indexLines
  apart t ht := h.apart t (List.mem_of_mem_filter ht)
  closedNotes := h.closedNotes
  next := h.next

theorem ticketsOk_remove {ts : TicketStore} (h : TicketsOk ts) (n : TicketNo) : TicketsOk (removeTicket n ts) :=
  ticketsOk_filter h _

theorem ticketsOk_addClosedNote {ts : TicketStore} (h : TicketsOk ts) (e : NoteEntry) :
    TicketsOk (addClosedNote e ts) :=
  { h with
    closedNotes := by
      have hc := h.closedNotes
      have hk : Config.closedNoteSlots = 16 := rfl
      simp only [addClosedNote, List.length_append, List.length_singleton]
      split
      · omega
      · rw [List.length_drop]; omega }

/-- Closed entries that leave the list. -/
theorem ticketsOk_dropNotes {ts : TicketStore} (h : TicketsOk ts) (p : NoteEntry → Bool) :
    TicketsOk { ts with closedNotes := ts.closedNotes.filter p } :=
  { h with closedNotes := Nat.le_trans (List.length_filter_le _ _) h.closedNotes }

theorem ticketsOk_evict {ts : TicketStore} (h : TicketsOk ts) : TicketsOk (evict ts) := by
  unfold evict
  split
  · exact h
  · split
    · exact h
    · apply ticketsOk_remove
      split
      · exact ticketsOk_addClosedNote h _
      · exact h

/-- A store that loses an entry is shorter. -/
theorem shorter_of_removed {ε : Type} {store : List ε} {stays : ε → Bool} {x : ε} (hx : x ∈ store)
    (hgone : stays x = false) : (store.filter stays).length < store.length :=
  List.length_filter_lt_length_iff_exists.2 ⟨x, hx, by simp [hgone]⟩

/-- A store with room has a slot free after an eviction (R143). -/
theorem evict_length {ts : TicketStore} (h : TicketsOk ts) (hr : ts.hasRoom = true) :
    (evict ts).tickets.length < Config.ticketSlots := by
  unfold evict
  split
  · assumption
  · next hfull =>
    have hany : ts.tickets.any (·.state == .cleared) = true := by
      simpa [TicketStore.hasRoom, hfull] using hr
    obtain ⟨x, hx, hc⟩ := List.any_eq_true.1 hany
    cases hf : ts.tickets.find? (·.state == .cleared) with
    | none => exact absurd hc (by simpa using List.find?_eq_none.1 hf x hx)
    | some t =>
      have hm := List.mem_of_find?_eq_some hf
      have : ∀ r : TicketStore, r.tickets = ts.tickets →
          (removeTicket t.number r).tickets.length < Config.ticketSlots := fun r hr' => by
        refine Nat.lt_of_lt_of_le ?_ h.size
        rw [← hr']
        exact shorter_of_removed (x := t) (hr' ▸ hm) (by simp)
      refine this _ ?_
      split <;> rfl

theorem evict_tickets_sub {ts : TicketStore} : ∀ t ∈ (evict ts).tickets, t ∈ ts.tickets := by
  intro t ht
  unfold evict at ht
  split at ht
  · exact ht
  · split at ht
    · exact ht
    · have := List.mem_of_mem_filter ht
      split at this <;> exact this

theorem evict_index {ts : TicketStore} : (evict ts).index = ts.index := by
  unfold evict
  split
  · rfl
  · split
    · rfl
    · split <;> rfl

/-! ### The number a new ticket takes (R143) -/

/-- The number `k` places after a ticket number. -/
def numberPlus (n k : Nat) : Nat := (n - 1 + k) % 9999 + 1

theorem numberAfter_eq {n : Nat} (h : 1 ≤ n ∧ n ≤ 9999) : numberAfter n = numberPlus n 1 := by
  unfold numberAfter numberPlus
  by_cases hk : n < 9999
  · rw [if_pos (show n < Config.ticketMax from hk)]
    show @Eq Nat _ _
    omega
  · rw [if_neg (show ¬ n < Config.ticketMax from hk)]
    show @Eq Nat _ _
    omega

theorem numberPlus_zero {n : Nat} (h : 1 ≤ n ∧ n ≤ 9999) : numberPlus n 0 = n := by
  unfold numberPlus; omega

theorem numberPlus_range (n k : Nat) : 1 ≤ numberPlus n k ∧ numberPlus n k ≤ 9999 := by
  unfold numberPlus; omega

theorem numberPlus_succ {n : Nat} (k : Nat) : numberPlus (numberPlus n 1) k = numberPlus n (k + 1) := by
  unfold numberPlus; omega

theorem numberPlus_inj {n a b : Nat} (ha : a < 9999) (hb : b < 9999) (h : numberPlus n a = numberPlus n b) :
    a = b := by
  unfold numberPlus at h; omega

/-- Where `freeNumber` ends on a number in use, every number it looked at is in use. -/
theorem freeNumber_used {ts : TicketStore} {fuel n : Nat} (hn : 1 ≤ n ∧ n ≤ 9999)
    (h : freeNumber ts fuel n ∈ ts.tickets.map (·.number)) :
    ∀ k, k ≤ fuel → numberPlus n k ∈ ts.tickets.map (·.number) := by
  induction fuel generalizing n with
  | zero =>
    intro k hk
    rw [Nat.le_zero.1 hk, numberPlus_zero hn]
    exact h
  | succ fuel ih =>
    intro k hk
    have hused : n ∈ ts.tickets.map (·.number) := by
      rw [freeNumber] at h
      split at h
      · next ha =>
        obtain ⟨t, ht, hb⟩ := List.any_eq_true.1 ha
        exact List.mem_map.2 ⟨t, ht, by simpa using hb⟩
      · exact h
    cases k with
    | zero => rw [numberPlus_zero hn]; exact hused
    | succ k =>
      have ha : ts.tickets.any (·.number == n) = true := by
        obtain ⟨t, ht, hb⟩ := List.mem_map.1 hused
        exact List.any_eq_true.2 ⟨t, ht, by simpa using hb⟩
      rw [freeNumber, if_pos ha, numberAfter_eq hn] at h
      rw [← numberPlus_succ]
      exact ih (numberPlus_range n 1) h k (Nat.le_of_succ_le_succ hk)

theorem freeNumber_range {ts : TicketStore} {fuel n : Nat} (hn : 1 ≤ n ∧ n ≤ 9999) :
    1 ≤ freeNumber ts fuel n ∧ freeNumber ts fuel n ≤ 9999 := by
  induction fuel generalizing n with
  | zero => exact hn
  | succ fuel ih =>
    rw [freeNumber]
    split
    · rw [numberAfter_eq hn]; exact ih (numberPlus_range n 1)
    · exact hn

/-- `freeNumber` goes past numbers in use only (R143). -/
theorem freeNumber_walk {ts : TicketStore} {fuel n : Nat} (hn : 1 ≤ n ∧ n ≤ 9999) :
    ∃ k, freeNumber ts fuel n = numberPlus n k ∧ ∀ j < k, ∃ t ∈ ts.tickets, t.number = numberPlus n j := by
  induction fuel generalizing n with
  | zero => exact ⟨0, (numberPlus_zero hn).symm, fun j h => absurd h (Nat.not_lt_zero j)⟩
  | succ fuel ih =>
    rw [freeNumber]
    split
    · next ha =>
      obtain ⟨t, ht, hb⟩ := List.any_eq_true.1 ha
      obtain ⟨k, hk, hj⟩ := ih (numberPlus_range n 1)
      refine ⟨k + 1, by rw [numberAfter_eq hn, hk, numberPlus_succ], fun j hlt => ?_⟩
      cases j with
      | zero => exact ⟨t, ht, by rw [numberPlus_zero hn]; simpa using hb⟩
      | succ j => rw [← numberPlus_succ]; exact hj j (Nat.lt_of_succ_lt_succ hlt)
    · exact ⟨0, (numberPlus_zero hn).symm, fun j h => absurd h (Nat.not_lt_zero j)⟩

/-- The number given is no ticket's (R143). -/
theorem newNumber_free {ts : TicketStore} (h : TicketsOk ts) : newNumber ts ∉ ts.tickets.map (·.number) := by
  intro hu
  have hall := freeNumber_used h.next hu
  have hsize : ts.tickets.length ≤ 96 := h.size
  have hnd : ((List.range (ts.tickets.length + 1)).map (numberPlus ts.nextNumber)).Nodup := by
    rw [List.nodup_map_iff_inj_on List.nodup_range]
    intro a ha b hb hab
    rw [List.mem_range] at ha hb
    exact numberPlus_inj (by omega) (by omega) hab
  have hsub : ((List.range (ts.tickets.length + 1)).map (numberPlus ts.nextNumber)) ⊆ ts.tickets.map (·.number) := by
    intro x hx
    obtain ⟨k, hk, rfl⟩ := List.mem_map.1 hx
    exact hall k (Nat.lt_succ_iff.1 (List.mem_range.1 hk))
  have := (List.subperm_of_subset hnd hsub).length_le
  simp at this

theorem newNumber_range {ts : TicketStore} (h : TicketsOk ts) : 1 ≤ newNumber ts ∧ newNumber ts ≤ 9999 :=
  freeNumber_range h.next

/-- A ticket added to a store with room, on a line with no ticket and no index entry (R143, R146). -/
theorem ticketsOk_addTicket {ts : TicketStore} (h : TicketsOk ts) (hr : ts.hasRoom = true) {mk : TicketNo → Ticket}
    {l : Line} (hn : ∀ n, (mk n).number = n) (hl : ∀ n, (mk n).line = l) (hk : ∀ n, TicketOk (mk n))
    (ht : ∀ t ∈ ts.tickets, t.line ≠ l) (hi : ∀ e ∈ ts.index, e.line ≠ l) : TicketsOk (addTicket mk ts) := by
  have he := ticketsOk_evict h
  have hlen := evict_length h hr
  have hf := newNumber_free he
  have hg := newNumber_range he
  refine { size := ?_, numbers := ?_, lines := ?_, tickets := ?_, index := he.index, indexLines := he.indexLines,
           apart := ?_, closedNotes := he.closedNotes, next := ?_ }
  · simp only [addTicket, List.length_append, List.length_singleton]; omega
  · simp only [addTicket, List.map_append, List.map_cons, List.map_nil, hn]
    rw [List.nodup_append]
    refine ⟨he.numbers, by simp, fun a ha b hb => ?_⟩
    rw [List.mem_singleton.1 hb]
    rintro rfl
    exact hf ha
  · simp only [addTicket, List.map_append, List.map_cons, List.map_nil, hl]
    rw [List.nodup_append]
    refine ⟨he.lines, by simp, fun a ha b hb => ?_⟩
    rw [List.mem_singleton.1 hb]
    obtain ⟨t, hm, rfl⟩ := List.mem_map.1 ha
    exact ht t (evict_tickets_sub t hm)
  · intro t hm
    rcases List.mem_append.1 hm with hm | hm
    · exact he.tickets t hm
    · rw [List.mem_singleton.1 hm]; exact hk _
  · intro t hm e hx
    rcases List.mem_append.1 hm with hm | hm
    · exact he.apart t hm e hx
    · rw [List.mem_singleton.1 hm, hl]
      exact (hi e (by have : e ∈ (evict ts).index := hx; rwa [evict_index] at this)).symm
  · simp only [addTicket]
    rw [numberAfter_eq hg]
    exact numberPlus_range _ _

/-! ### The index -/

theorem ticketsOk_putIndex {ts : TicketStore} (h : TicketsOk ts) {e : IndexEntry}
    (ht : ∀ t ∈ ts.tickets, t.line ≠ e.line) : TicketsOk (putIndex e ts) := by
  by_cases ha : ts.index.any (·.line == e.line) = true
  · have hmap : (ts.index.map fun x => if x.line = e.line then e else x).map (·.line) = ts.index.map (·.line) := by
      rw [List.map_map]
      refine List.map_congr_left fun x _ => ?_
      simp only [Function.comp]
      split
      · next hx => exact hx.symm
      · rfl
    simp only [putIndex, if_pos ha]
    exact { h with
      index := by simpa using h.index
      indexLines := by rw [hmap]; exact h.indexLines
      apart := fun t hm x hx => by
        obtain ⟨y, hy, rfl⟩ := List.mem_map.1 hx
        split
        · exact ht t hm
        · exact h.apart t hm y hy }
  · simp only [putIndex, if_neg ha]
    split
    · next hlen =>
      exact { h with
        index := by simp; omega
        indexLines := by
          rw [List.map_append, List.nodup_append]
          refine ⟨h.indexLines, by simp, fun a hm b hb => ?_⟩
          obtain ⟨x, hx, rfl⟩ := List.mem_map.1 hm
          intro hc
          have he : b = e.line := by simpa using hb
          exact ha (List.any_eq_true.2 ⟨x, hx, by simpa using hc.trans he⟩)
        apart := fun t hm x hx => by
          rcases List.mem_append.1 hx with hx | hx
          · exact h.apart t hm x hx
          · rw [List.mem_singleton.1 hx]; exact ht t hm }
    · exact h

theorem ticketsOk_filterIndex {ts : TicketStore} (h : TicketsOk ts) (p : IndexEntry → Bool) :
    TicketsOk { ts with index := ts.index.filter p } :=
  { h with
    index := Nat.le_trans (List.length_filter_le _ _) h.index
    indexLines := (List.filter_sublist.map _).nodup h.indexLines
    apart := fun t ht e he => h.apart t ht e (List.mem_of_mem_filter he) }

theorem ticketsOk_dropIndexLine {ts : TicketStore} (h : TicketsOk ts) (l : Line) : TicketsOk (dropIndexLine l ts) :=
  ticketsOk_filterIndex h _

theorem ticketsOk_noIndex {ts : TicketStore} (h : TicketsOk ts) : TicketsOk { ts with index := [] } :=
  { h with index := Nat.zero_le _, indexLines := List.nodup_nil, apart := fun _ _ _ he => nomatch he }

/-- An index entry dropped from the line that a ticket then takes. -/
theorem addTicket_dropIndexLine {mk : TicketNo → Ticket} {l : Line} {ts : TicketStore} :
    dropIndexLine l (addTicket mk ts) = addTicket mk (dropIndexLine l ts) := by
  have : evict (dropIndexLine l ts) = dropIndexLine l (evict ts) := by
    unfold evict
    by_cases hc : ts.tickets.length < Config.ticketSlots
    · simp [dropIndexLine, hc]
    · simp only [dropIndexLine, hc, if_false]
      cases ts.tickets.find? (·.state == .cleared) with
      | none => rfl
      | some t => by_cases ha : t.announcePending = true <;> simp [ha, removeTicket, addClosedNote]
  simp only [addTicket, this]
  simp only [dropIndexLine, newNumber]
  have hfree : ∀ fuel n, freeNumber { evict ts with index := (evict ts).index.filter (·.line != l) } fuel n =
      freeNumber (evict ts) fuel n := by
    intro fuel
    induction fuel with
    | zero => intro n; rfl
    | succ fuel ih => intro n; simp only [freeNumber, ih]
  simp only [hfree]

/-! ### Tickets changed -/

/-- A change of a ticket that leaves what its limits speak of. -/
theorem ticketOk_of_fields {t u : Ticket} (h : TicketOk t) (hc : u.cls = t.cls)
    (ho : u.observations = t.observations) (hs : u.streak = t.streak) (hst : u.state = t.state)
    (hh : u.handover = t.handover) (hp : u.plan = t.plan) : TicketOk u where
  cls := hc ▸ h.cls
  observations := ho ▸ h.observations
  streak := hs ▸ h.streak
  offered := by rw [hst, hh]; exact h.offered
  planned := by rw [hst, hh, hp]; exact h.planned
  plan := by rw [hp]; exact h.plan

theorem ticketsOk_announceOpen {ts : TicketStore} (h : TicketsOk ts) : TicketsOk (announceOpen ts) := by
  refine ticketsOk_map h ?_ ?_ ?_ <;> intro t _
  · split <;> rfl
  · split <;> rfl
  · intro ht; split
    · exact ticketOk_of_fields ht rfl rfl rfl rfl rfl rfl
    · exact ht

theorem ticketsOk_releaseNote {ts : TicketStore} (h : TicketsOk ts) (n : TicketNo) : TicketsOk (releaseNote n ts) :=
  ticketsOk_update h (fun _ => rfl) (fun _ => rfl) fun _ ht => ticketOk_of_fields ht rfl rfl rfl rfl rfl rfl

theorem ticketsOk_releaseAllNotes {ts : TicketStore} (h : TicketsOk ts) : TicketsOk (releaseAllNotes ts) :=
  ticketsOk_map h (fun _ _ => rfl) (fun _ _ => rfl) fun _ _ ht => ticketOk_of_fields ht rfl rfl rfl rfl rfl rfl

theorem addObservation_length {o : Observation} {l : List Observation} (h : l.length ≤ Config.observationSlots) :
    (addObservation o l).length ≤ Config.observationSlots := by
  have hk : Config.observationSlots = 8 := rfl
  simp only [addObservation, List.length_append, List.length_singleton]
  split
  · omega
  · rw [List.length_drop]; omega

@[simp] theorem observed_number (o : Observation) (t : Ticket) : (observed o t).number = t.number := by
  unfold observed; split
  · split <;> rfl
  · rfl

@[simp] theorem observed_line (o : Observation) (t : Ticket) : (observed o t).line = t.line := by
  unfold observed; split
  · split <;> rfl
  · rfl

theorem ticketOk_observed {o : Observation} {t : Ticket} (h : TicketOk t) : TicketOk (observed o t) := by
  have hobs := addObservation_length (o := o) h.observations
  unfold observed
  split
  · next hf =>
    have hcls : o.cls.failing = true := by simp at hf; exact hf.1
    split
    · next hc =>
      have hp : t.plan.isSome = false := by
        have := h.planned
        rw [hc] at this
        simpa using this
      exact { cls := hcls, observations := hobs, streak := Nat.zero_le _, offered := fun hx => (nomatch hx),
              planned := by simp [hp], plan := h.plan }
    · exact { cls := hcls, observations := hobs, streak := Nat.zero_le _, offered := h.offered,
              planned := h.planned, plan := h.plan }
  · exact { h with observations := hobs }

@[simp] theorem inv_appendObservation {n : TicketNo} {o : Observation} {s : State} (h : Inv s) :
    Inv (appendObservation n o s) := by
  unfold appendObservation
  have hu : Inv (s.updTickets (updateTicket n (observed o))) :=
    inv_updTickets h fun ht => ticketsOk_update ht (observed_number o) (observed_line o) fun _ => ticketOk_observed
  split
  · exact h
  · split
    · exact inv_emit (by simp [ticketClassEvent, ticketEvent]) hu
    · exact hu

theorem handoverReturned_number (k : Bool) (t : Ticket) : (handoverReturned k t).number = t.number := by
  unfold handoverReturned; split <;> rfl

theorem handoverReturned_line (k : Bool) (t : Ticket) : (handoverReturned k t).line = t.line := by
  unfold handoverReturned; split <;> rfl

/-- A ticket in HANDOVER returns to its prior state within its limits (R163). -/
theorem ticketOk_handoverReturned {k : Bool} {t : Ticket} (h : TicketOk t) (hs : t.state = .handover) :
    TicketOk (handoverReturned k t) := by
  unfold handoverReturned
  split
  · exact h
  · next x hx =>
    have hp := h.planned
    rw [hs, hx] at hp
    refine { cls := h.cls, observations := h.observations, streak := h.streak, offered := ?_, planned := ?_,
             plan := h.plan }
    · intro hc; split at hc <;> cases hc
    · cases hpr : x.priorRetest <;> simp [hpr] at hp ⊢ <;> exact hp

theorem ticketsOk_returnHandover {ts : TicketStore} (h : TicketsOk ts) {t : Ticket} (ht : t ∈ ts.tickets)
    (hs : t.state = .handover) (k : Bool) : TicketsOk (updateTicket t.number (handoverReturned k) ts) := by
  refine ticketsOk_map h ?_ ?_ ?_ <;> intro u hu <;> split
  · exact handoverReturned_number k u
  · rfl
  · exact handoverReturned_line k u
  · rfl
  · next e =>
    rw [same_of_key h.numbers hu ht e]
    exact fun hk => ticketOk_handoverReturned hk hs
  · exact id

end Sys2Proof.Machine
end

