-- ==== Sys2Proof/Laws/Queue.lean ====
section
/-! SUPPORT. The transmit queue, the waiting frames and the holding area keep their limits under the shared
operations of Transmit.lean. -/

namespace Sys2Proof.Machine

/-! ### What an event leaves -/

@[simp] theorem emit_ticketStore (e : Event) (s : State) : (emit e s).ticketStore = s.ticketStore := by
  unfold emit enterEvent; split <;> rfl

@[simp] theorem emit_link (e : Event) (s : State) : (emit e s).link = s.link := by
  unfold emit enterEvent; split <;> rfl

@[simp] theorem emit_store (e : Event) (s : State) : (emit e s).store = s.store := by
  unfold emit enterEvent; split <;> rfl

@[simp] theorem emit_roster (e : Event) (s : State) : (emit e s).roster = s.roster := by
  unfold emit enterEvent; split <;> rfl

@[simp] theorem emit_auto (e : Event) (s : State) : (emit e s).auto = s.auto := by
  unfold emit enterEvent; split <;> rfl

@[simp] theorem emit_chan (e : Event) (s : State) (c : Channel) : (emit e s).chan c = s.chan c := by
  unfold emit enterEvent; cases c <;> split <;> rfl

/-! ### Entering and leaving -/

theorem lowCount_append (q r : List QueuedFrame) : lowCount (q ++ r) = lowCount q + lowCount r := by
  simp [lowCount]

theorem lowCount_filter_le (q : List QueuedFrame) (p : QueuedFrame → Bool) : lowCount (q.filter p) ≤ lowCount q := by
  unfold lowCount
  exact (List.filter_sublist.filter _).length_le

theorem roomLow_low {l : Link} {n : Nat} (h : l.roomLow n = true) : lowCount l.queue < Config.lowSlots := by
  simp [Link.roomLow] at h; omega

theorem roomLow_slots {l : Link} {n : Nat} (h : l.roomLow n = true) : l.queue.length < Config.queueSlots := by
  simp [Link.roomLow] at h; omega

/-- A frame enters a queue with a free slot, and with room in its group where it is of urgency 1–3 (R82). -/
theorem linkOk_enter {l : Link} (h : LinkOk l) {b : QueuedBody} {o : Option Channel}
    (hs : l.queue.length < Config.queueSlots)
    (hl : queuedUrgency b ≠ 0 → lowCount l.queue < Config.lowSlots) :
    LinkOk { l with queue := l.queue ++ [newFrame b o l.nextEntry], nextEntry := l.nextEntry + 1 } where
  slots := by simp; omega
  low := by
    rw [lowCount_append]
    have := h.low
    by_cases hb : queuedUrgency b = 0
    · simpa [lowCount, QueuedFrame.low, newFrame, hb] using this
    · have := hl hb
      have h1 : lowCount [newFrame b o l.nextEntry] ≤ 1 := List.length_filter_le _ _
      omega
  frames f hf := by
    rcases List.mem_append.1 hf with hf | hf
    · obtain ⟨a, b, c⟩ := h.frames f hf
      exact ⟨a, b, Nat.lt_succ_of_lt c⟩
    · rw [List.mem_singleton.1 hf]
      exact ⟨Nat.zero_le _, Nat.zero_le _, Nat.lt_succ_self _⟩
  order := by
    rw [List.map_append, List.pairwise_append]
    refine ⟨h.order, by simp, fun a ha x hx => ?_⟩
    obtain ⟨f, hf, rfl⟩ := List.mem_map.1 ha
    rw [show x = l.nextEntry by simpa [newFrame] using hx]
    exact (h.frames f hf).2.2
  holding := h.holding
  waiting := h.waiting

theorem linkOk_filter {l : Link} (h : LinkOk l) (p : QueuedFrame → Bool) :
    LinkOk { l with queue := l.queue.filter p } where
  slots := Nat.le_trans (List.length_filter_le _ _) h.slots
  low := Nat.le_trans (lowCount_filter_le _ _) h.low
  frames f hf := h.frames f (List.mem_of_mem_filter hf)
  order := h.order.sublist (List.filter_sublist.map _)
  holding := h.holding
  waiting := h.waiting

/-- Frames changed in their places, within their counts and their groups. -/
theorem linkOk_mapFrames {l : Link} (h : LinkOk l) {g : QueuedFrame → QueuedFrame}
    (he : ∀ f, (g f).entry = f.entry) (hf : ∀ f, (g f).first = f.first)
    (hg : ∀ f ∈ l.queue, (g f).voids ≤ 3 ∧ (g f).losses ≤ 8) : LinkOk { l with queue := l.queue.map g } where
  slots := by simpa using h.slots
  low := by
    have : lowCount (l.queue.map g) = lowCount l.queue := by
      unfold lowCount
      rw [List.filter_map, List.length_map]
      congr 1
      exact List.filter_congr fun f _ => by simp [QueuedFrame.low, hf]
    rw [this]; exact h.low
  frames f hm := by
    obtain ⟨x, hx, rfl⟩ := List.mem_map.1 hm
    exact ⟨(hg x hx).1, (hg x hx).2, he x ▸ (h.frames x hx).2.2⟩
  order := by
    have : (l.queue.map g).map (·.entry) = l.queue.map (·.entry) := by
      rw [List.map_map]; exact List.map_congr_left fun f _ => he f
    rw [this]; exact h.order
  holding := h.holding
  waiting := h.waiting

/-- A change of the Link Controller that leaves its frames. -/
theorem linkOk_of_fields {l m : Link} (h : LinkOk l) (hq : m.queue = l.queue) (hw : m.waiting = l.waiting)
    (hh : m.holding = l.holding) (hn : m.nextEntry = l.nextEntry) : LinkOk m where
  slots := hq ▸ h.slots
  low := hq ▸ h.low
  frames f hf := by
    obtain ⟨a, b, c⟩ := h.frames f (hq ▸ hf)
    exact ⟨a, b, hn ▸ c⟩
  order := hq ▸ h.order
  holding := hh ▸ h.holding
  waiting := hw ▸ h.waiting

/-- A change of the Link Controller's own fields that keeps its state and its frames. -/
theorem inv_updLink_fields {s : State} {f : Link → Link} (h : Inv s) (hs : (f s.link).state = s.link.state)
    (hq : (f s.link).queue = s.link.queue) (hw : (f s.link).waiting = s.link.waiting)
    (hh : (f s.link).holding = s.link.holding) (hn : (f s.link).nextEntry = s.link.nextEntry) :
    Inv (s.updLink f) :=
  inv_updLink h (fun hl => linkOk_of_fields hl hq hw hh hn) hs

theorem inv_enqueue {b : QueuedBody} {o : Option Channel} {s : State} (h : Inv s)
    (hs : s.link.queue.length < Config.queueSlots)
    (hl : queuedUrgency b ≠ 0 → lowCount s.link.queue < Config.lowSlots) : Inv (enqueue b o s) :=
  inv_updLink h (fun hk => linkOk_enter hk hs hl) rfl

/-- A frame of urgency 1–3 enters where there is room (R82). -/
theorem inv_enqueue_room {b : QueuedBody} {o : Option Channel} {s : State} {n : Nat} (h : Inv s)
    (hr : s.link.roomLow n = true) : Inv (enqueue b o s) :=
  inv_enqueue h (roomLow_slots hr) fun _ => roomLow_low hr

@[simp] theorem inv_lowFrameLeft {s : State} : Inv (lowFrameLeft s) ↔ Inv s := inv_updAuto fun _ => rfl

@[simp] theorem inv_removeFrame {f : QueuedFrame} {s : State} (h : Inv s) : Inv (removeFrame f s) := by
  unfold removeFrame
  refine inv_updLink ?_ (fun hl => linkOk_filter hl _) rfl
  split
  · exact inv_lowFrameLeft.2 h
  · exact h

@[simp] theorem inv_removeIfQueued {f : Option QueuedFrame} {s : State} (h : Inv s) : Inv (removeIfQueued f s) := by
  unfold removeIfQueued
  split
  · exact h
  · exact inv_removeFrame h

theorem removeFrame_queue (f : QueuedFrame) (s : State) :
    (removeFrame f s).link.queue = s.link.queue.filter (·.entry != f.entry) := by
  unfold removeFrame; split <;> rfl

/-- A queued frame's slot is free once it has left. -/
theorem removeFrame_length {f : QueuedFrame} {s : State} (h : f ∈ s.link.queue) :
    (removeFrame f s).link.queue.length < s.link.queue.length := by
  rw [removeFrame_queue]
  exact shorter_of_removed h (by simp)

/-! ### Drops and the holding area -/

@[simp] theorem inv_setLinkError {s : State} (h : Inv s) : Inv (setLinkError s) := by
  unfold setLinkError
  split
  · exact h
  · exact inv_emit (by simp) (inv_updLink_fields h rfl rfl rfl rfl rfl)

@[simp] theorem setLinkError_ticketStore (s : State) : (setLinkError s).ticketStore = s.ticketStore := by
  unfold setLinkError; split <;> simp

/-- A handover in progress on a ticket of the store fails (R163). -/
theorem inv_failHandover {t : Ticket} {k : Handover} {r : HandoverReason} {s : State} (h : Inv s)
    (ht : t ∈ s.ticketStore.tickets) (hs : t.state = .handover) : Inv (failHandover t k r s) :=
  inv_emit (by simp [ticketEvent]) (inv_updTickets h fun hk => ticketsOk_returnHandover hk ht hs _)

theorem inHandover_state {t : Ticket} {k : Handover} (h : t.inHandover = some k) : t.state = .handover := by
  unfold Ticket.inHandover at h
  split at h
  · assumption
  · cases h

@[simp] theorem inv_tellDropped {b : FrameBody} {s : State} (h : Inv s) : Inv (tellDropped b s) := by
  unfold tellDropped
  split
  · split
    · exact h
    · next ht =>
      split
      · exact h
      · next hk =>
        split
        · exact inv_failHandover h (byNumber_mem ht).1 (inHandover_state hk)
        · exact h
  · exact inv_updTickets h fun hk => ticketsOk_releaseNote hk _
  · exact h

@[simp] theorem inv_tellDroppedFrame {f : QueuedFrame} {s : State} (h : Inv s) : Inv (tellDroppedFrame f s) := by
  unfold tellDroppedFrame
  split
  · exact inv_tellDropped h
  · exact h
  · exact h

theorem inv_holding {s : State} {g : Link → List QueuedFrame} (h : Inv s)
    (hg : (g s.link).length ≤ Config.holdingSlots) : Inv (s.updLink fun l => { l with holding := g l }) :=
  inv_updLink h (fun hl => { hl with holding := hg, frames := hl.frames }) rfl

@[simp] theorem inv_holdFrame {f : QueuedFrame} {s : State} (h : Inv s) : Inv (holdFrame f s) := by
  have hlen := h.link.holding
  have hk : Config.holdingSlots = 4 := rfl
  unfold holdFrame
  split
  · exact inv_holding (g := fun _ => [f]) h (by simp [hk])
  · next o rest he =>
    rw [he] at hlen
    simp only [List.length_cons] at hlen
    split
    · exact inv_holding (g := fun l => l.holding ++ [f]) h (by simp [he]; omega)
    · exact inv_tellDroppedFrame (inv_setLinkError (inv_holding (g := fun _ => rest ++ [f]) h (by simp; omega)))

@[simp] theorem inv_displaced {f : QueuedFrame} {s : State} (h : Inv s) : Inv (displaced f s) := by
  unfold displaced
  split
  · exact inv_updLink_fields h rfl rfl rfl rfl rfl
  · exact h
  · exact inv_holdFrame h

/-! ### Offers -/

theorem inv_waiting {b : FrameBody} {o : Option Channel} {s : State} (h : Inv s) (hb : urgencyOf b = 0) :
    Inv (s.updLink fun l => { l with waiting := l.waiting ++ [newFrame (.built b) o 0] }) := by
  refine inv_updLink h (fun hl => { hl with waiting := fun f hf => ?_, frames := hl.frames }) rfl
  rcases List.mem_append.1 hf with hf | hf
  · exact hl.waiting f hf
  · rw [List.mem_singleton.1 hf]; exact hb

/-- An urgency-0 frame comes to the queue (R82, R83). -/
theorem inv_offerUrgent {b : FrameBody} {o : Option Channel} {s : State} (hb : urgencyOf b = 0) (h : Inv s) :
    Inv (offerUrgent b o s) := by
  unfold offerUrgent
  dsimp only
  split
  · next hs =>
    split
    · exact inv_enqueue h hs fun hc => absurd hb hc
    · exact inv_waiting h hb
  · split
    · exact inv_waiting h hb
    · next f hf =>
      have hm : f ∈ s.link.queue := by
        have := List.mem_of_find?_eq_some hf
        simpa using this
      refine inv_displaced (inv_enqueue (inv_removeFrame h) ?_ fun hc => absurd hb hc)
      exact Nat.lt_of_lt_of_le (removeFrame_length hm) h.link.slots

@[simp] theorem inv_offerNotice {b : FrameBody} {s : State} (h : Inv s) : Inv (offerNotice b s) := by
  unfold offerNotice
  split
  · next hr =>
    simp only [Bool.and_eq_true] at hr
    exact inv_enqueue_room h hr.2
  · exact inv_holdFrame h

theorem linkOk_empty {l : Link} : LinkOk (emptyLink l) where
  slots := Nat.zero_le _
  low := Nat.zero_le _
  frames _ hf := nomatch hf
  order := List.Pairwise.nil
  holding := Nat.zero_le _
  waiting _ hf := nomatch hf

/-- What notices and urgent frames leave of the Ticket Store's numbers and lines. -/
theorem numberOnLine_releaseNote {ts : TicketStore} {n m : TicketNo} {l : Line} (h : NumberOnLine n l ts) :
    NumberOnLine n l (releaseNote m ts) :=
  numberOnLine_update (fun _ => rfl) (fun _ => rfl) h

end Sys2Proof.Machine
end

