-- ==== Sys2Proof/Laws/Tickets.lean ====
section
/-! SUPPORT. What Trunks.lean and Tickets.lean keep of the stores: trunk entries within their ranges, tickets within
their limits. -/

namespace Sys2Proof.Machine

/-! ### Trunks -/

theorem storeOk_trunk {s : State} (h : Inv s) (t : Trunk) : TrunkOk (s.trunkEntry t) :=
  h.store.trunks _ (by simp [State.trunkEntry])

theorem inv_setTrunk {t : Trunk} {e : TrunkEntry} {s : State} (h : Inv s) (he : TrunkOk e) : Inv (s.setTrunk t e) := by
  refine inv_updStore h (fun hs => { hs with trunks := fun x hx => ?_ }) rfl
  simp only [Vector.toList_set] at hx
  rcases List.mem_or_eq_of_mem_set hx with hx | rfl
  · exact hs.trunks x hx
  · exact he

theorem inv_changeTrunk {t : Trunk} {e : TrunkEntry} {s : State} (h : Inv s) (he : TrunkOk e) :
    Inv (changeTrunk t e s) := by
  unfold changeTrunk
  split
  · exact inv_setTrunk h he
  · exact inv_emit (by simp) (inv_setTrunk h he)

@[simp] theorem inv_queueTrunkNotice {t : Trunk} {o : Bool} {s : State} (h : Inv s) :
    Inv (queueTrunkNotice t o s) := by
  unfold queueTrunkNotice
  split
  · exact inv_offerNotice h
  · exact h

theorem trunkOk_afterTimeout {e : TrunkEntry} (h : TrunkOk e) : TrunkOk (afterTimeout e) := by
  obtain ⟨hd, hi, hs, ht, hr, hk⟩ := h
  unfold afterTimeout
  split
  · next hc => constructor <;> simp_all
  · next hc =>
    have := hs hc
    split <;> constructor <;> simp_all; omega
  · next hc => constructor <;> simp_all

@[simp] theorem inv_chargeTimeout {t : Trunk} {s : State} (h : Inv s) : Inv (chargeTimeout t s) := by
  unfold chargeTimeout
  refine inv_changeTrunk ?_ (trunkOk_afterTimeout (storeOk_trunk h t))
  split
  · exact inv_queueTrunkNotice h
  · exact h

@[simp] theorem inv_creditConfirm {t : Trunk} {s : State} (h : Inv s) : Inv (creditConfirm t s) := by
  obtain ⟨hd, hi, hs, ht, hr, hk⟩ := storeOk_trunk h t
  refine inv_changeTrunk h ?_
  cases hc : (s.trunkEntry t).condition <;> constructor <;> simp_all

@[simp] theorem inv_takeTrunkNotice {n : Station} {t : Trunk} {o : Bool} {s : State} (h : Inv s) :
    Inv (takeTrunkNotice n t o s) := by
  obtain ⟨hd, hi, hs, ht, hr, hk⟩ := storeOk_trunk h t
  unfold takeTrunkNotice
  dsimp only
  split <;> refine inv_changeTrunk h ?_ <;> constructor <;> simp_all

@[simp] theorem inv_restoreTrunk {t : Trunk} {s : State} (h : Inv s) : Inv (restoreTrunk t s) := by
  obtain ⟨hd, hi, hs, ht, hr, hk⟩ := storeOk_trunk h t
  unfold restoreTrunk
  refine inv_changeTrunk ?_ ?_
  · split
    · exact inv_queueTrunkNotice h
    · exact h
  · constructor <;> simp_all

/-- An action over a list that keeps `Inv` at each entry keeps it. -/
theorem inv_foldl {α : Type} {f : State → α → State} (hf : ∀ s a, Inv s → Inv (f s a)) :
    ∀ (l : List α) (s : State), Inv s → Inv (l.foldl f s)
  | [], _, h => h
  | a :: l, s, h => inv_foldl hf l (f s a) (hf s a h)

@[simp] theorem inv_announceTrunks {s : State} (h : Inv s) : Inv (announceTrunks s) := by
  unfold announceTrunks
  refine inv_foldl (fun r t hr => ?_) _ _ h
  split
  · exact inv_queueTrunkNotice hr
  · exact hr

/-! ### Results -/

theorem ticketOk_openedTicket {l : Line} {k : FaultClass} {o : TicketOrigin} {m : Nat} {obs : List Observation}
    {n : TicketNo} (hk : k.failing = true) (ho : obs.length ≤ Config.observationSlots) :
    TicketOk (openedTicket l k o m obs n) where
  cls := hk
  observations := ho
  streak := Nat.zero_le _
  offered h := nomatch h
  planned := by simp [openedTicket]
  plan _ h := nomatch h

theorem inv_storeFailure {l : Line} {o : Observation} {s : State} (h : Inv s) (ho : o.cls.failing = true) :
    Inv (storeFailure l o s).2 := by
  unfold storeFailure
  split
  · exact inv_appendObservation h
  · next hl =>
    split
    · exact inv_offerNotice h
    · next hi =>
      split
      · next hr =>
        refine inv_emit (by simp [ticketClassEvent, ticketEvent]) (inv_updTickets h fun hk => ?_)
        exact ticketsOk_addTicket hk hr (l := l) (fun _ => rfl) (fun _ => rfl)
          (fun _ => ticketOk_openedTicket ho (by simp [Config.observationSlots])) (byLine_none hl) (indexFor_none hi)
      · exact inv_emit (by simp) h

@[simp] theorem inv_storeResult {l : Line} {o : Observation} {s : State} (h : Inv s) : Inv (storeResult l o s).2 := by
  unfold storeResult
  split
  · exact h
  · next hf =>
    split
    · unfold storeNoisy
      split
      · exact inv_appendObservation h
      · exact h
    · exact inv_storeFailure h (by simpa using hf)

/-! ### Retests -/

theorem inv_setTicket {u : Ticket} {n : TicketNo} {s : State} (h : Inv s) (hn : u.number = n)
    (hl : NumberOnLine n u.line s.ticketStore) (hu : TicketOk u) : Inv (s.updTickets (updateTicket n fun _ => u)) :=
  inv_updTickets h fun hk => ticketsOk_set hk hn hl hu

theorem retest_planned {t : Ticket} (h : TicketOk t) (ht : t.state = .retest) : ∃ p, t.plan = some p ∧ planOk p := by
  have := h.planned.2 (Or.inl ht)
  obtain ⟨p, hp⟩ := Option.isSome_iff_exists.1 this
  exact ⟨p, hp, h.plan p hp⟩

theorem ticketOk_replan {t : Ticket} {due : Nat} (h : TicketOk t) :
    TicketOk (replan t due ((t.plan.map (·.remaining)).getD 0)) where
  cls := h.cls
  observations := h.observations
  streak := h.streak
  offered := h.offered
  planned := by simpa [replan] using h.planned
  plan p hp := by
    cases hq : t.plan with
    | none => simp [replan, hq] at hp
    | some q =>
      have := h.plan q hq
      simp [replan, hq] at hp
      subst hp
      exact this

theorem ticketOk_cleared {t : Ticket} (hc : t.cls.failing = true)
    (ho : t.observations.length ≤ Config.observationSlots) (hs : t.streak ≤ 2) : TicketOk (clearedTicket t) where
  cls := hc
  observations := ho
  streak := hs
  offered h := nomatch h
  planned := by simp [clearedTicket]
  plan _ h := nomatch h

/-- The count and plan of a retest's ticket before the first case of R148 that applies. -/
structure RetestedOk (u : Ticket) : Prop where
  cls : u.cls.failing = true
  observations : u.observations.length ≤ Config.observationSlots
  streak : u.streak ≤ 2
  state : u.state = .retest
  plan : ∃ p, u.plan = some p ∧ 1 ≤ p.interval ∧ p.interval ≤ 240 ∧ p.remaining ≤ 15

theorem inv_settleRetest {u : Ticket} {s : State} (h : Inv s) (hu : RetestedOk u)
    (hl : NumberOnLine u.number u.line s.ticketStore) : Inv (settleRetest u s) := by
  obtain ⟨p, hp, h1, h2, h3⟩ := hu.plan
  unfold settleRetest
  split
  · exact inv_emit (by simp [ticketClassEvent, ticketEvent])
      (inv_setTicket h rfl hl (ticketOk_cleared hu.cls hu.observations hu.streak))
  · split
    · refine inv_emit (by simp [ticketClassEvent, ticketEvent]) (inv_setTicket h rfl hl ?_)
      exact { cls := hu.cls, observations := hu.observations, streak := hu.streak,
              offered := fun hx => (nomatch hx), planned := by simp, plan := fun _ hx => (nomatch hx) }
    · next hr =>
      refine inv_setTicket h rfl hl ?_
      refine { cls := hu.cls, observations := hu.observations, streak := hu.streak, offered := ?_, planned := ?_,
               plan := ?_ }
      · rw [hu.state]; intro hx; cases hx
      · rw [hu.state, hp]; simp
      · intro q hq
        rw [hp] at hq hr
        injection hq with hq
        subst hq
        simp at hr
        exact ⟨h1, h2, by omega, h3⟩

theorem observed_state {o : Observation} {t : Ticket} (h : t.state = .retest) : (observed o t).state = .retest := by
  unfold observed
  simp only [h]
  split
  · simp
  · rfl

theorem observed_plan (o : Observation) (t : Ticket) : (observed o t).plan = t.plan := by
  unfold observed; split
  · split <;> rfl
  · rfl

theorem retested_number {o : Observation} {d : Nat} {t : Ticket} : (retested o d t).number = t.number := by
  unfold retested; dsimp only; split
  · rfl
  · split <;> rfl

theorem retested_line {o : Observation} {d : Nat} {t : Ticket} : (retested o d t).line = t.line := by
  unfold retested; dsimp only; split
  · rfl
  · split <;> rfl

theorem retestedOk {o : Observation} {d : Nat} {t : Ticket} (h : TicketOk t) (ht : t.state = .retest) :
    RetestedOk (retested o d t) := by
  obtain ⟨p, hp, h1, h2, h3, h4⟩ := retest_planned h ht
  unfold retested
  dsimp only
  split
  · exact ⟨h.cls, h.observations, h.streak, ht, ⟨⟨p.interval, p.remaining, d⟩, by simp [replan, hp], h1, h2, h4⟩⟩
  · split
    · exact ⟨h.cls, h.observations, h.streak, ht,
        ⟨⟨p.interval, p.remaining - 1, d⟩, by simp [replan, hp], h1, h2, Nat.le_trans (Nat.sub_le _ _) h4⟩⟩
    · exact ⟨h.cls, h.observations, Nat.min_le_left _ _, ht,
        ⟨⟨p.interval, p.remaining - 1, d⟩, by simp [replan, hp], h1, h2, Nat.le_trans (Nat.sub_le _ _) h4⟩⟩

theorem appendObservation_onLine {n m : TicketNo} {l : Line} {o : Observation} {s : State}
    (h : NumberOnLine n l s.ticketStore) : NumberOnLine n l (appendObservation m o s).ticketStore := by
  have hu : NumberOnLine n l (s.updTickets (updateTicket m (observed o))).ticketStore :=
    numberOnLine_update (observed_number o) (observed_line o) h
  unfold appendObservation
  split
  · exact h
  · split
    · rw [emit_ticketStore]; exact hu
    · exact hu

@[simp] theorem inv_retestResult {n : TicketNo} {l : Line} {o : Observation} {s : State} (h : Inv s) :
    Inv (retestResult n l o s) := by
  unfold retestResult
  split
  · exact h
  · next t ht =>
    have hm := byNumber_mem ht
    have hok := h.tickets.tickets t hm.1
    have hline := numberOnLine_of_byNumber h.tickets ht
    split
    · next hs =>
      dsimp only
      have hok' : TicketOk (observed o t) := ticketOk_observed hok
      have hr := retestedOk (o := o) (d := s.dueIn ((t.plan.map (·.interval)).getD 0 * 60)) hok' (observed_state hs)
      have ha : Inv (appendObservation n o s) := inv_appendObservation h
      have hla : NumberOnLine n t.line (appendObservation n o s).ticketStore := appendObservation_onLine hline
      have hdue : (appendObservation n o s).dueIn ((t.plan.map (·.interval)).getD 0 * 60) =
          s.dueIn ((t.plan.map (·.interval)).getD 0 * 60) := by
        unfold State.dueIn appendObservation
        split
        · rfl
        · dsimp only; split <;> simp
      rw [hdue]
      split
      · next hn =>
        refine inv_setTicket ha (by rw [retested_number, observed_number, hm.2])
          (by rw [retested_line, observed_line]; exact hla) ?_
        unfold retested
        rw [if_pos hn]
        exact ticketOk_replan hok'
      · refine inv_settleRetest ha hr ?_
        rw [retested_number, retested_line, observed_number, observed_line, hm.2]
        exact hla
    · exact inv_storeResult h
    · exact h
    · exact h

@[simp] theorem inv_postponeRetest {n : TicketNo} {k : Nat} {s : State} (h : Inv s) : Inv (postponeRetest n k s) := by
  refine inv_updTickets h fun hk => ticketsOk_update hk (fun t => ?_) (fun t => ?_) fun t ht => ?_ <;> split
  · rfl
  · rfl
  · rfl
  · rfl
  · exact ticketOk_replan ht
  · exact ht

/-! ### Notes -/

theorem ticketsOk_entryTaken {e : NoteEntry} {ts : TicketStore} (h : TicketsOk ts) : TicketsOk (entryTaken e ts) :=
  ticketsOk_update h (fun _ => rfl) (fun _ => rfl) fun _ ht => ticketOk_of_fields ht rfl rfl rfl rfl rfl rfl

theorem ticketsOk_noteTaken {es : List NoteEntry} {k : Nat} {ts : TicketStore} (h : TicketsOk ts) :
    TicketsOk (noteTaken es k ts) := by
  unfold noteTaken
  have : ∀ (l : List NoteEntry) (r : TicketStore), TicketsOk r →
      TicketsOk (l.foldl (fun r e => entryTaken e r) r) := by
    intro l
    induction l with
    | nil => exact fun _ hr => hr
    | cons e l ih => exact fun r hr => ih _ (ticketsOk_entryTaken hr)
  exact this _ _ (ticketsOk_dropNotes h _)

theorem holdFrame_tickets_lines {f : QueuedFrame} {s : State} {p : Ticket → Prop}
    (hp : ∀ k t, p t → p (handoverReturned k t)) (hr : ∀ t, p t → p { t with noteHeldBack := false })
    (h : ∀ t ∈ s.ticketStore.tickets, p t) : ∀ t ∈ (holdFrame f s).ticketStore.tickets, p t := by
  unfold holdFrame
  split
  · exact h
  · split
    · exact h
    · next o rest _ _ =>
      have h' : ∀ t ∈ (setLinkError (s.updLink fun l => { l with holding := rest ++ [f] })).ticketStore.tickets,
          p t := by rw [setLinkError_ticketStore]; exact h
      generalize setLinkError (s.updLink fun l => { l with holding := rest ++ [f] }) = r at h'
      have hup : ∀ (n : TicketNo) (g : Ticket → Ticket), (∀ t, p t → p (g t)) →
          ∀ t ∈ (updateTicket n g r.ticketStore).tickets, p t := by
        intro n g hg t ht
        obtain ⟨u, hu, rfl⟩ := List.mem_map.1 ht
        split
        · exact hg u (h' u hu)
        · exact h' u hu
      unfold tellDroppedFrame
      split
      · unfold tellDropped
        split
        · split
          · exact h'
          · split
            · exact h'
            · split
              · unfold failHandover
                rw [emit_ticketStore]
                exact hup _ _ (hp _)
              · exact h'
        · exact hup _ _ hr
        · exact h'
      · exact h'
      · exact h'

theorem offerNotice_onLine {n : TicketNo} {l : Line} {b : FrameBody} {s : State}
    (h : NumberOnLine n l s.ticketStore) : NumberOnLine n l (offerNotice b s).ticketStore := by
  unfold offerNotice
  split
  · exact h
  · refine holdFrame_tickets_lines (p := fun t => t.number = n → t.line = l) (fun k t ht hn => ?_)
      (fun t ht => ht) h
    rw [handoverReturned_line]
    exact ht (by rwa [handoverReturned_number] at hn)

theorem offerNotice_lineOnNumber {n : TicketNo} {l : Line} {b : FrameBody} {s : State}
    (h : ∀ t ∈ s.ticketStore.tickets, t.line = l → t.number = n) :
    ∀ t ∈ (offerNotice b s).ticketStore.tickets, t.line = l → t.number = n := by
  unfold offerNotice
  split
  · exact h
  · refine holdFrame_tickets_lines (p := fun t => t.line = l → t.number = n) (fun k t ht hn => ?_)
      (fun t ht => ht) h
    rw [handoverReturned_number]
    exact ht (by rwa [handoverReturned_line] at hn)

/-- The own ticket of a line merges into another station's (R154). -/
theorem inv_mergeTicket {n : Station} {e : NoteEntry} {t : Ticket} {o : Bool} {s : State} (h : Inv s)
    (ht : s.ticketStore.byLine e.line = some t) : Inv (mergeTicket n e t o s) := by
  have hm := byLine_mem ht
  have hnum : ∀ u ∈ s.ticketStore.tickets, u.line = e.line → u.number = t.number := fun u hu hl => by
    rw [same_of_key h.tickets.lines hu hm.1 (hl.trans hm.2.symm)]
  have hput : ∀ r : State, Inv r → (∀ u ∈ r.ticketStore.tickets, u.line = e.line → u.number = t.number) →
      Inv (r.updTickets fun ts => putIndex ⟨e.line, n, e.number, e.cls⟩
        (removeTicket t.number (if o then addClosedNote (closedEntryOf t) ts else ts))) := by
    intro r hr hu
    refine inv_updTickets hr fun hk => ?_
    have hc : TicketsOk (if o then addClosedNote (closedEntryOf t) r.ticketStore else r.ticketStore) := by
      split
      · exact ticketsOk_addClosedNote hk _
      · exact hk
    refine ticketsOk_putIndex (ticketsOk_remove hc _) fun u hm hl => ?_
    have hmem := List.mem_filter.1 hm
    have hin : u ∈ r.ticketStore.tickets := by
      have := hmem.1
      split at this <;> exact this
    simp [hu u hin hl] at hmem
  unfold mergeTicket
  dsimp only
  refine inv_emit (by simp [ticketEvent]) (hput _ ?_ ?_)
  · split
    · split
      · exact inv_offerNotice h
      · exact h
    · exact h
  · split
    · split
      · exact offerNotice_lineOnNumber hnum
      · exact hnum
    · exact hnum

@[simp] theorem inv_takeNoteEntry {n : Station} {e : NoteEntry} {s : State} (h : Inv s) :
    Inv (takeNoteEntry n e s) := by
  unfold takeNoteEntry
  split
  · split
    · next hl => exact inv_updTickets h fun hk => ticketsOk_putIndex hk (byLine_none hl)
    · next t ht =>
      split
      · exact inv_mergeTicket h ht
      · split
        · exact inv_updTickets h fun hk => ticketsOk_update hk (fun _ => rfl) (fun _ => rfl) fun _ ht =>
            ticketOk_of_fields ht rfl rfl rfl rfl rfl rfl
        · exact inv_mergeTicket h ht
  · split
    · split
      · exact inv_updTickets h fun hk => ticketsOk_dropIndexLine hk _
      · exact h
    · exact h

@[simp] theorem inv_takeNote {n : Station} {es : List NoteEntry} {s : State} (h : Inv s) : Inv (takeNote n es s) :=
  inv_foldl (fun _ _ hr => inv_takeNoteEntry hr) _ _ h

/-! ### Additions and handovers -/

@[simp] theorem inv_takeAddition {n : Station} {k : TicketNo} {l : Line} {o : ObsData} {s : State} (h : Inv s) :
    Inv (takeAddition n k l o s) := by
  unfold takeAddition
  split
  · split
    · exact inv_appendObservation h
    · exact h
  · exact h

theorem ticketOk_handedIn {n : Station} {o : HandOffer} {s : State} {k : TicketNo} (ho : o.fits = true) :
    TicketOk (handedInTicket n o s k) := by
  simp only [HandOffer.fits, Bool.and_eq_true] at ho
  obtain ⟨⟨⟨⟨⟨_, _⟩, hc⟩, _⟩, hp⟩, _⟩ := ho
  refine { cls := hc, observations := by simp [handedInTicket, Config.observationSlots], streak := Nat.zero_le _,
           offered := ?_, planned := ?_, plan := ?_ }
  · simp only [handedInTicket]; split <;> simp
  · cases hq : o.plan <;> simp [handedInTicket, hq]
  · intro p hpp
    cases hq : o.plan with
    | none => simp [handedInTicket, hq] at hpp
    | some q =>
      rw [hq] at hp
      simp [OfferPlan.fits] at hp
      simp [handedInTicket, hq] at hpp
      subst hpp
      exact ⟨hp.1.1.1.1, hp.1.1.1.2, hp.1.1.2, hp.1.2⟩

@[simp] theorem inv_takeOffer {n : Station} {o : HandOffer} {s : State} (ho : o.fits = true) (h : Inv s) :
    Inv (takeOffer n o s) := by
  unfold takeOffer
  split
  · exact inv_offerNotice h
  · split
    · exact inv_offerNotice h
    · next hl =>
      split
      · exact inv_offerNotice h
      · next hr =>
        refine inv_emit (by simp [ticketClassEvent, ticketEvent]) (inv_offerNotice (inv_updTickets h fun hk => ?_))
        rw [addTicket_dropIndexLine]
        have hr' : (dropIndexLine o.line s.ticketStore).hasRoom = true := by
          have : s.ticketStore.hasRoom = true := by simpa using hr
          exact this
        refine ticketsOk_addTicket (ticketsOk_dropIndexLine hk _) hr' (l := o.line) (fun _ => rfl) (fun _ => rfl)
          (fun _ => ticketOk_handedIn ho) (byLine_none (l := o.line) (ts := s.ticketStore) (by simpa using hl))
          fun e he => ?_
        simpa using (List.mem_filter.1 he).2

@[simp] theorem inv_takeAccept {m : Station} {k : TicketNo} {s : State} (h : Inv s) : Inv (takeAccept m k s) := by
  have hr : ∀ n, Inv (s.updTickets (removeTicket n)) := fun n => inv_updTickets h fun hk => ticketsOk_remove hk n
  unfold takeAccept
  repeat' split
  all_goals first | exact h | exact inv_emit (by simp [ticketEvent]) (hr _)

@[simp] theorem inv_takeRefusal {m : Station} {k : TicketNo} {r : RefuseReason} {s : State} (h : Inv s) :
    Inv (takeRefusal m k r s) := by
  unfold takeRefusal
  split
  · exact h
  · next t ht =>
    split
    · exact h
    · next x hx =>
      split
      · exact h
      · split
        · next hs => exact inv_failHandover h (byNumber_mem ht).1 hs
        · next hs =>
          split
          · refine inv_updTickets h fun hk => ticketsOk_map hk ?_ ?_ ?_ <;> intro u hu <;> split
            · rfl
            · rfl
            · rfl
            · rfl
            · next e =>
              have hut : u = t := same_of_key hk.numbers hu (byNumber_mem ht).1
                (e.trans (byNumber_mem ht).2.symm)
              subst hut
              exact fun hok => { hok with
                offered := fun hc => absurd hc hs
                planned := by have := hok.planned; simpa [hs] using this }
            · exact id
          · exact h

/-- The handovers to a station fail, one ticket after the other (R107). -/
theorem inv_failHandoversTo_fold {n : Station} : ∀ (l : List Ticket) (s : State), Inv s →
    (∀ t ∈ l, t ∈ s.ticketStore.tickets) → (l.map (·.number)).Nodup →
    Inv (l.foldl (fun r t =>
      match t.inHandover with
      | none => r
      | some h => if h.target = n then failHandover t h .peerGone r else r) s)
  | [], _, h, _, _ => h
  | t :: l, s, h, hm, hd => by
    rw [List.map_cons, List.nodup_cons] at hd
    have hrest : ∀ r : State, r = s → (∀ u ∈ l, u ∈ r.ticketStore.tickets) := fun r hr u hu =>
      hr ▸ hm u (List.mem_cons_of_mem _ hu)
    rw [List.foldl_cons]
    split
    · exact inv_failHandoversTo_fold l s h (hrest s rfl) hd.2
    · next k hk =>
      split
      · refine inv_failHandoversTo_fold l _ (inv_failHandover h (hm t List.mem_cons_self) (inHandover_state hk)) ?_ hd.2
        intro u hu
        have hne : u.number ≠ t.number := fun he => hd.1 (List.mem_map.2 ⟨u, hu, he⟩)
        rw [failHandover, emit_ticketStore]
        exact List.mem_map.2 ⟨u, hm u (List.mem_cons_of_mem _ hu), by rw [if_neg hne]⟩
      · exact inv_failHandoversTo_fold l s h (hrest s rfl) hd.2

@[simp] theorem inv_failHandoversTo {n : Station} {s : State} (h : Inv s) : Inv (failHandoversTo n s) :=
  inv_failHandoversTo_fold _ _ h (fun _ ht => ht) h.tickets.numbers

@[simp] theorem inv_handoverTimesOut {n : TicketNo} {s : State} (h : Inv s) : Inv (handoverTimesOut n s) := by
  unfold handoverTimesOut
  split
  · exact h
  · next ht =>
    split
    · exact h
    · next hk => exact inv_failHandover h (byNumber_mem ht).1 (inHandover_state hk)

theorem ticketsOk_returnHandovers {ts : TicketStore} (h : TicketsOk ts) : TicketsOk (returnHandovers ts) := by
  refine ticketsOk_map h ?_ ?_ ?_ <;> intro t _ <;> split
  · exact handoverReturned_number _ _
  · rfl
  · exact handoverReturned_line _ _
  · rfl
  · next hs => exact fun hk => ticketOk_handoverReturned hk hs
  · exact id

end Sys2Proof.Machine
end

