-- ==== Sys2Proof/Laws/Relays.lean ====
section
/-! SUPPORT. The relay steps and the Quiet Unit touch their channels, the transmit queue and the event queue only:
`Inv` through Relays.lean and Quiet.lean. -/

namespace Sys2Proof.Machine

/-! ### Relays -/

@[simp] theorem inv_beginStep1 {c : Channel} {s : State} : Inv (beginStep1 c s) ↔ Inv s := by simp [beginStep1]

@[simp] theorem inv_beginStep3 {c : Channel} {s : State} : Inv (beginStep3 c s) ↔ Inv s := by simp [beginStep3]

@[simp] theorem inv_beginStep4 {c : Channel} {s : State} : Inv (beginStep4 c s) ↔ Inv s := by simp [beginStep4]

@[simp] theorem inv_beginStep5 {c : Channel} {s : State} : Inv (beginStep5 c s) ↔ Inv s := by simp [beginStep5]

@[simp] theorem inv_goRule {c : Channel} {s : State} : Inv (goRule c s) ↔ Inv s := by
  unfold goRule; dsimp only; split
  · simp
  · split
    · simp
    · split <;> simp

@[simp] theorem inv_beginStep2 {c : Channel} {s : State} : Inv (beginStep2 c s) ↔ Inv s := by
  unfold beginStep2; dsimp only; split <;> simp

@[simp] theorem inv_undefer {c : Channel} {k : Holder} {b : Block} {s : State} : Inv (undefer c k b s) ↔ Inv s := by
  unfold undefer; dsimp only; split <;> simp

@[simp] theorem inv_undeferBoth {k : Holder} {b : Block} {s : State} : Inv (undeferBoth k b s) ↔ Inv s := by
  simp [undeferBoth]

@[simp] theorem inv_deferClaimed {c : Channel} {k : Holder} {s : State} : Inv (deferClaimed c k s) ↔ Inv s := by
  simp [deferClaimed]

@[simp] theorem inv_abandonOperate {c : Channel} {s : State} : Inv (abandonOperate c s) ↔ Inv s := by
  simp [abandonOperate]

@[simp] theorem inv_giveRelease {c : Channel} {r : Relay} {s : State} : Inv (giveRelease c r s) ↔ Inv s := by
  simp [giveRelease]

@[simp] theorem inv_lateConfirm {c : Channel} {a : AbandonedOperate} {s : State} (h : Inv s) :
    Inv (lateConfirm c a s) := inv_emit (by simp) (by simpa using h)

/-! ### Quiets -/

@[simp] theorem inv_askQuiet {c : Channel} {b : Block} {s : State} : Inv (askQuiet c b s) ↔ Inv s := by
  simp [askQuiet]

@[simp] theorem inv_markNoisy {c : Channel} {s : State} : Inv (markNoisy c s) ↔ Inv s := by simp [markNoisy]

@[simp] theorem inv_joinWait {c : Channel} {k : Holder} {s : State} : Inv (joinWait c k s) ↔ Inv s := by
  simp [joinWait]

@[simp] theorem inv_startRunning {c : Channel} {n : Bool} {s : State} : Inv (startRunning c n s) ↔ Inv s := by
  simp [startRunning]

@[simp] theorem inv_startIfSettled {c : Channel} {s : State} : Inv (startIfSettled c s) ↔ Inv s := by
  unfold startIfSettled; dsimp only; split <;> simp

@[simp] theorem inv_leaveWait {c : Channel} {k : Holder} {s : State} : Inv (leaveWait c k s) ↔ Inv s := by
  simp [leaveWait]

@[simp] theorem inv_leaveWaits {n : Station} {s : State} : Inv (leaveWaits n s) ↔ Inv s := by simp [leaveWaits]

@[simp] theorem inv_queueBusy {c : Channel} {b : Block} {n : Station} {s : State} (h : Inv s) :
    Inv (queueBusy c b n s) := inv_offerUrgent rfl (by simpa using h)

@[simp] theorem inv_releaseDisturbs {c : Channel} {s : State} (h : Inv s) : Inv (releaseDisturbs c s) := by
  unfold releaseDisturbs
  extract_lets b s' q
  have hs : Inv s' := by
    simp only [s']
    split
    · exact h
    · split
      · exact h
      · exact inv_queueBusy h
  split
  · exact hs
  · split
    · simpa using hs
    · split
      · simpa using hs
      · exact hs

@[simp] theorem inv_sequenceEnds {c : Channel} {s : State} (h : Inv s) : Inv (sequenceEnds c s) := by
  unfold sequenceEnds
  simp only [inv_leaveWait]
  exact inv_foldl (fun _ _ hr => inv_offerUrgent rfl hr) _ _ (by simpa using h)

@[simp] theorem inv_endQuiet {c : Channel} {s : State} (h : Inv s) : Inv (endQuiet c s) := by
  unfold endQuiet
  split
  · exact h
  · exact inv_offerUrgent rfl (by simpa using h)

@[simp] theorem inv_quietEndAsked {c : Channel} {s : State} (h : Inv s) : Inv (quietEndAsked c s) := by
  unfold quietEndAsked
  split
  · exact h
  · simpa using h
  · split
    · simpa using h
    · simpa using inv_removeIfQueued h
  · exact inv_endQuiet h
  · exact inv_endQuiet h
  · simpa using h

theorem inv_serveQuiet {c : Channel} {s : State} (h : Inv s) : Inv (serveQuiet c s) := by
  unfold serveQuiet
  split
  · exact h
  · split
    · next hr =>
      simp only [quietMayQueue, Bool.and_eq_true] at hr
      exact inv_updQuiet.2 (inv_enqueue_room h hr.2)
    · exact h

theorem inv_ownQuietEnds {c : Channel} {s : State} (h : Inv s) : Inv (ownQuietEnds c s) := by
  unfold ownQuietEnds
  split
  · exact h
  · dsimp only
    apply inv_updQuiet.2
    split
    · exact inv_serveQuiet (by simpa using h)
    · simpa using h

@[simp] theorem inv_answerOwnQuiet {c : Channel} {b : Block} {s : State} : Inv (answerOwnQuiet c b s) ↔ Inv s := by
  unfold answerOwnQuiet; dsimp only
  repeat' split
  all_goals simp

@[simp] theorem inv_ownQuietTaken {c : Channel} {s : State} (h : Inv s) : Inv (ownQuietTaken c s) := by
  unfold ownQuietTaken
  split
  · exact h
  · dsimp only
    split
    · simpa using inv_endQuiet (by simpa using h)
    · simpa using h

@[simp] theorem inv_quietNotTaken {c : Channel} {f : QueuedFrame} {s : State} (h : Inv s) :
    Inv (quietNotTaken c f s) := by
  unfold quietNotTaken
  split
  · simpa using inv_removeFrame h
  · exact h

@[simp] theorem inv_quietDropped {c : Channel} {s : State} : Inv (quietDropped c s) ↔ Inv s := by
  simp [quietDropped]

@[simp] theorem inv_withdrawRequested {c : Channel} {b : Block} {s : State} (h : Inv s) :
    Inv (withdrawRequested c b s) := by
  unfold withdrawRequested; dsimp only; split
  · simpa using inv_removeIfQueued h
  · exact h

@[simp] theorem inv_answerQuiet {c : Channel} {b : Block} {n : Station} {s : State} (h : Inv s) :
    Inv (answerQuiet c b n s) := by
  unfold answerQuiet; dsimp only
  repeat' split
  all_goals first | exact h | exact inv_queueBusy h | simpa using h

@[simp] theorem inv_busyHeard {c : Channel} {b : Block} {n : Station} {s : State} :
    Inv (busyHeard c b n s) ↔ Inv s := by
  unfold busyHeard; dsimp only
  repeat' split
  all_goals simp

@[simp] theorem inv_clearHeard {c : Channel} {b : Block} {n : Station} {s : State} :
    Inv (clearHeard c b n s) ↔ Inv s := by
  unfold clearHeard; dsimp only; split <;> simp

@[simp] theorem inv_ownBusyTaken {c : Channel} {b : Block} {n : Station} {s : State} :
    Inv (ownBusyTaken c b n s) ↔ Inv s := by simp [ownBusyTaken]

@[simp] theorem inv_ownBusyDropped {c : Channel} {b : Block} {n : Station} {s : State} :
    Inv (ownBusyDropped c b n s) ↔ Inv s := by simp [ownBusyDropped]

@[simp] theorem inv_ownClearGone {c : Channel} {b : Block} {n : Station} {s : State} :
    Inv (ownClearGone c b n s) ↔ Inv s := by simp [ownClearGone]

end Sys2Proof.Machine
end

