-- ==== Sys2Proof/Laws/Sessions.lean ====
section
/-! SUPPORT. `Inv` through the Automatic Engine, the sessions' ends, the Measurement Engine, the Line Watch, the
Claim Unit and the arbiter. -/

namespace Sys2Proof.Machine

/-! ### The Automatic Engine -/

theorem inv_updSweep {f : Sweep → Sweep} {s : State} (h : Inv s) (hf : ∀ w, SweepOk w → SweepOk (f w)) :
    Inv (updSweep f s) := by
  refine inv_updAuto_sweep h fun w hw => ?_
  cases hs : s.auto.sweep with
  | none => simp [hs] at hw
  | some v =>
    simp [hs] at hw
    exact hw ▸ hf v (h.sweep v hs)

@[simp] theorem inv_updItem {f : Item → Item} {s : State} : Inv (updItem f s) ↔ Inv s := by simp [updItem]

@[simp] theorem inv_dropItem {s : State} : Inv (dropItem s) ↔ Inv s := by simp [dropItem]

@[simp] theorem inv_haltEngine {s : State} : Inv (haltEngine s) ↔ Inv s := by
  unfold haltEngine
  exact inv_updAuto fun _ => rfl

theorem countUp_le (n k : Nat) : countUp n k ≤ Config.sweepCountMax := Nat.min_le_left _ _

theorem sweepOk_phase {w : Sweep} {p : SweepPhase} (h : SweepOk w) : SweepOk { w with phase := p } :=
  ⟨h.deferred, h.distinct, h.tested, h.failed, h.skipped⟩

theorem sweepOk_cursorPast {l : Line} {w : Sweep} (h : SweepOk w) : SweepOk (cursorPast l w) := by
  unfold cursorPast
  repeat' split
  all_goals exact ⟨h.deferred, h.distinct, h.tested, h.failed, h.skipped⟩

theorem sweepOk_skipped {w : Sweep} {k : Nat} (h : SweepOk w) :
    SweepOk { w with skipped := countUp w.skipped k } :=
  ⟨h.deferred, h.distinct, h.tested, h.failed, countUp_le _ _⟩

theorem sweepOk_countOutcome {o : ItemOutcome} {w : Sweep} (h : SweepOk w) : SweepOk (countOutcome o w) := by
  unfold countOutcome
  split <;>
  first
    | exact h
    | exact ⟨h.deferred, h.distinct, countUp_le _ _, h.failed, h.skipped⟩
    | exact ⟨h.deferred, h.distinct, countUp_le _ _, countUp_le _ _, h.skipped⟩
    | exact ⟨h.deferred, h.distinct, h.tested, h.failed, countUp_le _ _⟩

@[simp] theorem inv_completeSweep {s : State} (h : Inv s) : Inv (completeSweep s) := by
  unfold completeSweep
  split
  · exact h
  · split
    · exact inv_emit (by simp) (inv_updSweep h fun _ => sweepOk_phase)
    · exact h

@[simp] theorem inv_skipLine {l : Line} {s : State} (h : Inv s) : Inv (skipLine l s) :=
  inv_emit (by simp) (inv_updSweep h fun _ => sweepOk_skipped)

@[simp] theorem inv_deferLine {l : Line} {s : State} (h : Inv s) : Inv (deferLine l s) := by
  unfold deferLine
  split
  · exact h
  · next w hw =>
    split
    · exact h
    · next hc =>
      split
      · next hlen =>
        have hw' := h.sweep w hw
        refine inv_updAuto_sweep h fun v hv => ?_
        simp [hw] at hv
        subst hv
        refine ⟨by simp; omega, ?_, hw'.tested, hw'.failed, hw'.skipped⟩
        rw [List.nodup_append]
        refine ⟨hw'.distinct, by simp, fun a ha b hb => ?_⟩
        rw [List.mem_singleton.1 hb]
        rintro rfl
        exact hc (by simpa using ha)
      · exact inv_skipLine h

@[simp] theorem inv_sweepOutcome {i : Item} {o : ItemOutcome} {s : State} (h : Inv s) :
    Inv (sweepOutcome i o s) := by
  unfold sweepOutcome
  split
  · dsimp only
    refine inv_completeSweep ?_
    have hd : Inv (updSweep (fun w => { w with deferred := w.deferred.filter (· != i.line) }) s) :=
      inv_updSweep h fun w hw =>
        ⟨Nat.le_trans (List.length_filter_le _ _) hw.deferred, List.filter_sublist.nodup hw.distinct, hw.tested,
          hw.failed, hw.skipped⟩
    split
    · exact inv_skipLine hd
    · exact inv_updSweep hd fun _ => sweepOk_countOutcome
  · dsimp only
    refine inv_completeSweep (inv_updSweep ?_ fun _ => sweepOk_cursorPast)
    split
    · exact inv_deferLine h
    · exact inv_updSweep h fun _ => sweepOk_countOutcome

@[simp] theorem inv_retestOutcome {n : TicketNo} {o : ItemOutcome} {s : State} (h : Inv s) :
    Inv (retestOutcome n o s) := by
  unfold retestOutcome
  split <;> first | exact h | exact inv_postponeRetest h

@[simp] theorem inv_emitItemResult {i : Item} {o : ItemOutcome} {k : Option FaultClass} {a : TicketAnswer}
    {s : State} (h : Inv s) : Inv (emitItemResult i o k a s) := by
  unfold emitItemResult
  split
  · exact h
  · exact inv_emit (by simp) h

@[simp] theorem inv_fixOutcome {i : Item} {o : ItemOutcome} {k : Option FaultClass} {a : TicketAnswer} {s : State}
    (h : Inv s) : Inv (fixOutcome i o k a s) := by
  have he : Inv (emitItemResult i o k a (updItem (fun i => { i with outcome := some o }) s)) :=
    inv_emitItemResult (by simpa using h)
  unfold fixOutcome
  dsimp only
  split
  · exact inv_retestOutcome he
  · exact inv_sweepOutcome he
  · exact he

@[simp] theorem inv_report {o : ItemOutcome} {s : State} (h : Inv s) : Inv (report o s) := by
  unfold report; split
  · exact h
  · exact inv_fixOutcome h

@[simp] theorem inv_reportMeasured {k : FaultClass} {d : Option Deciding} {n : Bool} {s : State} (h : Inv s) :
    Inv (reportMeasured k d n s) := by
  unfold reportMeasured
  split
  · exact h
  · dsimp only
    split
    · exact inv_fixOutcome (inv_retestResult h)
    · exact inv_fixOutcome (inv_storeResult h)

@[simp] theorem inv_itemEnds {s : State} (h : Inv s) : Inv (itemEnds s) := by
  have hd : Inv (dropItem s) := by simpa using h
  unfold itemEnds
  split
  · exact h
  · dsimp only
    split
    · exact hd
    · split
      · exact hd
      · exact inv_haltEngine.2 (inv_emit (by simp [stepDone]) hd)
      · exact inv_haltEngine.2 hd
      · exact hd
      · exact hd

@[simp] theorem inv_freeze {k : FreezeCause} {l : Line} {s : State} (h : Inv s) : Inv (freeze k l s) :=
  inv_emit (by simp) (by simpa using h)

/-! ### The ends of sessions -/

@[simp] theorem inv_clearSession {c : Channel} {s : State} : Inv (clearSession c s) ↔ Inv s := by
  simp [clearSession]

@[simp] theorem inv_sessionEnded {c : Channel} {x : Session} {k : SessionEndCause} {s : State} (h : Inv s) :
    Inv (sessionEnded c x k s) := by
  unfold sessionEnded
  split
  · simpa using inv_writeSessionEnd h
  · exact inv_complete (by simp) h

@[simp] theorem inv_reportEnd {c : Channel} {x : Session} {o : ChannelOutcome} {n : Option Station} {s : State}
    (h : Inv s) : Inv (reportEnd c x o n s) := by
  unfold reportEnd
  split
  · exact inv_complete (by simp [completionOf]) h
  · exact inv_complete (by simp [completionOf]) h
  · split
    · exact inv_sessionEnded h
    · exact inv_sessionEnded h
    · exact h

@[simp] theorem inv_finishSession {c : Channel} {o : ChannelOutcome} {n : Option Station} {s : State} (h : Inv s) :
    Inv (finishSession c o n s) := by
  unfold finishSession
  dsimp only
  split
  · exact inv_itemEnds (by simpa using h)
  · exact inv_reportEnd (by simpa using h)

@[simp] theorem inv_finishFixed {c : Channel} {o : ChannelOutcome} {s : State} (h : Inv s) :
    Inv (finishFixed c o s) := inv_finishSession h

@[simp] theorem inv_enterClosing {c : Channel} {s : State} (h : Inv s) : Inv (enterClosing c s) :=
  inv_offerUrgent rfl (by simpa using h)

@[simp] theorem inv_enterGuard {c : Channel} {s : State} (h : Inv s) : Inv (enterGuard c s) := by
  unfold enterGuard
  dsimp only
  split
  · exact inv_enterClosing (inv_sequenceEnds (by simpa using h))
  · exact inv_sequenceEnds (by simpa using h)

@[simp] theorem inv_enterReleasing {c : Channel} {s : State} (h : Inv s) : Inv (enterReleasing c s) := by
  unfold enterReleasing
  split
  · exact inv_enterClosing h
  · exact inv_giveRelease.2 (inv_releaseDisturbs (by simpa using h))

@[simp] theorem inv_fixSession {c : Channel} {o : ChannelOutcome} {s : State} : Inv (fixSession c o s) ↔ Inv s := by
  simp [fixSession]

@[simp] theorem inv_abandonMeasurement {c : Channel} {s : State} (h : Inv s) : Inv (abandonMeasurement c s) := by
  unfold abandonMeasurement
  dsimp only
  split
  · exact inv_quietEndAsked (by simpa using h)
  · simpa using h

@[simp] theorem inv_reverseSession {c : Channel} {s : State} (h : Inv s) : Inv (reverseSession c s) := by
  unfold reverseSession
  split
  · exact inv_enterClosing h
  · exact inv_enterReleasing h
  · exact inv_enterReleasing (by simpa using h)
  · exact inv_enterReleasing (by simpa using h)
  · exact inv_enterReleasing (inv_abandonMeasurement (by simpa using h))
  · exact h

@[simp] theorem inv_cancelSession {c : Channel} {s : State} (h : Inv s) : Inv (cancelSession c s) := by
  unfold cancelSession
  split
  · dsimp only
    split
    · simpa using h
    · exact inv_finishSession (inv_removeIfQueued (by simpa using h))
  · split
    · exact inv_reverseSession (by simpa using h)
    · exact h

@[simp] theorem inv_conflict {c : Channel} {s : State} (h : Inv s) : Inv (conflict c s) := by
  unfold conflict
  split
  · dsimp only
    refine inv_reverseSession (inv_fixSession.2 ?_)
    split
    · exact inv_report h
    · exact h
  · exact h

@[simp] theorem inv_dropDrives {c : Channel} {s : State} : Inv (dropDrives c s) ↔ Inv s := by simp [dropDrives]

@[simp] theorem inv_loseSession {c : Channel} {s : State} (h : Inv s) : Inv (loseSession c s) := by
  unfold loseSession
  dsimp only
  split
  · simpa using h
  · exact inv_finishSession (by simpa using h)

/-! ### Measurements -/

@[simp] theorem inv_sendRequest {c : Channel} {r : Reading} {s : State} : Inv (sendRequest c r s) ↔ Inv s := by
  simp [sendRequest]

@[simp] theorem inv_startMeasurement {c : Channel} {g : StageSet} {n : Nat} {t : Bool} {s : State} :
    Inv (startMeasurement c g n t s) ↔ Inv s := by
  unfold startMeasurement; dsimp only; split <;> simp

@[simp] theorem inv_closeMeasurement {c : Channel} {r : MeasureRecord} {s : State} (h : Inv s) :
    Inv (closeMeasurement c r s) := by
  unfold closeMeasurement
  dsimp only
  split
  · simpa using inv_quietEndAsked h
  · simpa using h

@[simp] theorem inv_backToConnected {c : Channel} {s : State} : Inv (backToConnected c s) ↔ Inv s := by
  simp [backToConnected]

@[simp] theorem inv_measureDone {c : Channel} {o : EventOutcome} {d : Option Deciding} {a : TicketAnswer} {s : State}
    (h : Inv s) : Inv (measureDone c o d a s) := inv_complete (by simp) h

@[simp] theorem inv_releaseAutomatic {c : Channel} {s : State} (h : Inv s) : Inv (releaseAutomatic c s) :=
  inv_enterReleasing (by simpa using h)

@[simp] theorem inv_measurementDone {c : Channel} {k : Copies} {r : MeasureRecord} {s : State} (h : Inv s) :
    Inv (measurementDone c k r s) := by
  have hc : Inv (backToConnected c (closeMeasurement c (classified k r) s)) := by
    simpa using inv_closeMeasurement h
  unfold measurementDone
  dsimp only
  split
  · exact inv_releaseAutomatic (inv_reportMeasured hc)
  · split
    · exact inv_measureDone (inv_storeResult hc)
    · exact inv_measureDone hc

@[simp] theorem inv_cutMeasurement {c : Channel} {o : MeasureOutcome} {d : ChannelOutcome} {s : State} (h : Inv s) :
    Inv (cutMeasurement c o d s) := by
  unfold cutMeasurement
  split
  · exact h
  · dsimp only
    split
    · exact inv_releaseAutomatic (inv_report (by simpa using inv_closeMeasurement h))
    · exact inv_measureDone (by simpa using inv_closeMeasurement h)

@[simp] theorem inv_yieldSession {c : Channel} {s : State} (h : Inv s) : Inv (yieldSession c s) := by
  unfold yieldSession
  dsimp only
  refine inv_releaseAutomatic (inv_report ?_)
  split
  · exact inv_closeMeasurement h
  · exact h

@[simp] theorem inv_takeAnswer {c : Channel} {a : HeadAnswer} {s : State} (h : Inv s) : Inv (takeAnswer c a s) := by
  unfold takeAnswer
  dsimp only
  split
  · split
    · simpa using h
    · exact inv_measurementDone (by simpa using h)
  · exact h

@[simp] theorem inv_settleEnds {c : Channel} {s : State} : Inv (settleEnds c s) ↔ Inv s := by
  unfold settleEnds; split <;> simp

@[simp] theorem inv_limitRecord {c : Channel} {s : State} (h : Inv s) : Inv (limitRecord c s) := by
  unfold limitRecord
  split
  · exact h
  · simpa using h
  · split
    · simpa using h
    · simpa using inv_removeIfQueued h
  · simpa using h
  · exact h
  · simpa using h

@[simp] theorem inv_limitReached {c : Channel} {s : State} (h : Inv s) : Inv (limitReached c s) := by
  unfold limitReached
  split
  · simpa using inv_limitRecord h
  · exact h

@[simp] theorem inv_quietLapses {c : Channel} {s : State} (h : Inv s) : Inv (quietLapses c s) := by
  unfold quietLapses
  split
  · simpa using inv_endQuiet h
  · exact h

@[simp] theorem inv_enterConnected {c : Channel} {s : State} (h : Inv s) : Inv (enterConnected c s) := by
  unfold enterConnected
  extract_lets x closed s1 s2 s3
  have h2 : Inv s2 := inv_sequenceEnds (by simpa [s1] using h)
  split
  · split
    · exact inv_yieldSession h2
    · split
      · simpa using h2
      · exact h2
  · have h3 : Inv s3 := inv_complete (by simp [completionOf]) h2
    split
    · exact inv_emit (by simp) h3
    · exact h3

@[simp] theorem inv_operateEnds {c : Channel} {s : State} (h : Inv s) : Inv (operateEnds c s) := by
  unfold operateEnds
  split
  · simpa using h
  · exact inv_enterConnected h

@[simp] theorem inv_takeConfirm {c : Channel} {s : State} (h : Inv s) : Inv (takeConfirm c s) := by
  unfold takeConfirm
  dsimp only
  split
  · exact inv_operateEnds (inv_creditConfirm (by simpa using h))
  · exact inv_creditConfirm (by simpa using h)

/-! ### The Line Watch -/

@[simp] theorem inv_captureMatch {k : Capture} {s : State} (h : Inv s) : Inv (captureMatch k s) :=
  inv_watch h (Nat.min_le_left _ _)

@[simp] theorem inv_emitWatchHit {l : Line} {n : Station} {c : Channel} {p : Purpose} {s : State} (h : Inv s) :
    Inv (emitWatchHit l n c p s) := by
  unfold emitWatchHit
  split
  · exact h
  · exact inv_emit (by simp) h

@[simp] theorem inv_monitorClaim {o : Bool} {n : Station} {l : Line} {t : Trunk} {p : Purpose} {c : Channel}
    {s : State} (h : Inv s) : Inv (monitorClaim o n l t p c s) := by
  unfold monitorClaim
  split
  · exact inv_emitWatchHit (inv_captureMatch h)
  · exact h

@[simp] theorem inv_stopAtClaim {c : Channel} {s : State} (h : Inv s) : Inv (stopAtClaim c s) := by
  unfold stopAtClaim
  dsimp only
  split
  · split
    · exact inv_freeze (by simpa using inv_captureMatch h)
    · exact inv_captureMatch h
  · exact h

@[simp] theorem inv_watchOwnClaim {c : Channel} {s : State} (h : Inv s) : Inv (watchOwnClaim c s) :=
  inv_stopAtClaim (inv_monitorClaim h)

/-! ### The Claim Unit -/

@[simp] theorem inv_endClaim {c : Channel} {o : ChannelOutcome} {n : Option Station} {s : State} (h : Inv s) :
    Inv (endClaim c o n s) := by
  unfold endClaim
  dsimp only
  refine inv_finishSession ?_
  split
  · exact inv_report (inv_removeIfQueued h)
  · exact inv_removeIfQueued h

theorem claimFrame_mem {l : Link} {c : Channel} {f : QueuedFrame} (h : l.claimFrame c = some f) : f ∈ l.queue :=
  List.mem_of_find?_eq_some h

/-- A frame that goes behind the others with another body of its own urgency and counts of 0 (R121). -/
theorem linkOk_requeue {l : Link} (h : LinkOk l) {f : QueuedFrame} (hf : f ∈ l.queue) (b : QueuedBody) :
    LinkOk { l with
      queue := l.queue.filter (·.entry != f.entry) ++
        [{ f with body := b, entry := l.nextEntry, voids := 0, losses := 0 }]
      nextEntry := l.nextEntry + 1 } where
  slots := by
    have h1 := shorter_of_removed (stays := fun x : QueuedFrame => x.entry != f.entry) hf (by simp)
    have := h.slots
    simp only [List.length_append, List.length_singleton]; omega
  low := by
    rw [lowCount_append]
    have hlow := h.low
    by_cases hz : f.low = true
    · have hm : f ∈ l.queue.filter QueuedFrame.low := List.mem_filter.2 ⟨hf, hz⟩
      have h1 := shorter_of_removed (stays := fun x : QueuedFrame => x.entry != f.entry) hm (by simp)
      have h2 : lowCount (l.queue.filter (·.entry != f.entry)) < lowCount l.queue := by
        have : (l.queue.filter (·.entry != f.entry)).filter QueuedFrame.low =
            (l.queue.filter QueuedFrame.low).filter (·.entry != f.entry) := by
          rw [List.filter_filter, List.filter_filter]
          exact List.filter_congr fun x _ => Bool.and_comm _ _
        unfold lowCount
        rw [this]
        exact h1
      have h3 : lowCount [{ f with body := b, entry := l.nextEntry, voids := 0, losses := 0 }] ≤ 1 :=
        List.length_filter_le _ _
      omega
    · have h1 := lowCount_filter_le l.queue (·.entry != f.entry)
      have h2 : lowCount [{ f with body := b, entry := l.nextEntry, voids := 0, losses := 0 }] = 0 := by
        have : QueuedFrame.low { f with body := b, entry := l.nextEntry, voids := 0, losses := 0 } = false := by
          simpa [QueuedFrame.low] using hz
        simp [lowCount, this]
      omega
  frames x hx := by
    rcases List.mem_append.1 hx with hx | hx
    · obtain ⟨a, b, c⟩ := h.frames x (List.mem_of_mem_filter hx)
      exact ⟨a, b, Nat.lt_succ_of_lt c⟩
    · rw [List.mem_singleton.1 hx]
      exact ⟨Nat.zero_le _, Nat.zero_le _, Nat.lt_succ_self _⟩
  order := by
    rw [List.map_append, List.pairwise_append]
    refine ⟨h.order.sublist (List.filter_sublist.map _), by simp, fun a ha x hx => ?_⟩
    obtain ⟨g, hg, rfl⟩ := List.mem_map.1 ha
    rw [show x = l.nextEntry by simpa using hx]
    exact (h.frames g (List.mem_of_mem_filter hg)).2.2
  holding := h.holding
  waiting := h.waiting

@[simp] theorem inv_rerouteClaim {c : Channel} {n : Option Station} {s : State} (h : Inv s) :
    Inv (rerouteClaim c n s) := by
  unfold rerouteClaim
  split
  · next t f _ hf =>
    have hl : (s.updSession c fun x => { x with trunk := t }).link = s.link := by cases c <;> rfl
    exact inv_updLink (by simpa using h) (fun hk => linkOk_requeue hk (by rw [hl]; exact claimFrame_mem hf) _) rfl
  · exact inv_endClaim h

@[simp] theorem inv_contestFirst {n : Station} {ps : List Pair} {c : Channel} {s : State} (h : Inv s) :
    Inv (contestFirst n ps c s) := by
  unfold contestFirst; dsimp only
  repeat' split
  all_goals first | exact h | exact inv_endClaim h | exact inv_conflict h

@[simp] theorem inv_contestSecond {n : Station} {ps : List Pair} {c : Channel} {s : State} (h : Inv s) :
    Inv (contestSecond n ps c s) := by
  unfold contestSecond; dsimp only; split
  · exact inv_rerouteClaim h
  · exact h

@[simp] theorem inv_contest {n : Station} {ps : List Pair} {s : State} (h : Inv s) : Inv (contest n ps s) :=
  inv_contestSecond (inv_contestSecond (inv_contestFirst (inv_contestFirst h)))

@[simp] theorem inv_releaseContests {p : Pair} {c : Channel} {s : State} (h : Inv s) : Inv (releaseContests p c s) := by
  unfold releaseContests; dsimp only; split
  · exact inv_conflict h
  · exact h

@[simp] theorem inv_trunkOutFirst {t : Trunk} {n : Option Station} {c : Channel} {s : State} (h : Inv s) :
    Inv (trunkOutFirst t n c s) := by
  unfold trunkOutFirst; dsimp only
  repeat' split
  all_goals first | exact h | exact inv_endClaim h | simpa using h

@[simp] theorem inv_trunkOutSecond {t : Trunk} {n : Option Station} {c : Channel} {s : State} (h : Inv s) :
    Inv (trunkOutSecond t n c s) := by
  unfold trunkOutSecond; dsimp only; split
  · exact inv_rerouteClaim h
  · exact h

@[simp] theorem inv_trunkWentOut {t : Trunk} {n : Option Station} {s : State} (h : Inv s) : Inv (trunkWentOut t n s) :=
  inv_trunkOutSecond (inv_trunkOutSecond (inv_trunkOutFirst (inv_trunkOutFirst h)))

theorem inv_withTrunkWatch {t : Trunk} {n : Option Station} {f : State → State} {s : State} (h : Inv (f s)) :
    Inv (withTrunkWatch t n f s) := by
  unfold withTrunkWatch; dsimp only; split
  · exact inv_trunkWentOut h
  · exact h

@[simp] theorem inv_claimOnWire {c : Channel} {s : State} : Inv (claimOnWire c s) ↔ Inv s := by simp [claimOnWire]

@[simp] theorem inv_ownClaimTaken {c : Channel} {s : State} (h : Inv s) : Inv (ownClaimTaken c s) := by
  unfold ownClaimTaken
  split
  · dsimp only
    split
    · exact inv_enterClosing (inv_watchOwnClaim (by simpa using h))
    · exact inv_goRule.2 (inv_watchOwnClaim (by simpa using h))
  · exact h

@[simp] theorem inv_claimNotTaken {c : Channel} {s : State} (h : Inv s) : Inv (claimNotTaken c s) := by
  have hu : Inv (s.updClaim c fun _ => ⟨.queued, none⟩) := by simpa using h
  unfold claimNotTaken
  dsimp only
  split
  · exact inv_endClaim hu
  · split
    · exact hu
    · exact inv_endClaim hu
    · split
      · exact inv_endClaim hu
      · exact inv_rerouteClaim hu

/-! ### Beginning a session, and the arbiter -/

theorem checkClaim_room {s : State} {c : Channel} {l : Line} {n : Nat} {t : Trunk}
    (h : checkClaim s c l n = .passes t) : s.link.roomLow n = true := by
  unfold checkClaim at h
  split at h
  · cases h
  · split at h
    · cases h
    · split at h
      · cases h
      · cases h
      · split at h
        · assumption
        · cases h

theorem inv_beginSession {c : Channel} {p : Purpose} {l : Line} {t : Trunk} {f : Bool} {k : Option TicketNo}
    {s : State} {n : Nat} (h : Inv s) (hr : s.link.roomLow n = true) : Inv (beginSession c p l t f k s) := by
  unfold beginSession
  refine inv_enqueue_room (n := n) (by simpa using h) ?_
  cases c <;> exact hr

@[simp] theorem inv_itemBlocked {s : State} (h : Inv s) : Inv (itemBlocked s) := inv_itemEnds (inv_report h)

@[simp] theorem inv_askForClaim {i : Item} {c : Channel} {e : Bool} {s : State} (h : Inv s) :
    Inv (askForClaim i c e s) := by
  unfold askForClaim
  split
  · simpa using h
  · simpa using h
  · exact inv_itemBlocked h
  · exact inv_itemBlocked h
  · exact inv_itemBlocked h
  · next t ht =>
    have hr := checkClaim_room ht
    dsimp only
    split
    · split
      · exact inv_freeze (inv_captureMatch h)
      · exact inv_beginSession (inv_captureMatch h) hr
    · exact inv_beginSession h hr

@[simp] theorem inv_startItem {i : Item} {c : Channel} {s : State} (h : Inv s) : Inv (startItem i c s) := by
  have hu : Inv (s.updAuto fun a => { a with item := some i }) := by simpa using h
  unfold startItem
  dsimp only
  split
  · exact inv_itemBlocked hu
  · exact inv_askForClaim hu

theorem inv_walkStep {s s' : State} (h : Inv s) (hw : walkStep s = .passed s') : Inv s' := by
  unfold walkStep at hw
  split at hw
  · cases hw
  · next w hs =>
    split at hw
    · cases hw
    · split at hw
      · injection hw with hw
        subst hw
        exact inv_completeSweep
          (inv_updSweep (inv_emit (by simp) h) fun v hv => sweepOk_cursorPast (sweepOk_skipped hv))
      · split at hw
        · injection hw with hw
          subst hw
          exact inv_completeSweep (inv_updSweep h fun v hv => sweepOk_cursorPast (sweepOk_skipped hv))
        · cases hw
    · split at hw
      · cases hw
      · next l rest hd =>
        have hw' := h.sweep w hs
        have h1 : rest.length ≤ Config.deferredSlots := by
          have := hw'.deferred
          rw [hd, List.length_cons] at this; omega
        have h2 : rest.Nodup := by
          have := hw'.distinct
          rw [hd, List.nodup_cons] at this
          exact this.2
        split at hw
        · injection hw with hw
          subst hw
          exact inv_completeSweep (inv_skipLine (inv_updSweep h fun v hv => ⟨h1, h2, hv.tested, hv.failed, hv.skipped⟩))
        · split at hw
          · injection hw with hw
            subst hw
            exact inv_completeSweep (inv_updSweep h fun v hv => ⟨h1, h2, hv.tested, hv.failed, countUp_le _ _⟩)
          · cases hw

theorem inv_walkSweep : ∀ (n : Nat) (s : State), Inv s → Inv (walkSweep n s).1
  | 0, _, h => h
  | n + 1, s, h => by
    rw [walkSweep]
    split
    · exact h
    · next hw => exact inv_walkSweep n _ (inv_walkStep h hw)
    · exact h

@[simp] theorem inv_chooseItem {s : State} (h : Inv s) : Inv (chooseItem s).1 := by
  unfold chooseItem
  split
  · exact h
  · exact inv_walkSweep _ _ h

@[simp] theorem inv_arbiterChooses {s : State} (h : Inv s) : Inv (arbiterChooses s) := by
  have hc := inv_chooseItem h
  unfold arbiterChooses
  split
  · exact h
  · split
    · split
      · next he => rw [he] at hc; exact inv_startItem hc
      · next he =>
        rw [he] at hc
        split
        · exact inv_haltEngine.2 (inv_emit (by simp) hc)
        · exact hc
    · exact h

@[simp] theorem inv_unfreezeSession {c : Channel} {s : State} : Inv (unfreezeSession c s) ↔ Inv s := by
  unfold unfreezeSession; dsimp only; split <;> simp

@[simp] theorem inv_leaveFrozen {r : RunState} {s : State} (h : Inv s) : Inv (leaveFrozen r s) := by
  have hu : Inv (s.updAuto fun a => { a with run := r, returnState := none, freezeCause := none }) := by
    simpa using h
  unfold leaveFrozen
  dsimp only
  split
  · simpa using hu
  · split
    · exact inv_askForClaim hu
    · simpa using hu
  · exact hu

end Sys2Proof.Machine
end

