-- ==== Sys2Proof/Laws/Roster.lean ====
section
/-! SUPPORT. The roster stays in station order, each entry within its limits, as frames are taken and peers
dropped. -/

namespace Sys2Proof.Machine

/-! ### Finding and changing an entry -/

theorem peer_mem {s : State} {n : Station} {p : Peer} (h : s.peer n = some p) : p ∈ s.roster ∧ p.station = n :=
  ⟨List.mem_of_find?_eq_some h, by simpa using List.find?_some h⟩

theorem peer_none {s : State} {n : Station} (h : s.peer n = none) : ∀ p ∈ s.roster, p.station ≠ n := by
  simpa [State.peer] using h

/-- The entry found is the only one of its station. -/
theorem peer_unique {s : State} (h : RosterOk s.roster) {n : Station} {p q : Peer} (hp : s.peer n = some p)
    (hq : q ∈ s.roster) (hn : q.station = n) : q = p :=
  same_of_key (h.order.imp fun hab => Nat.ne_of_lt hab) hq (peer_mem hp).1 (hn.trans (peer_mem hp).2.symm)

theorem inv_updatePeer {n : Station} {f : Peer → Peer} {s : State} (h : Inv s) (hs : ∀ p, (f p).station = p.station)
    (hf : ∀ p ∈ s.roster, p.station = n → PeerOk p → PeerOk (f p)) : Inv (updatePeer n f s) := by
  have hst : ∀ p : Peer, (if p.station = n then f p else p).station = p.station := fun p => by
    split
    · exact hs p
    · rfl
  refine inv_roster h ⟨?_, ?_⟩ ⟨?_, ?_⟩
  · have : (s.roster.map fun p => if p.station = n then f p else p).map (·.station) = s.roster.map (·.station) := by
      rw [List.map_map]; exact List.map_congr_left fun p _ => hst p
    rw [this]; exact h.roster.order
  · intro p hp
    obtain ⟨q, hq, rfl⟩ := List.mem_map.1 hp
    split
    · next e => exact hf q hq e (h.roster.peers q hq)
    · exact h.roster.peers q hq
  · intro p hp
    obtain ⟨q, hq, rfl⟩ := List.mem_map.1 hp
    rw [hst q]; exact h.fits.foreign q hq
  · intro hx; rw [h.fits.onLine hx]; rfl

theorem insertPeer_mem {p q : Peer} : ∀ {l : List Peer}, q ∈ insertPeer p l ↔ q = p ∨ q ∈ l
  | [] => by simp [insertPeer]
  | r :: l => by
    rw [insertPeer]
    split
    · simp
    · simp only [List.mem_cons, insertPeer_mem (l := l)]
      constructor
      · rintro (h | h | h) <;> simp [h]
      · rintro (h | h | h) <;> simp [h]

theorem insertPeer_order {p : Peer} : ∀ {l : List Peer}, (l.map (·.station)).Pairwise (· < ·) →
    (∀ q ∈ l, q.station ≠ p.station) → ((insertPeer p l).map (·.station)).Pairwise (· < ·)
  | [], _, _ => by simp [insertPeer]
  | r :: l, h, hn => by
    rw [List.map_cons, List.pairwise_cons] at h
    have hr := hn r List.mem_cons_self
    rw [insertPeer]
    split
    · next hlt =>
      simp only [List.map_cons, List.pairwise_cons]
      refine ⟨fun a ha => ?_, h⟩
      rcases List.mem_cons.1 ha with rfl | ha
      · exact hlt
      · exact Nat.lt_trans hlt (h.1 a ha)
    · next hge =>
      simp only [List.map_cons, List.pairwise_cons]
      refine ⟨fun a ha => ?_, insertPeer_order h.2 fun q hq => hn q (List.mem_cons_of_mem _ hq)⟩
      obtain ⟨q, hq, rfl⟩ := List.mem_map.1 ha
      rcases insertPeer_mem.1 hq with rfl | hq
      · exact Nat.lt_of_le_of_ne (Nat.le_of_not_lt hge) hr
      · exact h.1 _ (List.mem_map.2 ⟨q, hq, rfl⟩)

/-- The link is in a state in which frames are taken (R87). -/
def takesFrames (l : LinkState) : Prop := ¬ (l = .off ∨ l = .mute ∨ l = .lost)

/-- The Office View notes the sender of a frame taken (R97, R111). -/
theorem inv_heardPeer {n : Station} {j : Bool} {s : State} (h : Inv s) (hn : 1 ≤ n ∧ n ≤ 15)
    (ho : s.store.station ≠ some n) (hl : takesFrames s.link.state) : Inv (heardPeer n j s) := by
  unfold heardPeer
  split
  · next hp =>
    refine inv_emit (by simp [peerJoined]) (inv_roster h ⟨insertPeer_order h.roster.order (peer_none hp), ?_⟩ ⟨?_, ?_⟩)
    · intro p hm
      rcases insertPeer_mem.1 hm with rfl | hm
      · exact ⟨hn, Nat.zero_le _, List.nodup_nil, Nat.zero_le _, List.nodup_nil⟩
      · exact h.roster.peers p hm
    · intro p hm
      rcases insertPeer_mem.1 hm with rfl | hm
      · exact ho
      · exact h.fits.foreign p hm
    · exact fun hx => absurd hx hl
  · dsimp only
    have hu : Inv (updatePeer n (fun q => { q with lastHeard := s.now }) s) :=
      inv_updatePeer h (fun _ => rfl) fun p _ _ hp => ⟨hp.station, hp.holdings, hp.pairs, hp.quiets, hp.blocks⟩
    split
    · exact inv_emit (by simp [peerJoined]) hu
    · exact hu

/-! ### Holdings and quiets -/

theorem addHolding_length {h : Holding} {l : List Holding} (hl : l.length ≤ 2) : (addHolding h l).length ≤ 2 := by
  unfold addHolding
  split
  · simpa using hl
  · split
    · simp; omega
    · simp; omega

theorem addHolding_pairs {h : Holding} {l : List Holding} (hl : (l.map fun x => (x.line, x.trunk)).Nodup) :
    ((addHolding h l).map fun x => (x.line, x.trunk)).Nodup := by
  unfold addHolding
  split
  · have : (l.map fun x => if x.line = h.line ∧ x.trunk = h.trunk then { x with purpose := h.purpose } else x).map
        (fun x => (x.line, x.trunk)) = l.map fun x => (x.line, x.trunk) := by
      rw [List.map_map]
      refine List.map_congr_left fun x _ => ?_
      simp only [Function.comp]
      split <;> rfl
    rw [this]; exact hl
  · next hc =>
    have hne : ∀ k : List Holding, (∀ x ∈ k, x ∈ l) → (k.map fun x => (x.line, x.trunk)).Nodup →
        ((k ++ [h]).map fun x => (x.line, x.trunk)).Nodup := by
      intro k hk hd
      rw [List.map_append, List.nodup_append]
      refine ⟨hd, by simp, fun a ha b hb => ?_⟩
      obtain ⟨x, hx, rfl⟩ := List.mem_map.1 ha
      have hb' : b = (h.line, h.trunk) := by simpa using hb
      rw [hb']
      intro he
      simp only [Prod.mk.injEq] at he
      exact hc (List.any_eq_true.2 ⟨x, hk x hx, by simp [he.1, he.2]⟩)
    split
    · exact hne l (fun _ hx => hx) hl
    · exact hne _ (fun _ hx => List.mem_of_mem_drop hx) (((List.drop_sublist 1 l).map _).nodup hl)

theorem inv_takeClaim {n : Station} {l : Line} {t : Trunk} {p : Purpose} {c : Channel} {s : State} (h : Inv s) :
    Inv (takeClaim n l t p c s) := by
  refine inv_monitorClaim (inv_contest (inv_updatePeer h (fun _ => rfl) fun q _ _ hq => ?_))
  exact ⟨hq.station, addHolding_length hq.holdings, addHolding_pairs hq.pairs, hq.quiets, hq.blocks⟩

theorem inv_takeRelease {n : Station} {l : Line} {t : Trunk} {s : State} (h : Inv s) : Inv (takeRelease n l t s) := by
  refine inv_releaseContests (inv_releaseContests (inv_updatePeer h (fun _ => rfl) fun q _ _ hq => ?_))
  exact ⟨hq.station, Nat.le_trans (List.length_filter_le _ _) hq.holdings,
    (List.filter_sublist.map _).nodup hq.pairs, hq.quiets, hq.blocks⟩

@[simp] theorem inv_quietEnded {n : Station} {b : Block} {s : State} : Inv (quietEnded n b s) ↔ Inv s := by
  simp [quietEnded]

theorem inv_removeQuiet {n : Station} {b : Block} {s : State} (h : Inv s) : Inv (removeQuiet n b s) :=
  inv_updatePeer h (fun _ => rfl) fun _ _ _ hq =>
    ⟨hq.station, hq.holdings, hq.pairs, Nat.le_trans (List.length_filter_le _ _) hq.quiets,
      (List.filter_sublist.map _).nodup hq.blocks⟩

@[simp] theorem inv_withdrawBoth {b : Block} {s : State} (h : Inv s) : Inv (withdrawBoth b s) :=
  inv_withdrawRequested (inv_withdrawRequested h)

@[simp] theorem inv_takeQuietEnd {n : Station} {b : Block} {s : State} (h : Inv s) : Inv (takeQuietEnd n b s) := by
  unfold takeQuietEnd
  split
  · exact inv_quietEnded.2 (inv_removeQuiet h)
  · exact h

/-! ### What the go rule leaves -/

@[simp] theorem goRule_roster (c : Channel) (s : State) : (goRule c s).roster = s.roster := by
  unfold goRule beginStep1 beginStep3
  dsimp only
  cases c <;> repeat' (first | rfl | split)

@[simp] theorem undefer_roster (c : Channel) (k : Holder) (b : Block) (s : State) :
    (undefer c k b s).roster = s.roster := by
  unfold undefer
  dsimp only
  split
  · rw [goRule_roster]; cases c <;> rfl
  · rfl

@[simp] theorem quietEnded_roster (n : Station) (b : Block) (s : State) :
    (quietEnded n b s).roster = s.roster := by simp [quietEnded, undeferBoth]

/-- A QUIET that the view records joins at most one other block of its station (R99). -/
theorem inv_recordQuiet {n : Station} {b : Block} {s : State} (h : Inv s) (hr : findQuiet s n b = .recorded) :
    Inv (recordQuiet n b s) := by
  have hfresh : ∀ p, s.peer n = some p → ∀ q ∈ p.quiets, q.block ≠ b := by
    intro p hp q hq he
    unfold findQuiet at hr
    rw [hp] at hr
    have : p.quiets.any (·.block == b) = true := List.any_eq_true.2 ⟨q, hq, by simpa using he⟩
    simp [this] at hr
  unfold recordQuiet
  dsimp only
  refine inv_answerQuiet (inv_answerQuiet (inv_withdrawBoth ?_))
  have hadd : ∀ r : State, Inv r → (∀ p ∈ r.roster, p.station = n → p.quiets.length ≤ 1 ∧ ∀ q ∈ p.quiets, q.block ≠ b) →
      Inv (addQuiet n b r) := by
    intro r hi hq
    refine inv_updatePeer hi (fun _ => rfl) fun p hp hn hk => ?_
    obtain ⟨hlen, hne⟩ := hq p hp hn
    refine ⟨hk.station, hk.holdings, hk.pairs, by simp; omega, ?_⟩
    rw [List.map_append, List.nodup_append]
    refine ⟨hk.blocks, by simp, fun a ha x hx => ?_⟩
    obtain ⟨q, hm, rfl⟩ := List.mem_map.1 ha
    rw [show x = b by simpa using hx]
    exact hne q hm
  split
  · next hd =>
    refine hadd s h fun p hp hn => ?_
    have hpe : s.peer n = some p := by
      cases hx : s.peer n with
      | none => exact absurd hn (peer_none hx p hp)
      | some q => rw [peer_unique h.roster hx hp hn]
    refine ⟨?_, hfresh p hpe⟩
    unfold displacedQuiet at hd
    rw [hpe] at hd
    cases hq : p.quiets with
    | nil => simp
    | cons a l =>
      cases l with
      | nil => simp
      | cons c l => simp [hq] at hd
  · next old hd =>
    refine hadd _ (inv_quietEnded.2 (inv_removeQuiet h)) fun p hp hn => ?_
    rw [quietEnded_roster] at hp
    obtain ⟨q, hq, rfl⟩ := List.mem_map.1 hp
    have hqn : q.station = n := by
      split at hn
      · assumption
      · exact hn
    rw [if_pos hqn]
    have hqe : s.peer n = some q := by
      cases hx : s.peer n with
      | none => exact absurd hqn (peer_none hx q hq)
      | some r => rw [peer_unique h.roster hx hq hqn]
    refine ⟨?_, fun x hx => hfresh q hqe x (List.mem_of_mem_filter hx)⟩
    unfold displacedQuiet at hd
    rw [hqe] at hd
    have hlen := (h.roster.peers q hq).quiets
    show (q.quiets.filter fun x => x.block != old).length ≤ 1
    cases hl : q.quiets with
    | nil => simp
    | cons a l =>
      have ha : a.block = old := by
        cases l with
        | nil => simp [hl] at hd
        | cons c l => simpa [hl] using hd
      have hlt :=
        shorter_of_removed (store := a :: l) (stays := fun x : QuietBlock => x.block != old) List.mem_cons_self
        (by simp [ha])
      rw [hl] at hlen
      omega

@[simp] theorem inv_takeQuiet {n : Station} {b : Block} {s : State} (h : Inv s) : Inv (takeQuiet n b s) := by
  unfold takeQuiet
  split
  · next hr => exact inv_recordQuiet h hr
  · exact h
  · exact h

/-! ### A PRESENCE -/

theorem presenceQuiets_sub {s : State} {p : Peer} {l : List Block} :
    ∀ q ∈ presenceQuiets s p l, q.block ∈ l := by
  intro q hq
  rcases List.mem_append.1 hq with hq | hq
  · have := (List.mem_filter.1 hq).2
    simpa using this
  · obtain ⟨b, hb, rfl⟩ := List.mem_map.1 hq
    exact (List.mem_filter.1 hb).1

theorem presenceQuiets_nodup {s : State} {p : Peer} {l : List Block} (hp : (p.quiets.map (·.block)).Nodup)
    (hl : l.Nodup) : ((presenceQuiets s p l).map (·.block)).Nodup := by
  unfold presenceQuiets
  rw [List.map_append, List.nodup_append]
  refine ⟨(List.filter_sublist.map _).nodup hp, ?_, ?_⟩
  · rw [List.map_map]
    have : ∀ k : List Block, (k.map ((·.block) ∘ fun b => (⟨b, s.now + Config.foreignLapse⟩ : QuietBlock))) = k := by
      intro k; simp [Function.comp_def]
    rw [this]
    exact List.filter_sublist.nodup hl
  · intro a ha b hb
    obtain ⟨q, hq, rfl⟩ := List.mem_map.1 ha
    obtain ⟨r, hr, rfl⟩ := List.mem_map.1 hb
    obtain ⟨x, hx, rfl⟩ := List.mem_map.1 hr
    have hnot := (List.mem_filter.1 hx).2
    simp only [Bool.and_eq_true, Bool.not_eq_true'] at hnot
    intro he
    have : p.quiets.any (·.block == x) = true :=
      List.any_eq_true.2 ⟨q, List.mem_of_mem_filter hq, by simpa using he⟩
    rw [this] at hnot
    exact absurd hnot.1.1 (by simp)

theorem presenceQuiets_length {s : State} {p : Peer} {l : List Block} (hp : (p.quiets.map (·.block)).Nodup)
    (hl : l.Nodup) (h2 : l.length ≤ 2) : (presenceQuiets s p l).length ≤ 2 := by
  have hsub : (presenceQuiets s p l).map (·.block) ⊆ l := by
    intro b hb
    obtain ⟨q, hq, rfl⟩ := List.mem_map.1 hb
    exact presenceQuiets_sub q hq
  have := (List.subperm_of_subset (presenceQuiets_nodup (s := s) hp hl) hsub).length_le
  rw [List.length_map] at this
  omega

@[simp] theorem inv_joinReplies {s : State} (h : Inv s) : Inv (joinReplies s) :=
  inv_announceTrunks (inv_updTickets h ticketsOk_announceOpen)

theorem inv_takePresence {n : Station} {j : Bool} {hs : List Holding} {qs : List Block} {p : Peer} {s : State}
    (h : Inv s) (hh : hs.length ≤ 2) (hp : (hs.map fun x => (x.line, x.trunk)).Nodup) (hq : qs.length ≤ 2)
    (hd : qs.Nodup) : Inv (takePresence n j hs qs p s) := by
  have hr : Inv (replacePeer n j hs qs s) := inv_updatePeer h (fun _ => rfl) fun q _ _ hk =>
    ⟨hk.station, hh, hp, presenceQuiets_length hk.blocks hd hq, presenceQuiets_nodup hk.blocks hd⟩
  have hall : Inv (contest n (hs.map fun x => (x.line, x.trunk))
      ((presenceAdds s p qs).foldl (fun r b => withdrawBoth b r)
        ((presenceEnds p qs).foldl (fun r b => quietEnded n b r) (replacePeer n j hs qs s)))) :=
    inv_contest (inv_foldl (fun _ _ hk => inv_withdrawBoth hk) _ _
      (inv_foldl (fun _ _ hk => inv_quietEnded.2 hk) _ _ hr))
  unfold takePresence
  dsimp only
  split
  · exact inv_joinReplies hall
  · exact hall

/-! ### A frame handed on -/

theorem inv_applyFrame {n : Station} {b : FrameBody} {p : Peer} {s : State} (h : Inv s) (hb : b.fits = true) :
    Inv (applyFrame n b p s) := by
  unfold applyFrame
  split
  · exact inv_takeRelease h
  · split
    · simpa using h
    · exact h
  · split
    · simpa using h
    · exact h
  · exact inv_takeQuietEnd h
  · exact inv_takeClaim h
  · exact inv_takeQuiet h
  · exact inv_takeNote h
  · split
    · exact inv_takeAddition h
    · exact h
  · split
    · exact inv_takeOffer hb h
    · exact h
  · split
    · exact inv_takeAccept h
    · exact h
  · split
    · exact inv_takeRefusal h
    · exact h
  · exact inv_withTrunkWatch (inv_takeTrunkNotice h)
  · simp only [FrameBody.fits, Bool.and_eq_true, decide_eq_true_eq] at hb
    exact inv_takePresence h hb.1.1.1 hb.1.2 hb.1.1.2 hb.2

/-- A frame taken from another station is handed on (R79, R97). -/
theorem inv_handOn {n : Station} {b : FrameBody} {s : State} (h : Inv s) (hf : frameFits n b = true)
    (ho : s.store.station ≠ some n) (hl : takesFrames s.link.state) : Inv (handOn n b s) := by
  simp only [frameFits, stationFits, Bool.and_eq_true, decide_eq_true_eq] at hf
  have hp : Inv (heardPeer n (joiningFlag b) s) := inv_heardPeer h hf.1 ho hl
  unfold handOn
  dsimp only
  split
  · exact hp
  · exact inv_applyFrame hp hf.2

/-! ### A peer dropped -/

theorem inv_filterRoster {s : State} (h : Inv s) (f : Peer → Bool) : Inv { s with roster := s.roster.filter f } :=
  inv_roster h
    ⟨h.roster.order.sublist (List.filter_sublist.map _), fun p hp => h.roster.peers p (List.mem_of_mem_filter hp)⟩
    ⟨fun p hp => h.fits.foreign p (List.mem_of_mem_filter hp), fun hx => by rw [h.fits.onLine hx]; rfl⟩

@[simp] theorem inv_dropPeer {p : Peer} {s : State} (h : Inv s) : Inv (dropPeer p s) := by
  unfold dropPeer
  dsimp only
  refine inv_foldl (fun _ _ hk => inv_quietEnded.2 hk) _ _ (inv_emit (by simp) (inv_failHandoversTo ?_))
  exact inv_updTickets (inv_leaveWaits.2 (inv_filterRoster h _)) fun hk => ticketsOk_filterIndex hk _

end Sys2Proof.Machine
end

