-- ==== Sys2Proof/Laws/Link.lean ====
section
/-! SUPPORT. `Inv` through the Link Controller, the soft reset and the console commands: link states, attempts,
losing the line, farewell. -/

namespace Sys2Proof.Machine

/-! ### Changes of the link state -/

/-- The link enters a state in which frames are taken. -/
theorem inv_toTaking {s : State} {f : Link → Link} (h : Inv s) (hf : LinkOk s.link → LinkOk (f s.link))
    (hn : takesFrames (f s.link).state) : Inv (s.updLink f) :=
  { h with link := hf h.link, fits := { foreign := h.fits.foreign, onLine := fun hx => absurd hx hn } }

@[simp] theorem inv_emitIfChanged {o : LinkState} {s : State} (h : Inv s) : Inv (emitIfChanged o s) := by
  unfold emitIfChanged
  split
  · exact h
  · exact inv_emitLinkState h

/-- A mark served changes the queue, the mark and the count of entries only (R85). -/
@[simp] theorem servePresence_state (s : State) : (servePresence s).link.state = s.link.state := by
  unfold servePresence; split <;> rfl

@[simp] theorem servePresence_store (s : State) : (servePresence s).store = s.store := by
  unfold servePresence; split <;> rfl

@[simp] theorem inv_servePresence {s : State} (h : Inv s) : Inv (servePresence s) := by
  unfold servePresence
  split
  · next hr => exact inv_enqueue_room (inv_updLink_fields h rfl rfl rfl rfl rfl) (Bool.and_eq_true_iff.1 hr).2
  · exact h

@[simp] theorem inv_enterJoining {s : State} (h : Inv s) : Inv (enterJoining s) := by
  unfold enterJoining
  dsimp only
  refine inv_announceTrunks (inv_updTickets (inv_emitIfChanged (inv_servePresence (inv_toTaking h ?_ ?_)))
    ticketsOk_announceOpen)
  · exact fun hl => linkOk_of_fields hl rfl rfl rfl rfl
  · simp [takesFrames]

@[simp] theorem inv_dropQuiets {s : State} : Inv (dropQuiets s) ↔ Inv s :=
  ⟨inv_of_fields rfl rfl rfl rfl rfl rfl rfl, inv_of_fields rfl rfl rfl rfl rfl rfl rfl⟩

theorem inv_emptyView {s : State} (h : Inv s) : Inv (emptyView s) where
  port := h.port
  store := h.store
  link := linkOk_of_fields (l := emptyLink s.link) linkOk_empty rfl rfl rfl rfl
  roster := ⟨List.Pairwise.nil, fun _ hp => (nomatch hp)⟩
  fits := ⟨fun _ hp => (nomatch hp), fun _ => rfl⟩
  tickets := ticketsOk_releaseAllNotes (ticketsOk_noIndex h.tickets)
  sweep := h.sweep
  hits := h.hits

@[simp] theorem inv_loseLink {st : LinkState} {k : Option LostCause} {s : State} (h : Inv s) :
    Inv (loseLink st k s) := by
  have he := inv_emptyView (inv_loseSession (c := .b) (inv_loseSession (c := .a) h))
  unfold loseLink
  dsimp only
  refine inv_emitLinkState ?_
  have hd : Inv (lowFrameLeft (dropQuiets (emptyView (loseSession .b (loseSession .a s))))) := by simpa using he
  exact { hd with
    link := linkOk_of_fields hd.link rfl rfl rfl rfl
    fits := ⟨fun _ hp => (nomatch hp), fun _ => rfl⟩ }

@[simp] theorem inv_clash {s : State} (h : Inv s) : Inv (clash s) :=
  inv_loseLink (inv_emit (by simp) (inv_updLink_fields h rfl rfl rfl rfl rfl))

/-! ### Attempts -/

@[simp] theorem inv_clearWire {s : State} (h : Inv s) : Inv (clearWire s) :=
  inv_updLink_fields h rfl rfl rfl rfl rfl

@[simp] theorem inv_startAttempt {f : QueuedFrame} {b : FrameBody} {k : Nat} {s : State} (h : Inv s) :
    Inv (startAttempt f b k s) := by
  have hw : Inv (s.updLink fun l => { l with wire := some ⟨f.entry, b, k⟩ }) :=
    inv_updLink_fields h rfl rfl rfl rfl rfl
  unfold startAttempt
  dsimp only
  split
  · simpa using hw
  · exact hw

theorem inv_offerBest : ∀ (n : Nat) (s : State), Inv s → Inv (offerBest n s)
  | 0, _, h => h
  | n + 1, s, h => by
    rw [offerBest]
    split
    · exact h
    · split
      · exact inv_startAttempt h
      · exact inv_startAttempt h
      · dsimp only
        split
        · exact inv_offerBest n _ (inv_removeFrame h)
        · exact inv_startAttempt h

@[simp] theorem inv_attemptStarts {s : State} (h : Inv s) : Inv (attemptStarts s) := by
  unfold attemptStarts
  split
  · exact inv_offerBest _ _ h
  · exact h

@[simp] theorem inv_farewellChecked {s : State} (h : Inv s) : Inv (farewellChecked s) := by
  unfold farewellChecked
  split
  · exact inv_of_fields (s := s) rfl rfl rfl rfl rfl rfl rfl h
  · exact h

/-- A queued frame is the only one of its entry. -/
theorem frame_unique {l : Link} (h : LinkOk l) {f x : QueuedFrame} (hf : f ∈ l.queue) (hx : x ∈ l.queue)
    (he : x.entry = f.entry) : x = f :=
  same_of_key (h.order.imp fun hab => Nat.ne_of_lt hab) hx hf he

theorem inv_updateFrame {f : QueuedFrame} {g : QueuedFrame → QueuedFrame} {s : State} (h : Inv s)
    (hf : f ∈ s.link.queue) (he : ∀ x, (g x).entry = x.entry) (h1 : ∀ x, (g x).first = x.first)
    (hg : (g f).voids ≤ 3 ∧ (g f).losses ≤ 8) : Inv (updateFrame f g s) := by
  refine inv_updLink h (fun hl => linkOk_mapFrames hl (fun x => ?_) (fun x => ?_) fun x hx => ?_) rfl
  · split
    · exact he x
    · rfl
  · split
    · exact h1 x
    · rfl
  · split
    · next e => rw [frame_unique hl hf hx e]; exact hg
    · exact ⟨(hl.frames x hx).1, (hl.frames x hx).2.1⟩

theorem wireFrame_mem {s : State} {f : QueuedFrame} (h : wireFrame s = some f) : f ∈ s.link.queue := by
  unfold wireFrame at h
  cases hw : s.link.wire with
  | none => simp [hw] at h
  | some w =>
    rw [hw] at h
    exact List.mem_of_find?_eq_some h

@[simp] theorem inv_attemptNotTaken {f : QueuedFrame} {s : State} (h : Inv s) : Inv (attemptNotTaken f s) := by
  unfold attemptNotTaken
  split
  · exact inv_claimNotTaken h
  · exact inv_quietNotTaken h
  · exact h

@[simp] theorem inv_arbitrationLost {s : State} (h : Inv s) : Inv (arbitrationLost s) := by
  unfold arbitrationLost
  split
  · exact inv_farewellChecked (inv_clearWire h)
  · next f hf =>
    have hm := wireFrame_mem hf
    have hok := h.link.frames f hm
    refine inv_attemptNotTaken (inv_updateFrame (inv_clearWire h) hm (fun x => ?_) (fun x => ?_) ⟨?_, ?_⟩)
    · unfold afterLoss; dsimp only; split <;> rfl
    · unfold afterLoss; dsimp only; split <;> rfl
    · unfold afterLoss; dsimp only; split <;> exact hok.1
    · unfold afterLoss; dsimp only; split <;> exact Nat.min_le_left _ _

@[simp] theorem inv_ownFrameTaken {w : Attempt} {o : Option Channel} {s : State} (h : Inv s) :
    Inv (ownFrameTaken w o s) := by
  unfold ownFrameTaken
  split
  · split
    · exact inv_finishFixed h
    · exact h
  · simpa using h
  · simpa using h
  · exact inv_ownQuietEnds h
  · exact inv_ownClaimTaken h
  · exact inv_ownQuietTaken h
  · exact inv_updTickets h ticketsOk_noteTaken
  · exact inv_updTickets h fun hk => ticketsOk_releaseNote hk _
  · exact h

@[simp] theorem inv_ownFrameDropped {b : QueuedBody} {o : Option Channel} {s : State} (h : Inv s) :
    Inv (ownFrameDropped b o s) := by
  unfold ownFrameDropped
  split
  · split
    · exact inv_finishFixed h
    · exact h
  · simpa using h
  · simpa using h
  · exact inv_ownQuietEnds h
  · exact inv_endClaim h
  · simpa using h
  · exact inv_tellDropped h
  · exact h

theorem inv_attemptVoid {f : QueuedFrame} {s : State} (h : Inv s) (hf : f ∈ s.link.queue) : Inv (attemptVoid f s) := by
  unfold attemptVoid
  split
  · exact inv_attemptNotTaken h
  · split
    · next hv =>
      exact inv_attemptNotTaken (inv_updateFrame h hf (fun _ => rfl) (fun _ => rfl)
        ⟨Nat.le_of_lt_succ hv, (h.link.frames f hf).2.1⟩)
    · exact inv_ownFrameDropped (inv_setLinkError (inv_removeFrame h))

@[simp] theorem inv_pendingActs {s : State} (h : Inv s) : Inv (pendingActs s) := by
  unfold pendingActs
  split
  · exact h
  · split
    · exact inv_attemptNotTaken (inv_clearWire h)
    · exact h

theorem inv_farewellAttempt {f : QueuedFrame} {g : Bool} {s : State} (h : Inv s) (hf : f ∈ s.link.queue) :
    Inv (farewellAttempt f g s) := by
  unfold farewellAttempt
  split
  · exact inv_farewellChecked (inv_removeFrame h)
  · next hv =>
    simp only [Bool.or_eq_true, decide_eq_true_eq, not_or] at hv
    exact inv_updateFrame h hf (fun _ => rfl) (fun _ => rfl)
      ⟨Nat.le_of_lt_succ (Nat.lt_of_not_le hv.2), (h.link.frames f hf).2.1⟩

@[simp] theorem inv_attemptEnds {k : AttemptEnd} {s : State} (h : Inv s) : Inv (attemptEnds k s) := by
  unfold attemptEnds
  split
  · exact h
  · exact inv_farewellChecked (inv_clearWire h)
  · next w f _ hf =>
    have hm : f ∈ (clearWire s).link.queue := show f ∈ s.link.queue from wireFrame_mem hf
    split
    · exact inv_farewellAttempt (inv_clearWire h) hm
    · split
      · exact inv_loseLink (inv_pendingActs h)
      · split
        · exact inv_ownFrameTaken (inv_removeFrame (inv_clearWire h))
        · exact inv_attemptVoid (inv_clearWire h) hm

/-! ### The end of a farewell, frames of other stations -/

@[simp] theorem inv_endFarewell {s : State} (h : Inv s) : Inv (endFarewell s) where
  port := h.port
  store := h.store
  link := linkOk_empty
  roster := h.roster
  fits := h.fits
  tickets := h.tickets
  sweep := h.sweep
  hits := h.hits

theorem onLine_takes {s : State} (h : s.onLine = true) : takesFrames s.link.state := by
  simp only [State.onLine, Bool.and_eq_true, Bool.or_eq_true, beq_iff_eq] at h
  rcases h.1 with h | h <;> simp [takesFrames, h]

theorem not_own {s : State} {n : Station} (h : ¬ s.isOwn n = true) : s.store.station ≠ some n := by
  simpa [State.isOwn] using h

@[simp] theorem inv_driveSlot {k : Bool} {s : State} (h : Inv s) : Inv (driveSlot k s) := by
  unfold driveSlot
  split
  · exact inv_updLink_fields h rfl rfl rfl rfl rfl
  · exact h

@[simp] theorem inv_ownNumberHeard {s : State} (h : Inv s) : Inv (ownNumberHeard s) := by
  unfold ownNumberHeard
  split
  · exact inv_clearWire (inv_endFarewell h)
  · split
    · exact inv_clash h
    · split
      · exact inv_clash h
      · exact h

@[simp] theorem inv_frameTaken {n : Station} {b : FrameBody} {s : State} (h : Inv s) : Inv (frameTaken n b s) := by
  replace h := inv_driveSlot (k := frameFits n b) h
  unfold frameTaken
  dsimp only
  split
  · exact inv_ownNumberHeard h
  · next ho =>
    split
    · next hc =>
      simp only [Bool.and_eq_true] at hc
      exact inv_handOn h hc.2 (not_own fun hx => ho (Bool.and_eq_true_iff.2 ⟨hc.2, hx⟩)) (onLine_takes hc.1.1)
    · exact h

theorem enterJoining_state (s : State) : (enterJoining s).link.state = .joining := by
  have hq : ∀ (t : Trunk) (o : Bool) (r : State), (queueTrunkNotice t o r).link.state = r.link.state := by
    intro t o r
    have hl : ∀ e r, (setLinkError e).link.state = r → e.link.state = r := by
      intro e r; unfold setLinkError; split <;> simp [State.updLink]
    have ht : ∀ (f : QueuedFrame) (r : State), (tellDroppedFrame f r).link = r.link := by
      intro f r
      unfold tellDroppedFrame tellDropped failHandover
      repeat' split
      all_goals simp [State.updTickets]
    unfold queueTrunkNotice offerNotice holdFrame
    split
    · split
      · rfl
      · split
        · rfl
        · split
          · rfl
          · rw [ht]
            unfold setLinkError
            split <;> simp [State.updLink]
    · rfl
  have hf : ∀ (l : List Trunk) (r : State), (l.foldl
      (fun r t => if (r.trunkEntry t).declaredBy = some .self then queueTrunkNotice t true r else r) r).link.state =
      r.link.state := by
    intro l
    induction l with
    | nil => intro r; rfl
    | cons t l ih =>
      intro r
      rw [List.foldl_cons, ih]
      split
      · exact hq _ _ _
      · rfl
  unfold enterJoining
  dsimp only
  rw [announceTrunks, hf]
  unfold emitIfChanged emitLinkState
  split <;> simp only [State.updTickets, emit_link, emit_store, servePresence_state, servePresence_store] <;> rfl

theorem enterJoining_store (s : State) : (enterJoining s).store = s.store := by
  have hq : ∀ (t : Trunk) (o : Bool) (r : State), (queueTrunkNotice t o r).store = r.store := by
    intro t o r
    have ht : ∀ (f : QueuedFrame) (r : State), (tellDroppedFrame f r).store = r.store := by
      intro f r
      unfold tellDroppedFrame tellDropped failHandover
      repeat' split
      all_goals simp [State.updTickets]
    unfold queueTrunkNotice offerNotice holdFrame
    split
    · split
      · rfl
      · split
        · rfl
        · split
          · rfl
          · rw [ht]
            unfold setLinkError
            split <;> simp [State.updLink]
    · rfl
  have hf : ∀ (l : List Trunk) (r : State), (l.foldl
      (fun r t => if (r.trunkEntry t).declaredBy = some .self then queueTrunkNotice t true r else r) r).store =
      r.store := by
    intro l
    induction l with
    | nil => intro r; rfl
    | cons t l ih =>
      intro r
      rw [List.foldl_cons, ih]
      split
      · exact hq _ _ _
      · rfl
  unfold enterJoining
  dsimp only
  rw [announceTrunks, hf]
  unfold emitIfChanged emitLinkState
  split <;> simp only [State.updTickets, emit_link, emit_store, servePresence_state, servePresence_store] <;> rfl

@[simp] theorem inv_lostFrame {n : Station} {b : FrameBody} {s : State} (h : Inv s) : Inv (lostFrame n b s) := by
  unfold lostFrame
  split
  · next hc =>
    split
    · exact inv_clash h
    · next ho =>
      split
      · refine inv_handOn (inv_enterJoining h) hc.2.2 ?_ ?_
        · rw [enterJoining_store]; exact not_own ho
        · rw [enterJoining_state]; simp [takesFrames]
      · exact h
  · exact h

/-! ### The soft reset -/

theorem farewellSet_urgent (s : State) : ∀ b ∈ farewellSet s, urgencyOf b = 0 := by
  have h1 : ∀ r : ChannelRecord, ∀ b ∈ farewellRelease r, urgencyOf b = 0 := by
    intro r b hb
    unfold farewellRelease at hb
    split at hb
    · rw [List.mem_singleton.1 hb]; rfl
    · cases hb
  have h2 : ∀ r : ChannelRecord, ∀ b ∈ farewellClears r, urgencyOf b = 0 := by
    intro r b hb
    obtain ⟨k, _, rfl⟩ := List.mem_map.1 hb
    rfl
  have h3 : ∀ r : ChannelRecord, ∀ b ∈ farewellQuietEnd r, urgencyOf b = 0 := by
    intro r b hb
    obtain ⟨k, _, rfl⟩ := List.mem_map.1 hb
    rfl
  intro b hb
  simp only [farewellSet, List.mem_append] at hb
  rcases hb with ((((hb | hb) | hb) | hb) | hb) | hb
  · exact h1 _ b hb
  · exact h1 _ b hb
  · exact h2 _ b hb
  · exact h2 _ b hb
  · exact h3 _ b hb
  · exact h3 _ b hb

theorem inv_urgentFold : ∀ (l : List FrameBody) (s : State), (∀ b ∈ l, urgencyOf b = 0) → Inv s →
    Inv (l.foldl (fun r b => offerUrgent b none r) s)
  | [], _, _, h => h
  | b :: l, _, hb, h =>
    inv_urgentFold l _ (fun c hc => hb c (List.mem_cons_of_mem _ hc)) (inv_offerUrgent (hb b List.mem_cons_self) h)

@[simp] theorem inv_takeSoftReset {s : State} (h : Inv s) : Inv (takeSoftReset s) := by
  unfold takeSoftReset
  dsimp only
  refine inv_urgentFold _ _ (fun b hb => ?_) ?_
  · split at hb
    · exact farewellSet_urgent s b hb
    · cases hb
  · exact
      { port := ⟨h.port.general, h.port.completions, h.port.named, h.port.lost⟩
        store := h.store
        link := linkOk_of_fields (l := emptyLink s.link) linkOk_empty rfl rfl rfl rfl
        roster := h.roster
        fits := ⟨h.fits.foreign, h.fits.onLine⟩
        tickets := h.tickets
        sweep := h.sweep
        hits := h.hits }

theorem storeOk_initial : StoreOk Store.initial where
  blocks e he b hb := by
    simp only [Store.initial, Vector.toList_replicate] at he
    rw [List.eq_of_mem_replicate he] at hb
    cases hb
  trunks e he := by
    simp only [Store.initial, Vector.toList_replicate] at he
    rw [List.eq_of_mem_replicate he]
    constructor <;> simp [TrunkEntry.initial]
  thresholds := by constructor <;> decide
  clock := Nat.zero_le _
  station _ hn := nomatch hn

theorem storeOk_reset {k : Bool} {r : Store} (h : StoreOk r) : StoreOk (resetStore k r) := by
  unfold resetStore
  split
  · exact h
  · refine { storeOk_initial with trunks := fun e he => ?_, clock := h.clock }
    rw [Vector.toList_map] at he
    obtain ⟨x, hx, rfl⟩ := List.mem_map.1 he
    have := h.trunks x hx
    exact ⟨this.declared, this.inService, this.suspect, this.streak, Nat.zero_le _, Nat.zero_le _⟩

theorem linkOk_initial (n : Nat) (st : LinkState) : LinkOk { Link.initial with state := st, nextEntry := n } where
  slots := Nat.zero_le _
  low := Nat.zero_le _
  frames _ hf := nomatch hf
  order := List.Pairwise.nil
  holding := Nat.zero_le _
  waiting _ hf := nomatch hf

theorem inv_softResetValues {k : Bool} {s : State} (h : Inv s) : Inv (softResetValues k s) where
  port := ⟨Nat.zero_le _, fun _ => Nat.zero_le _, fun _ he => (nomatch he), Nat.zero_le _⟩
  store := storeOk_reset h.store
  link := linkOk_initial _ _
  roster := ⟨List.Pairwise.nil, fun _ hp => (nomatch hp)⟩
  fits := ⟨fun _ hp => (nomatch hp), fun _ => rfl⟩
  tickets := ticketsOk_releaseAllNotes (ticketsOk_returnHandovers (ticketsOk_noIndex h.tickets))
  sweep _ hw := nomatch hw
  hits := Nat.zero_le _

@[simp] theorem inv_softResetEnds {k : Bool} {s : State} (h : Inv s) : Inv (softResetEnds k s) := by
  have hv := inv_softResetValues (k := k) h
  unfold softResetEnds
  dsimp only
  split
  · exact inv_enterJoining hv
  · refine inv_emitIfChanged { hv with link := linkOk_of_fields hv.link rfl rfl rfl rfl, fits := ?_ }
    exact ⟨fun _ hp => (nomatch hp), fun _ => rfl⟩

/-! ### CONFIGURE -/

/-- A station number in its range, chosen while the roster is or will be empty (R88, R208). -/
theorem inv_configureStore {s : State} {f : Store → Store} (h : Inv s) (hf : StoreOk s.store → StoreOk (f s.store)) :
    Inv { s.updStore f with roster := [] } :=
  { h with
    store := hf h.store
    roster := ⟨List.Pairwise.nil, fun _ hp => (nomatch hp)⟩
    fits := ⟨fun _ hp => (nomatch hp), fun _ => rfl⟩ }

theorem emptyView_roster (s : State) : emptyView { s with roster := [] } = emptyView s := rfl

@[simp] theorem inv_configureLink {k : Bool} {s : State} (h : Inv { s with roster := [] })
    (hr : s.link.state = .off ∨ s.link.state = .mute ∨ s.link.state = .lost → s.roster = []) :
    Inv (configureLink k s) := by
  have he : Inv (enterJoining (dropQuiets (emptyView s))) :=
    inv_enterJoining (inv_dropQuiets.2 (by rw [← emptyView_roster]; exact inv_emptyView h))
  have hs : s.roster = [] → Inv s := fun hx => by
    have : s = { s with roster := [] } := by rw [← hx]
    rw [this]; exact h
  unfold configureLink
  split
  · next hc => exact inv_enterJoining (hs (hr (Or.inl hc)))
  · next hc =>
    have := hs (hr (Or.inr (Or.inl hc)))
    split
    · exact inv_enterJoining this
    · exact this
  · exact he
  · exact he
  · exact he

/-! ### The console commands -/

theorem inv_configured {k : Bool} {f : Store → Store} {s : State} (h : Inv s)
    (hf : StoreOk s.store → StoreOk (f s.store)) : Inv (configureLink k (haltEngine (dropItem (s.updStore f)))) :=
  inv_configureLink
    (inv_of_fields (s := { s.updStore f with roster := [] }) rfl rfl rfl rfl rfl rfl rfl (inv_configureStore h hf))
    h.fits.onLine

theorem inv_takeConfigure {n : Nat} {a : AutoChannelArg} {l : Bool} {s : State} (h : Inv s) :
    Inv (takeConfigure n a l s).2 := by
  unfold takeConfigure
  split
  · exact h
  · next hn =>
    split
    · exact h
    · split
      · exact h
      · split
        · exact h
        · dsimp only
          have hst : 1 ≤ n ∧ n ≤ 15 := by simp [stationOk] at hn; omega
          refine inv_configured h fun hs => ⟨hs.blocks, hs.trunks, hs.thresholds, hs.clock, fun m hm => ?_⟩
          injection hm with hm
          exact hm ▸ hst

theorem clampNat_range {lo hi v : Nat} (h : lo ≤ hi) : lo ≤ clampNat lo hi v ∧ clampNat lo hi v ≤ hi := by
  unfold clampNat; omega

theorem firstCopies_nodup : ∀ l : List Trunk, (firstCopies l).Nodup
  | [] => List.nodup_nil
  | t :: l => by
    rw [firstCopies, List.nodup_cons]
    exact ⟨by simp, List.filter_sublist.nodup (firstCopies_nodup l)⟩

theorem firstCopies_length : ∀ l : List Trunk, (firstCopies l).length ≤ l.length
  | [] => Nat.zero_le _
  | t :: l => by
    rw [firstCopies, List.length_cons, List.length_cons]
    exact Nat.succ_le_succ (Nat.le_trans (List.length_filter_le _ _) (firstCopies_length l))

theorem blockOk_make {l : List Trunk} {k : BlockConstants} (h : 1 ≤ l.length ∧ l.length ≤ 4) :
    BlockOk (makeBlockEntry l k) where
  some_ := by
    cases l with
    | nil => exact absurd h.1 (by simp)
    | cons t l => simp [makeBlockEntry, firstCopies]
  four := Nat.le_trans (firstCopies_length l) h.2
  distinct := firstCopies_nodup l
  rpc := clampNat_range (by decide)
  cpk := clampNat_range (by decide)
  setupWait := (clampNat_range (by decide)).2
  operateWait := clampNat_range (by decide)
  releaseGuard := (clampNat_range (by decide)).2
  minLength := (clampNat_range (by decide)).2
  settlePerKm := (clampNat_range (by decide)).2

theorem loadedEntry_ok {f : LoadBlockForm} {e : Option BlockEntry} (h : loadedEntry f = some e) :
    ∀ b, e = some b → BlockOk b := by
  intro b hb
  subst hb
  unfold loadedEntry at h
  split at h
  · cases h
  · split at h
    · split at h
      · next hl => injection h with h; injection h with h; exact h ▸ blockOk_make hl
      · cases h
    · cases h
  · split at h
    · split at h
      · next hl => injection h with h; injection h with h; exact h ▸ blockOk_make hl
      · cases h
    · cases h

theorem inv_setBlock {b : Block} {e : Option BlockEntry} {s : State} (h : Inv s) (he : ∀ x, e = some x → BlockOk x) :
    Inv (s.setBlock b e) := by
  refine inv_updStore h (fun hs => { hs with blocks := fun x hx y hy => ?_ }) rfl
  simp only [Vector.toList_set] at hx
  rcases List.mem_or_eq_of_mem_set hx with hx | rfl
  · exact hs.blocks x hx y hy
  · exact he y hy

theorem thresholdsOk_clamp (t : Thresholds) : ThresholdsOk (clampThresholds t) where
  rshort := clampNat_range (by decide)
  rground := clampNat_range (by decide)
  rinsul := clampNat_range (by decide)
  vdcLimit := clampNat_range (by decide)
  vacLimit := clampNat_range (by decide)
  longLoop := (clampNat_range (by decide)).2
  sampleCount := clampNat_range (by decide)

theorem inv_takeLoadBlock {b : Nat} {f : LoadBlockForm} {s : State} (h : Inv s) : Inv (takeLoadBlock b f s).2 := by
  unfold takeLoadBlock
  split
  · exact h
  · split
    · split
      · exact h
      · next he =>
        split
        · exact h
        · exact inv_setBlock h (loadedEntry_ok he)
    · exact h

theorem inv_takeLoadTrunk {t r k : Nat} {s : State} (h : Inv s) : Inv (takeLoadTrunk t r k s).2 := by
  unfold takeLoadTrunk
  split
  · exact h
  · split
    · dsimp only
      have := storeOk_trunk h
      exact inv_setTrunk h ⟨(this _).declared, (this _).inService, (this _).suspect, (this _).streak,
        (clampNat_range (by decide)).2, (clampNat_range (by decide)).2⟩
    · exact h

theorem inv_takeTicketOpen {l : Line} {k : Option FaultClass} {s : State} (h : Inv s) :
    Inv (takeTicketOpen l k s).2 := by
  unfold takeTicketOpen
  split
  · exact h
  · split
    · exact h
    · next hk =>
      split
      · exact h
      · split
        · exact h
        · exact h
        · next hl hi =>
          split
          · next hr =>
            exact inv_updTickets h fun hts => ticketsOk_addTicket hts hr (l := l) (fun _ => rfl) (fun _ => rfl)
              (fun _ => ticketOk_openedTicket (by simpa using hk) (by simp)) (byLine_none hl) (indexFor_none hi)
          · exact h

theorem inv_takeTicketClose {n : TicketNo} {s : State} (h : Inv s) : Inv (takeTicketClose n s).2 := by
  unfold takeTicketClose
  split
  · exact h
  · split
    · exact h
    · dsimp only [accepted]
      refine inv_updTickets h fun hk => ticketsOk_remove ?_ _
      split
      · exact ticketsOk_addClosedNote hk _
      · exact hk

theorem ticketOk_planned {i k d : Nat} {t : Ticket} (h : TicketOk t) (hi : 1 ≤ i ∧ i ≤ 240) (hk : k ≤ 15) :
    TicketOk (planned i k d t) := by
  unfold planned
  split
  · exact { cls := h.cls, observations := h.observations, streak := h.streak, offered := fun hx => (nomatch hx),
            planned := by simp, plan := fun _ hx => (nomatch hx) }
  · refine { cls := h.cls, observations := h.observations, streak := Nat.zero_le _,
             offered := fun hx => (nomatch hx), planned := by simp, plan := fun p hp => ?_ }
    injection hp with hp
    subst hp
    exact ⟨hi.1, hi.2, Nat.pos_of_ne_zero (by assumption), hk⟩

theorem inv_takeTicketRetest {n : TicketNo} {i k : Nat} {s : State} (h : Inv s) :
    Inv (takeTicketRetest n i k s).2 := by
  unfold takeTicketRetest
  split
  · exact h
  · next t ht =>
    have hm := byNumber_mem ht
    split
    · exact h
    · next hs =>
      dsimp only
      refine inv_setTicket h ?_ ?_ (ticketOk_planned (h.tickets.tickets t hm.1) (clampNat_range (by decide))
        (clampNat_range (by decide)).2)
      · unfold planned; split <;> exact hm.2
      · have := numberOnLine_of_byNumber h.tickets ht
        unfold planned; split <;> exact this

theorem ticketOk_offered {n : Station} {m : Nat} {t : Ticket} (h : TicketOk t)
    (hs : t.state = .opened ∨ t.state = .retest) : TicketOk (offered n m t) where
  cls := h.cls
  observations := h.observations
  streak := h.streak
  offered _ := rfl
  planned := by
    have := h.planned
    rcases hs with hs | hs <;> simpa [offered, hs] using this
  plan := h.plan

theorem inv_takeTicketHandover {n : TicketNo} {m : Nat} {s : State} (h : Inv s) :
    Inv (takeTicketHandover n m s).2 := by
  unfold takeTicketHandover
  split
  · exact h
  · split
    · exact h
    · next t ht =>
      split
      · exact h
      · split
        · exact h
        · split
          · exact h
          · next hs =>
            split
            · exact h
            · refine inv_offerNotice (inv_updTickets h fun hk => ticketsOk_map hk ?_ ?_ ?_) <;> intro u hu <;> split
              · rfl
              · rfl
              · rfl
              · rfl
              · next e =>
                have hut : u = t := same_of_key hk.numbers hu (byNumber_mem ht).1
                  (e.trans (byNumber_mem ht).2.symm)
                subst hut
                refine fun hok => ticketOk_offered hok ?_
                cases hc : u.state <;> simp [hc] at hs ⊢
              · exact id

theorem inv_takeSweepStart {f l : Line} {g : StageSet} {n : SampleArg} {s : State} (h : Inv s) :
    Inv (takeSweepStart f l g n s).2 := by
  unfold takeSweepStart
  repeat' split
  all_goals first
    | exact h
    | (dsimp only
       refine inv_updAuto_sweep h fun w hw => ?_
       injection hw with hw
       subst hw
       exact ⟨Nat.zero_le _, List.nodup_nil, Nat.zero_le _, Nat.zero_le _, Nat.zero_le _⟩)

theorem inv_startEngine {r : RunState} {s : State} (h : Inv s) : Inv (startEngine r s).2 := by
  unfold startEngine
  split
  · exact h
  · split
    · exact h
    · simpa [accepted] using h

theorem inv_takeRun {s : State} (h : Inv s) : Inv (takeRun s).2 := by
  unfold takeRun
  split
  · exact h
  · split
    · exact h
    · exact inv_startEngine h

theorem inv_takeStop {s : State} (h : Inv s) : Inv (takeStop s).2 := by
  unfold takeStop
  split
  · split
    · simpa [accepted] using h
    · simpa [accepted] using h
  · unfold stopFrozen
    dsimp only [accepted]
    split
    · exact inv_leaveFrozen h
    · simpa using h
  · exact h

theorem inv_takeStep {s : State} (h : Inv s) : Inv (takeStep s).2 := by
  unfold takeStep
  split
  · split
    · exact h
    · exact inv_startEngine h
  · exact inv_leaveFrozen h
  · exact h

theorem inv_takeContinue {s : State} (h : Inv s) : Inv (takeContinue s).2 := by
  unfold takeContinue
  split
  · exact inv_leaveFrozen h
  · exact h

theorem inv_takeAbort {s : State} (h : Inv s) : Inv (takeAbort s).2 := by
  unfold takeAbort
  split
  · exact h
  · dsimp only [accepted]
    unfold abortItem
    split
    · split
      · dsimp only
        split
        · simpa using h
        · exact inv_cancelSession (by simpa using h)
      · simpa using h
    · simpa using h

theorem inv_takeWatchSet {o : Option WatchOp} {l : Line} {f : FilterArg} {s : State} (h : Inv s) :
    Inv (takeWatchSet o l f s).2 := by
  unfold takeWatchSet
  split
  · exact h
  · exact h
  · exact inv_watch h (Nat.zero_le _)

theorem inv_takeAccess {c : Option Channel} {l : Line} {f : Bool} {s : State} (h : Inv s) :
    Inv (takeAccess c l f s).2 := by
  unfold takeAccess
  split
  · exact h
  · unfold takeAccessOn
    repeat' split
    all_goals first
      | exact h
      | (next hc => exact inv_setCommand.2 (inv_beginSession h (checkClaim_room hc)))

theorem inv_takeReleaseCommand {c : Option Channel} {s : State} (h : Inv s) : Inv (takeReleaseCommand c s).2 := by
  unfold takeReleaseCommand
  split
  · exact h
  · dsimp only
    repeat' split
    all_goals first
      | exact h
      | exact inv_enterReleasing (by simpa using h)

theorem inv_takeCancel {c : Option Channel} {s : State} (h : Inv s) : Inv (takeCancel c s).2 := by
  unfold takeCancel
  split
  · exact h
  · split
    · exact h
    · split
      · exact h
      · dsimp only [accepted]
        unfold cancelCommand
        split
        · split
          · exact h
          · exact inv_cancelSession h
        · split
          · exact inv_cutMeasurement h
          · exact h
        · exact h

theorem inv_takeMeasure {c : Option Channel} {g : StageSet} {n : SampleArg} {t : Bool} {s : State} (h : Inv s) :
    Inv (takeMeasure c g n t s).2 := by
  unfold takeMeasure
  split
  · exact h
  · dsimp only
    repeat' split
    all_goals first
      | exact h
      | simpa using h

theorem inv_takeUnlock {s : State} (h : Inv s) : Inv (takeUnlock s).2 := by
  unfold takeUnlock
  split
  · dsimp only [accepted]
    exact inv_updStore h (fun hs => ⟨hs.blocks, hs.trunks, hs.thresholds, hs.clock, hs.station⟩) rfl
  · exact h

theorem inv_takeSetThresholds {t : Thresholds} {s : State} (h : Inv s) : Inv (takeSetThresholds t s).2 := by
  unfold takeSetThresholds
  split
  · exact h
  · dsimp only
    exact inv_updStore h (fun hs => ⟨hs.blocks, hs.trunks, thresholdsOk_clamp t, hs.clock, hs.station⟩) rfl

theorem inv_takeSetClock {v : Nat} {s : State} (h : Inv s) : Inv (takeSetClock v s).2 := by
  unfold takeSetClock
  dsimp only [accepted]
  exact inv_updStore h
    (fun hs => ⟨hs.blocks, hs.trunks, hs.thresholds, (clampNat_range (Nat.zero_le _)).2, hs.station⟩) rfl

theorem inv_takeTrunkRestore {t : Nat} {s : State} (h : Inv s) : Inv (takeTrunkRestore t s).2 := by
  unfold takeTrunkRestore
  split
  · exact inv_restoreTrunk h
  · exact h

theorem inv_takeSessionRead {c : Option Channel} {s : State} (h : Inv s) : Inv (takeSessionRead c s).2 := by
  unfold takeSessionRead; split <;> exact h

theorem inv_takeResultRead {c : Option Channel} {s : State} (h : Inv s) : Inv (takeResultRead c s).2 := by
  unfold takeResultRead; split <;> exact h

theorem inv_takeClearLinkStatus {s : State} (h : Inv s) : Inv (takeClearLinkStatus s).2 := by
  unfold takeClearLinkStatus
  dsimp only [accepted]
  exact inv_updLink_fields h rfl rfl rfl rfl rfl

theorem inv_takeRejoin {s : State} (h : Inv s) : Inv (takeRejoin s).2 := by
  unfold takeRejoin
  split
  · dsimp only [accepted]
    exact inv_enterJoining h
  · exact h

theorem inv_takeTicketRead {n : TicketNo} {s : State} (h : Inv s) : Inv (takeTicketRead n s).2 := by
  unfold takeTicketRead; split <;> exact h

theorem inv_takeTicketList {n : TicketNo} {s : State} (h : Inv s) : Inv (takeTicketList n s).2 := by
  unfold takeTicketList
  split
  · exact h
  · split <;> exact h

theorem inv_takeTakeEvent {s : State} (h : Inv s) : Inv (takeTakeEvent s).2 := by
  unfold takeTakeEvent
  split
  · exact h
  · next he =>
    dsimp only
    exact inv_updPort h fun hp => portOk_tail hp he

theorem inv_takeSetMask {m : Mask} {s : State} (h : Inv s) : Inv (takeSetMask m s).2 := by
  unfold takeSetMask
  dsimp only
  exact inv_updPort_phase h rfl rfl

/-- Every command taken keeps `Inv`. -/
theorem inv_takeRequest {r : Request} {s : State} (h : Inv s) : Inv (takeRequest r s).2 := by
  cases r
  case configure => exact inv_takeConfigure h
  case unlock => exact inv_takeUnlock h
  case loadBlock => exact inv_takeLoadBlock h
  case loadTrunk => exact inv_takeLoadTrunk h
  case setThresholds => exact inv_takeSetThresholds h
  case setClock => exact inv_takeSetClock h
  case trunkRestore => exact inv_takeTrunkRestore h
  case access => exact inv_takeAccess h
  case release => exact inv_takeReleaseCommand h
  case cancel => exact inv_takeCancel h
  case sessionRead => exact inv_takeSessionRead h
  case measure => exact inv_takeMeasure h
  case resultRead => exact inv_takeResultRead h
  case clearLinkStatus => exact inv_takeClearLinkStatus h
  case rejoin => exact inv_takeRejoin h
  case ticketOpen => exact inv_takeTicketOpen h
  case ticketClose => exact inv_takeTicketClose h
  case ticketRetest => exact inv_takeTicketRetest h
  case ticketRead => exact inv_takeTicketRead h
  case ticketList => exact inv_takeTicketList h
  case ticketHandover => exact inv_takeTicketHandover h
  case sweepStart => exact inv_takeSweepStart h
  case run => exact inv_takeRun h
  case stop => exact inv_takeStop h
  case step => exact inv_takeStep h
  case continueRun => exact inv_takeContinue h
  case abort => exact inv_takeAbort h
  case watchSet => exact inv_takeWatchSet h
  case watchRead => exact h
  case takeEvent => exact inv_takeTakeEvent h
  case statusDetail => exact h
  case setMask => exact inv_takeSetMask h
  case softReset => exact h

end Sys2Proof.Machine
end

