-- ==== Sys2Proof/Laws/Rows.lean ====
section
/-! SUPPORT. One lemma per row: the state it leaves keeps `Inv`. -/

namespace Sys2Proof.Machine

theorem inv_execPortByteWrite {byte : Byte} {s t : State} (h : Inv s)
    (ht : execPortByteWrite byte s = .next t) : Inv t := by
  injection ht with ht
  subst ht
  have hp : ∀ f : Port → Port, (f s.port).events = s.port.events → (f s.port).lost = s.port.lost →
      Inv (s.updPort f) := fun f => inv_updPort_phase h
  have hl : ∀ k a, Inv (lastByteWritten k a s) := by
    intro k a
    unfold lastByteWritten
    split
    · unfold takeInWorking
      split
      · exact inv_takeSoftReset h
      · exact inv_holdResult (inv_takeRequest h)
    · exact inv_holdResult h
    · exact inv_holdResult h
  split
  · exact h
  · unfold commandByte; split
    · exact inv_holdResult h
    · exact hp _ rfl rfl
  · unfold countByte; split
    · exact h
    · split
      · exact hl _ _
      · exact hp _ rfl rfl
  · unfold argumentByte; split
    · exact h
    · split
      · exact hl _ _
      · exact hp _ rfl rfl
  · exact h
  · exact h

theorem inv_execResultByteRead {s t : State} (h : Inv s)
    (ht : execResultByteRead s = .next t) : Inv t := by
  injection ht with ht
  subst ht
  unfold readByte
  split
  · split <;> exact inv_updPort_phase h rfl rfl
  · exact inv_updPort_phase h rfl rfl

theorem inv_execPortClear {byte : Byte} {s t : State} (h : Inv s)
    (ht : execPortClear byte s = .next t) : Inv t := by
  injection ht with ht
  subst ht
  split
  · exact h
  · exact inv_updPort_phase h rfl rfl

theorem inv_execConfigure {station : Nat} {auto : AutoChannelArg} {lock : Bool} {s t : State} (h : Inv s)
    (ht : execConfigure station auto lock s = .next t) : Inv t := by
  injection ht with ht
  subst ht
  exact inv_commandPhase h (inv_takeRequest (r := .configure station auto lock) h)

theorem inv_execUnlock {s t : State} (h : Inv s)
    (ht : execUnlock s = .next t) : Inv t := by
  injection ht with ht
  subst ht
  exact inv_commandPhase h (inv_takeRequest (r := .unlock) h)

theorem inv_execLoadBlock {block : Nat} {form : LoadBlockForm} {s t : State} (h : Inv s)
    (ht : execLoadBlock block form s = .next t) : Inv t := by
  injection ht with ht
  subst ht
  exact inv_commandPhase h (inv_takeRequest (r := .loadBlock block form) h)

theorem inv_execLoadTrunk {trunk rtrunk ctrunk : Nat} {s t : State} (h : Inv s)
    (ht : execLoadTrunk trunk rtrunk ctrunk s = .next t) : Inv t := by
  injection ht with ht
  subst ht
  exact inv_commandPhase h (inv_takeRequest (r := .loadTrunk trunk rtrunk ctrunk) h)

theorem inv_execSetThresholds {k : Thresholds} {s t : State} (h : Inv s)
    (ht : execSetThresholds k s = .next t) : Inv t := by
  injection ht with ht
  subst ht
  exact inv_commandPhase h (inv_takeRequest (r := .setThresholds k) h)

theorem inv_execSetClock {value : Nat} {s t : State} (h : Inv s)
    (ht : execSetClock value s = .next t) : Inv t := by
  injection ht with ht
  subst ht
  exact inv_commandPhase h (inv_takeRequest (r := .setClock value) h)

theorem inv_execTrunkRestore {trunk : Nat} {s t : State} (h : Inv s)
    (ht : execTrunkRestore trunk s = .next t) : Inv t := by
  injection ht with ht
  subst ht
  exact inv_commandPhase h (inv_takeRequest (r := .trunkRestore trunk) h)

theorem inv_execAccess {channel : Option Channel} {line : Line} {force : Bool} {s t : State} (h : Inv s)
    (ht : execAccess channel line force s = .next t) : Inv t := by
  injection ht with ht
  subst ht
  exact inv_commandPhase h (inv_takeRequest (r := .access channel line force) h)

theorem inv_execRelease {channel : Option Channel} {s t : State} (h : Inv s)
    (ht : execRelease channel s = .next t) : Inv t := by
  injection ht with ht
  subst ht
  exact inv_commandPhase h (inv_takeRequest (r := .release channel) h)

theorem inv_execCancel {channel : Option Channel} {s t : State} (h : Inv s)
    (ht : execCancel channel s = .next t) : Inv t := by
  injection ht with ht
  subst ht
  exact inv_commandPhase h (inv_takeRequest (r := .cancel channel) h)

theorem inv_execSessionRead {channel : Option Channel} {s t : State} (h : Inv s)
    (ht : execSessionRead channel s = .next t) : Inv t := by
  injection ht with ht
  subst ht
  exact inv_commandPhase h (inv_takeRequest (r := .sessionRead channel) h)

theorem inv_execMeasure {channel : Option Channel} {stages : StageSet} {n : SampleArg} {ticket : Bool}
    {s t : State} (h : Inv s) (ht : execMeasure channel stages n ticket s = .next t) : Inv t := by
  injection ht with ht
  subst ht
  exact inv_commandPhase h (inv_takeRequest (r := .measure channel stages n ticket) h)

theorem inv_execResultRead {channel : Option Channel} {s t : State} (h : Inv s)
    (ht : execResultRead channel s = .next t) : Inv t := by
  injection ht with ht
  subst ht
  exact inv_commandPhase h (inv_takeRequest (r := .resultRead channel) h)

theorem inv_execClearLinkStatus {s t : State} (h : Inv s)
    (ht : execClearLinkStatus s = .next t) : Inv t := by
  injection ht with ht
  subst ht
  exact inv_commandPhase h (inv_takeRequest (r := .clearLinkStatus) h)

theorem inv_execRejoin {s t : State} (h : Inv s)
    (ht : execRejoin s = .next t) : Inv t := by
  injection ht with ht
  subst ht
  exact inv_commandPhase h (inv_takeRequest (r := .rejoin) h)

theorem inv_execTicketOpen {line : Line} {cls : Option FaultClass} {s t : State} (h : Inv s)
    (ht : execTicketOpen line cls s = .next t) : Inv t := by
  injection ht with ht
  subst ht
  exact inv_commandPhase h (inv_takeRequest (r := .ticketOpen line cls) h)

theorem inv_execTicketClose {number : TicketNo} {s t : State} (h : Inv s)
    (ht : execTicketClose number s = .next t) : Inv t := by
  injection ht with ht
  subst ht
  exact inv_commandPhase h (inv_takeRequest (r := .ticketClose number) h)

theorem inv_execTicketRetest {number : TicketNo} {interval count : Nat} {s t : State} (h : Inv s)
    (ht : execTicketRetest number interval count s = .next t) : Inv t := by
  injection ht with ht
  subst ht
  exact inv_commandPhase h (inv_takeRequest (r := .ticketRetest number interval count) h)

theorem inv_execTicketRead {number : TicketNo} {s t : State} (h : Inv s)
    (ht : execTicketRead number s = .next t) : Inv t := by
  injection ht with ht
  subst ht
  exact inv_commandPhase h (inv_takeRequest (r := .ticketRead number) h)

theorem inv_execTicketList {number : TicketNo} {s t : State} (h : Inv s)
    (ht : execTicketList number s = .next t) : Inv t := by
  injection ht with ht
  subst ht
  exact inv_commandPhase h (inv_takeRequest (r := .ticketList number) h)

theorem inv_execTicketHandover {number : TicketNo} {station : Nat} {s t : State} (h : Inv s)
    (ht : execTicketHandover number station s = .next t) : Inv t := by
  injection ht with ht
  subst ht
  exact inv_commandPhase h (inv_takeRequest (r := .ticketHandover number station) h)

theorem inv_execSweepStart {first last : Line} {stages : StageSet} {n : SampleArg} {s t : State} (h : Inv s)
    (ht : execSweepStart first last stages n s = .next t) : Inv t := by
  injection ht with ht
  subst ht
  exact inv_commandPhase h (inv_takeRequest (r := .sweepStart first last stages n) h)

theorem inv_execRun {s t : State} (h : Inv s)
    (ht : execRun s = .next t) : Inv t := by
  injection ht with ht
  subst ht
  exact inv_commandPhase h (inv_takeRequest (r := .run) h)

theorem inv_execStop {s t : State} (h : Inv s)
    (ht : execStop s = .next t) : Inv t := by
  injection ht with ht
  subst ht
  exact inv_commandPhase h (inv_takeRequest (r := .stop) h)

theorem inv_execStep {s t : State} (h : Inv s)
    (ht : execStep s = .next t) : Inv t := by
  injection ht with ht
  subst ht
  exact inv_commandPhase h (inv_takeRequest (r := .step) h)

theorem inv_execContinueRun {s t : State} (h : Inv s)
    (ht : execContinueRun s = .next t) : Inv t := by
  injection ht with ht
  subst ht
  exact inv_commandPhase h (inv_takeRequest (r := .continueRun) h)

theorem inv_execAbort {s t : State} (h : Inv s)
    (ht : execAbort s = .next t) : Inv t := by
  injection ht with ht
  subst ht
  exact inv_commandPhase h (inv_takeRequest (r := .abort) h)

theorem inv_execWatchSet {op : Option WatchOp} {line : Line} {filter : FilterArg} {s t : State} (h : Inv s)
    (ht : execWatchSet op line filter s = .next t) : Inv t := by
  injection ht with ht
  subst ht
  exact inv_commandPhase h (inv_takeRequest (r := .watchSet op line filter) h)

theorem inv_execWatchRead {s t : State} (h : Inv s)
    (ht : execWatchRead s = .next t) : Inv t := by
  injection ht with ht
  subst ht
  exact inv_commandPhase h (inv_takeRequest (r := .watchRead) h)

theorem inv_execTakeEvent {s t : State} (h : Inv s)
    (ht : execTakeEvent s = .next t) : Inv t := by
  injection ht with ht
  subst ht
  exact inv_commandPhase h (inv_takeRequest (r := .takeEvent) h)

theorem inv_execStatusDetail {s t : State} (h : Inv s)
    (ht : execStatusDetail s = .next t) : Inv t := by
  injection ht with ht
  subst ht
  exact inv_commandPhase h (inv_takeRequest (r := .statusDetail) h)

theorem inv_execSetMask {mask : Mask} {s t : State} (h : Inv s)
    (ht : execSetMask mask s = .next t) : Inv t := by
  injection ht with ht
  subst ht
  exact inv_commandPhase h (inv_takeRequest (r := .setMask mask) h)

theorem inv_execSoftReset {s t : State} (h : Inv s)
    (ht : execSoftReset s = .next t) : Inv t := by
  injection ht with ht
  subst ht
  split
  · exact inv_takeSoftReset h
  · exact h

theorem inv_execFarewellLimit {s t : State} (h : Inv s)
    (ht : execFarewellLimit s = .next t) : Inv t := by
  injection ht with ht
  subst ht
  split
  · exact inv_endFarewell h
  · exact h

theorem inv_execSoftResetEnd {s t : State} (h : Inv s)
    (ht : execSoftResetEnd s = .next t) : Inv t := by
  injection ht with ht
  subst ht
  split
  · exact h
  · split
    · exact h
    · exact inv_softResetEnds h

theorem inv_execStartupEnd {s t : State} (h : Inv s)
    (ht : execStartupEnd s = .next t) : Inv t := by
  injection ht with ht
  subst ht
  split
  · exact inv_updPort_phase h rfl rfl
  · exact h

theorem inv_execOfficeClockTick {s t : State} (h : Inv s)
    (ht : execOfficeClockTick s = .next t) : Inv t := by
  injection ht with ht
  subst ht
  split
  · exact h
  · exact inv_updStore h (fun hs => ⟨hs.blocks, hs.trunks, hs.thresholds, Nat.min_le_left _ _, hs.station⟩) rfl

theorem inv_execArbiterChoose {s t : State} (h : Inv s)
    (ht : execArbiterChoose s = .next t) : Inv t := by
  injection ht with ht
  subst ht
  exact inv_arbiterChooses h

theorem inv_execFrameAttemptStart {s t : State} (h : Inv s)
    (ht : execFrameAttemptStart s = .next t) : Inv t := by
  injection ht with ht
  subst ht
  exact inv_attemptStarts h

theorem inv_execArbitrationLoss {s t : State} (h : Inv s)
    (ht : execArbitrationLoss s = .next t) : Inv t := by
  injection ht with ht
  subst ht
  split
  · exact inv_arbitrationLost h
  · exact h

theorem inv_execOwnAttemptEnd {how : AttemptEnd} {s t : State} (h : Inv s)
    (ht : execOwnAttemptEnd how s = .next t) : Inv t := by
  injection ht with ht
  subst ht
  exact inv_attemptEnds h

theorem inv_execUrgentFrameEnters {s t : State} (h : Inv s)
    (ht : execUrgentFrameEnters s = .next t) : Inv t := by
  injection ht with ht
  subst ht
  split
  · exact h
  · next f rest hw =>
    split
    · next hs =>
      have hf : queuedUrgency f.body = 0 := h.link.waiting f (by rw [hw]; exact List.mem_cons_self)
      have hr : Inv (s.updLink fun l => { l with waiting := rest }) :=
        inv_updLink h (fun hl => { hl with
          waiting := fun x hx => hl.waiting x (by rw [hw]; exact List.mem_cons_of_mem _ hx)
          frames := hl.frames }) rfl
      exact inv_enqueue hr hs fun hc => absurd hf hc
    · exact h

theorem inv_execHoldingAreaEnter {s t : State} (h : Inv s)
    (ht : execHoldingAreaEnter s = .next t) : Inv t := by
  injection ht with ht
  subst ht
  split
  · exact h
  · next f rest hw =>
    split
    · next hr =>
      refine inv_enqueue_room (n := 0)
        (inv_updLink h (fun hl => { hl with holding := ?_, frames := hl.frames }) rfl) hr
      have := hl.holding; rw [hw, List.length_cons] at this; exact Nat.le_of_succ_le this
    · exact h

theorem inv_execMarkEntersQueue {s t : State} (h : Inv s)
    (ht : execMarkEntersQueue s = .next t) : Inv t := by
  injection ht with ht
  subst ht
  split
  · exact h
  · split
    · exact inv_servePresence h
    · split
      · next hr => exact inv_enqueue_room h (by simp at hr; exact hr.2)
      · exact h

theorem inv_execQuietRequestQueued {channel : Channel} {s t : State} (h : Inv s)
    (ht : execQuietRequestQueued channel s = .next t) : Inv t := by
  injection ht with ht
  subst ht
  exact inv_serveQuiet h

theorem inv_execClaimTaken {sender : Station} {line : Line} {trunk : Trunk} {purpose : Purpose} {channel : Channel}
    {s t : State} (h : Inv s) (ht : execClaimTaken sender line trunk purpose channel s = .next t) : Inv t := by
  injection ht with ht
  subst ht
  exact inv_frameTaken h

theorem inv_execReleaseFrameTaken {sender : Station} {line : Line} {trunk : Trunk} {s t : State} (h : Inv s)
    (ht : execReleaseFrameTaken sender line trunk s = .next t) : Inv t := by
  injection ht with ht
  subst ht
  exact inv_frameTaken h

theorem inv_execPresenceTaken {sender : Station} {joining : Bool} {holdings : List Holding} {quiets : List Block}
    {s t : State} (h : Inv s) (ht : execPresenceTaken sender joining holdings quiets s = .next t) : Inv t := by
  injection ht with ht
  subst ht
  exact inv_frameTaken h

theorem inv_execQuietTaken {sender : Station} {block : Block} {s t : State} (h : Inv s)
    (ht : execQuietTaken sender block s = .next t) : Inv t := by
  injection ht with ht
  subst ht
  exact inv_frameTaken h

theorem inv_execQuietEndTaken {sender : Station} {block : Block} {s t : State} (h : Inv s)
    (ht : execQuietEndTaken sender block s = .next t) : Inv t := by
  injection ht with ht
  subst ht
  exact inv_frameTaken h

theorem inv_execQuietBusyTaken {sender : Station} {block : Block} {requester : Station} {s t : State} (h : Inv s)
    (ht : execQuietBusyTaken sender block requester s = .next t) : Inv t := by
  injection ht with ht
  subst ht
  exact inv_frameTaken h

theorem inv_execQuietClearTaken {sender : Station} {block : Block} {requester : Station} {s t : State} (h : Inv s)
    (ht : execQuietClearTaken sender block requester s = .next t) : Inv t := by
  injection ht with ht
  subst ht
  exact inv_frameTaken h

theorem inv_execTicketNoteTaken {sender : Station} {entries : List NoteEntry} {s t : State} (h : Inv s)
    (ht : execTicketNoteTaken sender entries s = .next t) : Inv t := by
  injection ht with ht
  subst ht
  exact inv_frameTaken h

theorem inv_execTicketAddTaken {sender owner : Station} {number : TicketNo} {line : Line} {obs : ObsData}
    {s t : State} (h : Inv s) (ht : execTicketAddTaken sender owner number line obs s = .next t) : Inv t := by
  injection ht with ht
  subst ht
  exact inv_frameTaken h

theorem inv_execHandOfferTaken {sender : Station} {offer : HandOffer} {s t : State} (h : Inv s)
    (ht : execHandOfferTaken sender offer s = .next t) : Inv t := by
  injection ht with ht
  subst ht
  exact inv_frameTaken h

theorem inv_execHandAcceptTaken {sender offering : Station} {offered newNumber : TicketNo} {s t : State} (h : Inv s)
    (ht : execHandAcceptTaken sender offering offered newNumber s = .next t) : Inv t := by
  injection ht with ht
  subst ht
  exact inv_frameTaken h

theorem inv_execHandRefuseTaken {sender offering : Station} {offered : TicketNo} {reason : RefuseReason}
    {s t : State} (h : Inv s) (ht : execHandRefuseTaken sender offering offered reason s = .next t) : Inv t := by
  injection ht with ht
  subst ht
  exact inv_frameTaken h

theorem inv_execTrunkNoticeTaken {sender : Station} {trunk : Trunk} {out : Bool} {s t : State} (h : Inv s)
    (ht : execTrunkNoticeTaken sender trunk out s = .next t) : Inv t := by
  injection ht with ht
  subst ht
  exact inv_frameTaken h

theorem inv_execOwnNumberFrame {s t : State} (h : Inv s)
    (ht : execOwnNumberFrame s = .next t) : Inv t := by
  injection ht with ht
  subst ht
  exact inv_ownNumberHeard (inv_driveSlot h)

theorem inv_execClashFound {s t : State} (h : Inv s)
    (ht : execClashFound s = .next t) : Inv t := by
  injection ht with ht
  subst ht
  split
  · exact inv_clearWire (inv_endFarewell h)
  · split
    · exact inv_clash (inv_pendingActs h)
    · exact h

theorem inv_execStuckLine {s t : State} (h : Inv s)
    (ht : execStuckLine s = .next t) : Inv t := by
  injection ht with ht
  subst ht
  split
  · exact inv_clearWire (inv_endFarewell h)
  · split
    · exact inv_loseLink (inv_pendingActs h)
    · split
      · exact inv_emitLinkState (inv_updLink_fields h rfl rfl rfl rfl rfl)
      · exact h

theorem inv_execStuckCleared {s t : State} (h : Inv s)
    (ht : execStuckCleared s = .next t) : Inv t := by
  injection ht with ht
  subst ht
  split
  · exact inv_enterJoining h
  · exact h

theorem inv_execLostFrameHeard {sender : Station} {body : FrameBody} {s t : State} (h : Inv s)
    (ht : execLostFrameHeard sender body s = .next t) : Inv t := by
  injection ht with ht
  subst ht
  exact inv_lostFrame h

theorem inv_execJoinSettleEnd {s t : State} (h : Inv s)
    (ht : execJoinSettleEnd s = .next t) : Inv t := by
  injection ht with ht
  subst ht
  split
  · exact inv_emitLinkState (inv_toTaking h (fun hl => linkOk_of_fields hl rfl rfl rfl rfl) (by simp [takesFrames]))
  · exact h

theorem inv_execPresenceTimer {s t : State} (h : Inv s)
    (ht : execPresenceTimer s = .next t) : Inv t := by
  injection ht with ht
  subst ht
  split
  · exact inv_updLink_fields h rfl rfl rfl rfl rfl
  · exact h

theorem inv_execPeerSilent {station : Station} {s t : State} (h : Inv s)
    (ht : execPeerSilent station s = .next t) : Inv t := by
  injection ht with ht
  subst ht
  split
  · exact h
  · split; exacts [inv_dropPeer h, h]

theorem inv_execForeignQuietLapse {station : Station} {block : Block} {s t : State} (h : Inv s)
    (ht : execForeignQuietLapse station block s = .next t) : Inv t := by
  injection ht with ht
  subst ht
  split
  · exact inv_takeQuietEnd h
  · exact h

theorem inv_execOwnQuietLapse {channel : Channel} {s t : State} (h : Inv s)
    (ht : execOwnQuietLapse channel s = .next t) : Inv t := by
  injection ht with ht
  subst ht
  exact inv_quietLapses h

theorem inv_execQuietLimit {channel : Channel} {s t : State} (h : Inv s)
    (ht : execQuietLimit channel s = .next t) : Inv t := by
  injection ht with ht
  subst ht
  exact inv_limitReached h

theorem inv_execQuietSettleEnd {channel : Channel} {s t : State} (h : Inv s)
    (ht : execQuietSettleEnd channel s = .next t) : Inv t := by
  injection ht with ht
  subst ht
  exact inv_settleEnds.2 h

theorem inv_execHandoverTimeout {number : TicketNo} {s t : State} (h : Inv s)
    (ht : execHandoverTimeout number s = .next t) : Inv t := by
  injection ht with ht
  subst ht
  split
  · exact h
  · exact inv_handoverTimesOut h

theorem inv_execHeadAnswer {channel : Channel} {answer : HeadAnswer} {s t : State} (h : Inv s)
    (ht : execHeadAnswer channel answer s = .next t) : Inv t := by
  injection ht with ht
  subst ht
  exact inv_takeAnswer h

/-- The row's own test is the statement's: the request has been outstanding for 500 ms beyond its expected length (R46,
R70). -/
theorem headTimedOut_iff {c : Channel} {s : State} : headTimedOut c s = true ↔ HeadDue s c := by
  unfold headTimedOut HeadDue
  simp only [Option.any_eq_true, decide_eq_true_eq]
  refine exists_congr fun q => and_congr_right fun _ => ?_
  cases h : q.reading <;> simp [expectedLength, Config.chargeTime, Config.headLimit, h]

theorem inv_execHeadTimeout {channel : Channel} {s t : State} (h : Inv s)
    (ht : execHeadTimeout channel s = .next t) : Inv t := by
  injection ht with ht
  subst ht
  split
  · exact inv_cutMeasurement h
  · exact h

theorem inv_execStep1End {channel : Channel} {s t : State} (h : Inv s)
    (ht : execStep1End channel s = .next t) : Inv t := by
  injection ht with ht
  subst ht
  split
  · exact inv_beginStep2.2 h
  · exact h

theorem inv_execSetupWaitEnd {channel : Channel} {s t : State} (h : Inv s)
    (ht : execSetupWaitEnd channel s = .next t) : Inv t := by
  injection ht with ht
  subst ht
  split
  · exact inv_goRule.2 h
  · exact h

theorem inv_execOperateWaitEnd {channel : Channel} {s t : State} (h : Inv s)
    (ht : execOperateWaitEnd channel s = .next t) : Inv t := by
  injection ht with ht
  subst ht
  split
  · dsimp only
    split
    · exact inv_operateEnds (by simpa using h)
    · simpa using h
  · exact h

theorem inv_execConfirmShown {channel : Channel} {s t : State} (h : Inv s)
    (ht : execConfirmShown channel s = .next t) : Inv t := by
  injection ht with ht
  subst ht
  unfold confirmShows
  dsimp only
  split
  · split
    · simpa using h
    · exact inv_takeConfirm (by simpa using h)
  · split
    · exact inv_lateConfirm (by simpa using h)
    · simpa using h

theorem inv_execHoldClear {channel : Channel} {s t : State} (h : Inv s)
    (ht : execHoldClear channel s = .next t) : Inv t := by
  injection ht with ht
  subst ht
  unfold holdClears
  dsimp only
  split
  · split
    · exact inv_takeConfirm (by simpa using h)
    · split
      · exact inv_lateConfirm (by simpa using h)
      · simpa using h
  · simpa using h

theorem inv_execConfirmTimeout {channel : Channel} {s t : State} (h : Inv s)
    (ht : execConfirmTimeout channel s = .next t) : Inv t := by
  injection ht with ht
  subst ht
  split
  · unfold confirmTimesOut
    dsimp only
    split
    · exact inv_enterReleasing (inv_report (inv_withTrunkWatch (inv_chargeTimeout (by simpa using h))))
    · exact inv_enterReleasing ((inv_withTrunkWatch (inv_chargeTimeout (by simpa using h))))
  · exact h

theorem inv_execBusyTestEnd {channel : Channel} {s t : State} (h : Inv s)
    (ht : execBusyTestEnd channel s = .next t) : Inv t := by
  injection ht with ht
  subst ht
  split
  · unfold busyTestEnds
    dsimp only
    split
    · split
      · exact inv_enterReleasing (by simpa using inv_report h)
      · exact inv_enterReleasing (by simpa using h)
    · simpa using h
  · exact h

theorem inv_execLoopClosureChange {channel : Channel} {closed : Bool} {s t : State} (h : Inv s)
    (ht : execLoopClosureChange channel closed s = .next t) : Inv t := by
  injection ht with ht
  subst ht
  unfold loopChanges
  dsimp only
  split
  · simpa using h
  · split
    · split
      · split
        · exact inv_yieldSession (by simpa using h)
        · simpa using h
      · exact inv_emit (by split <;> simp) (by simpa using h)
    · simpa using h

theorem inv_execReleaseWaitEnd {channel : Channel} {s t : State} (h : Inv s)
    (ht : execReleaseWaitEnd channel s = .next t) : Inv t := by
  injection ht with ht
  subst ht
  unfold releaseWaitEnds
  split
  · split
    · simpa using h
    · exact inv_enterGuard h
  · exact h

theorem inv_execGuardEnd {channel : Channel} {s t : State} (h : Inv s)
    (ht : execGuardEnd channel s = .next t) : Inv t := by
  injection ht with ht
  subst ht
  split
  · exact inv_enterClosing h
  · exact h

theorem inv_execHoldSet {channel : Channel} {s t : State} (h : Inv s)
    (ht : execHoldSet channel s = .next t) : Inv t := by
  injection ht with ht
  subst ht
  simpa using h

theorem inv_execConfirmNoLongerShown {channel : Channel} {s t : State} (h : Inv s)
    (ht : execConfirmNoLongerShown channel s = .next t) : Inv t := by
  injection ht with ht
  subst ht
  simpa using h

end Sys2Proof.Machine
end

