-- ==== Sys2Proof/Laws/Aside.lean ====
section
/-! SUPPORT. What the part's own steps leave aside (`Aside`): every shared operation agrees with the state before it on
the port's protocol, the configuration, the watch's setting, the outside lines, the timer and the queue. -/

namespace Sys2Proof.Machine

variable {r s : State}

/-! ### The updates -/

theorem Aside.refl (s : State) : Aside s s :=
  ⟨rfl, rfl, fun _ => ⟨rfl, rfl⟩, ⟨rfl, rfl, rfl⟩, fun _ => rfl, rfl, rfl, rfl⟩

/-- Two states that agree on what is left aside are aside of the same states. -/
theorem aside_congr {t : State} (hp : { t.port with events := [], lost := 0 } = { s.port with events := [], lost := 0 })
    (hs : t.store = s.store)
    (hw : t.watch.op = s.watch.op ∧ t.watch.line = s.watch.line ∧ t.watch.filter = s.watch.filter)
    (hc : ∀ c, (t.chan c).pins = (s.chan c).pins) (hk : t.softReset.map (·.kept) = s.softReset.map (·.kept))
    (hn : t.now = s.now) (hq : t.pending = s.pending) : Aside r t ↔ Aside r s := by
  constructor
  · rintro ⟨a, b, c, d, e, f, g, h⟩
    refine ⟨hp ▸ a, hs ▸ b, ?_, ?_, fun x => (hc x).symm.trans (e x), hk ▸ f, hn ▸ g, hq ▸ h⟩
    · intro k; have := c k; simp only [State.trunkEntry, hs] at this; exact this
    · rw [← hw.1, ← hw.2.1, ← hw.2.2]; exact d
  · rintro ⟨a, b, c, d, e, f, g, h⟩
    refine ⟨hp.trans a, by rw [hs]; exact b, ?_, ?_, fun x => (hc x).trans (e x), hk.trans f, hn.trans g, hq.trans h⟩
    · intro k; simp only [State.trunkEntry, hs]; exact c k
    · rw [hw.1, hw.2.1, hw.2.2]; exact d

theorem aside_chans {c : Channel} {x : ChannelRecord} (h : x.pins = (s.chan c).pins) :
    Aside r (s.setChan c x) ↔ Aside r s := by
  refine aside_congr ?_ ?_ ?_ ?_ ?_ ?_ ?_
  · cases c <;> rfl
  · cases c <;> rfl
  · cases c <;> exact ⟨rfl, rfl, rfl⟩
  · intro d; cases c <;> cases d <;> first | rfl | exact h
  · cases c <;> rfl
  · cases c <;> rfl
  · cases c <;> rfl

@[simp] theorem aside_updSession {c : Channel} {f : Session → Session} :
    Aside r (s.updSession c f) ↔ Aside r s := aside_chans rfl

@[simp] theorem aside_updSeq {c : Channel} {f : Sequencer → Sequencer} :
    Aside r (s.updSeq c f) ↔ Aside r s := aside_chans rfl

@[simp] theorem aside_updClaim {c : Channel} {f : ClaimRecord → ClaimRecord} :
    Aside r (s.updClaim c f) ↔ Aside r s := aside_chans rfl

@[simp] theorem aside_updQuiet {c : Channel} {f : QuietRecord → QuietRecord} :
    Aside r (s.updQuiet c f) ↔ Aside r s := aside_chans rfl

@[simp] theorem aside_updClears {c : Channel} {f : List OwedClear → List OwedClear} :
    Aside r (s.updClears c f) ↔ Aside r s := aside_chans rfl

@[simp] theorem aside_updEngine {c : Channel} {f : EngineRecord → EngineRecord} :
    Aside r (s.updEngine c f) ↔ Aside r s := aside_chans rfl

@[simp] theorem aside_setCommand {c : Channel} {k : Option ChannelCommand} :
    Aside r (s.setCommand c k) ↔ Aside r s := aside_chans rfl

@[simp] theorem aside_updLink {f : Link → Link} : Aside r (s.updLink f) ↔ Aside r s :=
  aside_congr rfl rfl ⟨rfl, rfl, rfl⟩ (fun c => by cases c <;> rfl) rfl rfl rfl

@[simp] theorem aside_updTickets {f : TicketStore → TicketStore} : Aside r (s.updTickets f) ↔ Aside r s :=
  aside_congr rfl rfl ⟨rfl, rfl, rfl⟩ (fun c => by cases c <;> rfl) rfl rfl rfl

@[simp] theorem aside_updAuto {f : AutoEngine → AutoEngine} : Aside r (s.updAuto f) ↔ Aside r s :=
  aside_congr rfl rfl ⟨rfl, rfl, rfl⟩ (fun c => by cases c <;> rfl) rfl rfl rfl

@[simp] theorem aside_roster {l : List Peer} : Aside r { s with roster := l } ↔ Aside r s :=
  aside_congr rfl rfl ⟨rfl, rfl, rfl⟩ (fun c => by cases c <;> rfl) rfl rfl rfl

/-- A trunk's condition, streak and declarer are not aside; its calibration is. -/
theorem aside_setTrunk {t : Trunk} {e : TrunkEntry} (hr : e.rtrunk = (s.trunkEntry t).rtrunk)
    (hc : e.ctrunk = (s.trunkEntry t).ctrunk) : Aside r (s.setTrunk t e) ↔ Aside r s := by
  have hk : ∀ k, ((s.setTrunk t e).trunkEntry k).rtrunk = (s.trunkEntry k).rtrunk ∧
      ((s.setTrunk t e).trunkEntry k).ctrunk = (s.trunkEntry k).ctrunk := by
    intro k
    simp only [State.setTrunk, State.updStore, State.trunkEntry]
    by_cases h : t = k
    · subst h; simpa [State.trunkEntry] using ⟨hr, hc⟩
    · have : t.val ≠ k.val := fun he => h (Fin.ext he)
      simp [this]
  constructor
  · rintro ⟨a, b, c, d, e, f, g, h⟩
    exact ⟨a, b, fun k => ⟨(hk k).1.symm.trans (c k).1, (hk k).2.symm.trans (c k).2⟩, d,
      fun x => by cases x <;> first | exact e .a | exact e .b, f, g, h⟩
  · rintro ⟨a, b, c, d, e, f, g, h⟩
    exact ⟨a, b, fun k => ⟨(hk k).1.trans (c k).1, (hk k).2.trans (c k).2⟩, d,
      fun x => by cases x <;> first | exact e .a | exact e .b, f, g, h⟩

@[simp] theorem aside_enterEvent {e : Event} : Aside r (enterEvent e s) ↔ Aside r s :=
  aside_congr rfl rfl ⟨rfl, rfl, rfl⟩ (fun c => by cases c <;> rfl) rfl rfl rfl

@[simp] theorem aside_emit {e : Event} : Aside r (emit e s) ↔ Aside r s := by
  unfold emit; split
  · simp
  · exact aside_congr rfl rfl ⟨rfl, rfl, rfl⟩ (fun c => by cases c <;> rfl) rfl rfl rfl

@[simp] theorem aside_complete {c : Channel} {e : Event} : Aside r (complete c e s) ↔ Aside r s := by
  unfold complete; split <;> simp

@[simp] theorem aside_writeSessionEnd {c : Channel} {k : SessionEndCause} :
    Aside r (writeSessionEnd c k s) ↔ Aside r s :=
  aside_congr rfl rfl ⟨rfl, rfl, rfl⟩ (fun c => by cases c <;> rfl) rfl rfl rfl

/-- An action over a list, each of whose steps leaves it aside. -/
theorem aside_foldl {α : Type} {f : State → α → State} (hf : ∀ s a, Aside r (f s a) ↔ Aside r s) :
    ∀ (l : List α) (s : State), Aside r (l.foldl f s) ↔ Aside r s
  | [], _ => Iff.rfl
  | a :: l, s => (aside_foldl hf l (f s a)).trans (hf s a)

/-! ### The shared operations -/

@[simp] theorem aside_emitLinkState : Aside r (emitLinkState s) ↔ Aside r s := by
  simp [emitLinkState]

@[simp] theorem aside_appendObservation {n : TicketNo} {o : Observation} :
    Aside r (appendObservation n o s) ↔ Aside r s := by
  unfold appendObservation
  try dsimp only
  repeat' split
  all_goals simp

@[simp] theorem aside_failHandover {t : Ticket} {h : Handover} {x : HandoverReason} :
    Aside r (failHandover t h x s) ↔ Aside r s := by
  simp [failHandover]

@[simp] theorem aside_enqueue {body : QueuedBody} {origin : Option Channel} :
    Aside r (enqueue body origin s) ↔ Aside r s := by
  simp [enqueue]

@[simp] theorem aside_setLinkError : Aside r (setLinkError s) ↔ Aside r s := by
  unfold setLinkError
  try dsimp only
  repeat' split
  all_goals simp

@[simp] theorem aside_tellDropped {b : FrameBody} : Aside r (tellDropped b s) ↔ Aside r s := by
  unfold tellDropped
  try dsimp only
  repeat' split
  all_goals simp

@[simp] theorem aside_tellDroppedFrame {f : QueuedFrame} : Aside r (tellDroppedFrame f s) ↔ Aside r s := by
  unfold tellDroppedFrame
  try dsimp only
  repeat' split
  all_goals simp

@[simp] theorem aside_holdFrame {f : QueuedFrame} : Aside r (holdFrame f s) ↔ Aside r s := by
  unfold holdFrame
  try dsimp only
  repeat' split
  all_goals simp

@[simp] theorem aside_lowFrameLeft : Aside r (lowFrameLeft s) ↔ Aside r s := by
  simp [lowFrameLeft]

@[simp] theorem aside_removeFrame {f : QueuedFrame} : Aside r (removeFrame f s) ↔ Aside r s := by
  unfold removeFrame
  try dsimp only
  repeat' split
  all_goals simp

@[simp] theorem aside_displaced {f : QueuedFrame} : Aside r (displaced f s) ↔ Aside r s := by
  unfold displaced
  try dsimp only
  repeat' split
  all_goals simp

@[simp] theorem aside_offerUrgent {b : FrameBody} {origin : Option Channel} :
    Aside r (offerUrgent b origin s) ↔ Aside r s := by
  unfold offerUrgent
  try dsimp only
  repeat' split
  all_goals simp

@[simp] theorem aside_offerNotice {b : FrameBody} : Aside r (offerNotice b s) ↔ Aside r s := by
  unfold offerNotice
  try dsimp only
  repeat' split
  all_goals simp

@[simp] theorem aside_removeIfQueued {f : Option QueuedFrame} : Aside r (removeIfQueued f s) ↔ Aside r s := by
  unfold removeIfQueued
  try dsimp only
  repeat' split
  all_goals simp

theorem aside_changeTrunk {t : Trunk} {e : TrunkEntry} (hr : e.rtrunk = (s.trunkEntry t).rtrunk)
    (hc : e.ctrunk = (s.trunkEntry t).ctrunk) : Aside r (changeTrunk t e s) ↔ Aside r s := by
  unfold changeTrunk
  split
  · exact aside_setTrunk hr hc
  · rw [aside_emit]; exact aside_setTrunk hr hc

theorem afterTimeout_calibration (e : TrunkEntry) :
    (afterTimeout e).rtrunk = e.rtrunk ∧ (afterTimeout e).ctrunk = e.ctrunk := by
  unfold afterTimeout
  split
  · exact ⟨rfl, rfl⟩
  · split <;> exact ⟨rfl, rfl⟩
  · exact ⟨rfl, rfl⟩

@[simp] theorem aside_queueTrunkNotice {t : Trunk} {out : Bool} :
    Aside r (queueTrunkNotice t out s) ↔ Aside r s := by
  unfold queueTrunkNotice
  try dsimp only
  repeat' split
  all_goals simp

theorem queueTrunkNotice_trunkEntry (t k : Trunk) (o : Bool) (s : State) :
    (queueTrunkNotice t o s).trunkEntry k = s.trunkEntry k := by
  have hd : ∀ (f : QueuedFrame) (x : State), (tellDroppedFrame f x).store = x.store := by
    intro f x
    unfold tellDroppedFrame tellDropped failHandover
    repeat' split
    all_goals simp [State.updTickets]
  unfold State.trunkEntry queueTrunkNotice offerNotice holdFrame setLinkError
  repeat' split
  all_goals simp [hd, State.updLink, enqueue]

@[simp] theorem aside_chargeTimeout {t : Trunk} : Aside r (chargeTimeout t s) ↔ Aside r s := by
  have h := afterTimeout_calibration (s.trunkEntry t)
  unfold chargeTimeout
  dsimp only
  split
  · rw [aside_changeTrunk (by rw [queueTrunkNotice_trunkEntry]; exact h.1)
      (by rw [queueTrunkNotice_trunkEntry]; exact h.2)]
    simp
  · exact aside_changeTrunk h.1 h.2

@[simp] theorem aside_creditConfirm {t : Trunk} : Aside r (creditConfirm t s) ↔ Aside r s :=
  aside_changeTrunk rfl rfl

@[simp] theorem aside_takeTrunkNotice {n : Station} {t : Trunk} {out : Bool} :
    Aside r (takeTrunkNotice n t out s) ↔ Aside r s := by
  unfold takeTrunkNotice
  dsimp only
  split <;> exact aside_changeTrunk rfl rfl

@[simp] theorem aside_restoreTrunk {t : Trunk} : Aside r (restoreTrunk t s) ↔ Aside r s := by
  unfold restoreTrunk
  dsimp only
  split
  · rw [aside_changeTrunk (by rw [queueTrunkNotice_trunkEntry]) (by rw [queueTrunkNotice_trunkEntry])]
    simp
  · exact aside_changeTrunk rfl rfl

@[simp] theorem aside_announceTrunks : Aside r (announceTrunks s) ↔ Aside r s := by
  unfold announceTrunks
  exact aside_foldl (fun _ _ => by split <;> simp) _ _

@[simp] theorem aside_storeFailure {l : Line} {o : Observation} : Aside r (storeFailure l o s).2 ↔ Aside r s := by
  unfold storeFailure
  try dsimp only
  repeat' split
  all_goals simp

@[simp] theorem aside_storeNoisy {l : Line} {o : Observation} : Aside r (storeNoisy l o s).2 ↔ Aside r s := by
  unfold storeNoisy
  try dsimp only
  repeat' split
  all_goals simp

@[simp] theorem aside_storeResult {l : Line} {o : Observation} : Aside r (storeResult l o s).2 ↔ Aside r s := by
  unfold storeResult
  try dsimp only
  repeat' split
  all_goals simp

@[simp] theorem aside_settleRetest {t : Ticket} : Aside r (settleRetest t s) ↔ Aside r s := by
  unfold settleRetest
  try dsimp only
  repeat' split
  all_goals simp

@[simp] theorem aside_retestResult {n : TicketNo} {l : Line} {o : Observation} :
    Aside r (retestResult n l o s) ↔ Aside r s := by
  unfold retestResult
  try dsimp only
  repeat' split
  all_goals simp

@[simp] theorem aside_postponeRetest {n : TicketNo} {seconds : Nat} :
    Aside r (postponeRetest n seconds s) ↔ Aside r s := by
  simp [postponeRetest]

@[simp] theorem aside_mergeTicket {n : Station} {e : NoteEntry} {t : Ticket} {owesClosed : Bool} :
    Aside r (mergeTicket n e t owesClosed s) ↔ Aside r s := by
  unfold mergeTicket
  try dsimp only
  repeat' split
  all_goals simp

@[simp] theorem aside_takeNoteEntry {n : Station} {e : NoteEntry} : Aside r (takeNoteEntry n e s) ↔ Aside r s := by
  unfold takeNoteEntry
  try dsimp only
  repeat' split
  all_goals simp

@[simp] theorem aside_takeNote {n : Station} {es : List NoteEntry} : Aside r (takeNote n es s) ↔ Aside r s := by
  unfold takeNote
  exact aside_foldl (fun _ _ => by simp) _ _

@[simp] theorem aside_takeAddition {n : Station} {number : TicketNo} {l : Line} {obs : ObsData} :
    Aside r (takeAddition n number l obs s) ↔ Aside r s := by
  unfold takeAddition
  try dsimp only
  repeat' split
  all_goals simp

@[simp] theorem aside_takeOffer {n : Station} {o : HandOffer} : Aside r (takeOffer n o s) ↔ Aside r s := by
  unfold takeOffer
  try dsimp only
  repeat' split
  all_goals simp

@[simp] theorem aside_takeAccept {m : Station} {offered : TicketNo} :
    Aside r (takeAccept m offered s) ↔ Aside r s := by
  unfold takeAccept
  try dsimp only
  repeat' split
  all_goals simp

@[simp] theorem aside_takeRefusal {m : Station} {offered : TicketNo} {x : RefuseReason} :
    Aside r (takeRefusal m offered x s) ↔ Aside r s := by
  unfold takeRefusal
  try dsimp only
  repeat' split
  all_goals simp

@[simp] theorem aside_failHandoversTo {n : Station} : Aside r (failHandoversTo n s) ↔ Aside r s := by
  unfold failHandoversTo
  refine aside_foldl (fun _ _ => ?_) _ _
  repeat' split
  all_goals simp

@[simp] theorem aside_handoverTimesOut {n : TicketNo} : Aside r (handoverTimesOut n s) ↔ Aside r s := by
  unfold handoverTimesOut
  try dsimp only
  repeat' split
  all_goals simp

@[simp] theorem aside_updatePeer {n : Station} {f : Peer → Peer} : Aside r (updatePeer n f s) ↔ Aside r s := by
  simp [updatePeer]

@[simp] theorem aside_heardPeer {n : Station} {joining : Bool} : Aside r (heardPeer n joining s) ↔ Aside r s := by
  unfold heardPeer
  try dsimp only
  repeat' split
  all_goals simp

@[simp] theorem aside_addQuiet {n : Station} {b : Block} : Aside r (addQuiet n b s) ↔ Aside r s := by
  simp [addQuiet]

@[simp] theorem aside_removeQuiet {n : Station} {b : Block} : Aside r (removeQuiet n b s) ↔ Aside r s := by
  simp [removeQuiet]

@[simp] theorem aside_replacePeer {n : Station} {joining : Bool} {hs : List Holding} {listed : List Block} :
    Aside r (replacePeer n joining hs listed s) ↔ Aside r s := by
  simp [replacePeer]

@[simp] theorem aside_beginSession {c : Channel} {p : Purpose} {l : Line} {t : Trunk} {forced : Bool}
    {ticket : Option TicketNo} :
    Aside r (beginSession c p l t forced ticket s) ↔ Aside r s := by
  simp [beginSession]

@[simp] theorem aside_beginStep1 {c : Channel} : Aside r (beginStep1 c s) ↔ Aside r s := by
  simp [beginStep1]

@[simp] theorem aside_beginStep3 {c : Channel} : Aside r (beginStep3 c s) ↔ Aside r s := by
  simp [beginStep3]

@[simp] theorem aside_beginStep4 {c : Channel} : Aside r (beginStep4 c s) ↔ Aside r s := by
  simp [beginStep4]

@[simp] theorem aside_beginStep5 {c : Channel} : Aside r (beginStep5 c s) ↔ Aside r s := by
  simp [beginStep5]

@[simp] theorem aside_goRule {c : Channel} : Aside r (goRule c s) ↔ Aside r s := by
  unfold goRule
  try dsimp only
  repeat' split
  all_goals simp

@[simp] theorem aside_beginStep2 {c : Channel} : Aside r (beginStep2 c s) ↔ Aside r s := by
  unfold beginStep2
  try dsimp only
  repeat' split
  all_goals simp

@[simp] theorem aside_undefer {c : Channel} {h : Holder} {b : Block} : Aside r (undefer c h b s) ↔ Aside r s := by
  unfold undefer
  try dsimp only
  repeat' split
  all_goals simp

@[simp] theorem aside_undeferBoth {h : Holder} {b : Block} : Aside r (undeferBoth h b s) ↔ Aside r s := by
  simp [undeferBoth]

@[simp] theorem aside_deferClaimed {c : Channel} {h : Holder} : Aside r (deferClaimed c h s) ↔ Aside r s := by
  simp [deferClaimed]

@[simp] theorem aside_abandonOperate {c : Channel} : Aside r (abandonOperate c s) ↔ Aside r s := by
  unfold abandonOperate
  try dsimp only
  repeat' split
  all_goals simp

@[simp] theorem aside_giveRelease {c : Channel} {x : Relay} : Aside r (giveRelease c x s) ↔ Aside r s := by
  simp [giveRelease]

@[simp] theorem aside_lateConfirm {c : Channel} {a : AbandonedOperate} :
    Aside r (lateConfirm c a s) ↔ Aside r s := by
  simp [lateConfirm]

@[simp] theorem aside_queueQuiet {c : Channel} {b : Block} : Aside r (queueQuiet c b s) ↔ Aside r s := by
  simp [queueQuiet]

@[simp] theorem aside_serveQuiet {c : Channel} : Aside r (serveQuiet c s) ↔ Aside r s := by
  unfold serveQuiet
  repeat' split
  all_goals simp

@[simp] theorem aside_askQuiet {c : Channel} {b : Block} : Aside r (askQuiet c b s) ↔ Aside r s := by
  simp [askQuiet]

@[simp] theorem aside_markNoisy {c : Channel} : Aside r (markNoisy c s) ↔ Aside r s := by
  simp [markNoisy]

@[simp] theorem aside_joinWait {c : Channel} {h : Holder} : Aside r (joinWait c h s) ↔ Aside r s := by
  simp [joinWait]

@[simp] theorem aside_startRunning {c : Channel} {noisy : Bool} : Aside r (startRunning c noisy s) ↔ Aside r s := by
  simp [startRunning]

@[simp] theorem aside_startIfSettled {c : Channel} : Aside r (startIfSettled c s) ↔ Aside r s := by
  unfold startIfSettled
  try dsimp only
  repeat' split
  all_goals simp

@[simp] theorem aside_leaveWait {c : Channel} {h : Holder} : Aside r (leaveWait c h s) ↔ Aside r s := by
  simp [leaveWait]

@[simp] theorem aside_queueBusy {c : Channel} {b : Block} {n : Station} :
    Aside r (queueBusy c b n s) ↔ Aside r s := by
  simp [queueBusy]

@[simp] theorem aside_releaseDisturbs {c : Channel} : Aside r (releaseDisturbs c s) ↔ Aside r s := by
  unfold releaseDisturbs
  try dsimp only
  repeat' split
  all_goals simp

@[simp] theorem aside_sequenceEnds {c : Channel} : Aside r (sequenceEnds c s) ↔ Aside r s := by
  unfold sequenceEnds
  dsimp only
  rw [aside_leaveWait, aside_foldl fun _ _ => by simp]
  simp

@[simp] theorem aside_endQuiet {c : Channel} : Aside r (endQuiet c s) ↔ Aside r s := by
  unfold endQuiet
  try dsimp only
  repeat' split
  all_goals simp

@[simp] theorem aside_quietEndAsked {c : Channel} : Aside r (quietEndAsked c s) ↔ Aside r s := by
  unfold quietEndAsked
  try dsimp only
  repeat' split
  all_goals simp

@[simp] theorem aside_ownQuietEnds {c : Channel} : Aside r (ownQuietEnds c s) ↔ Aside r s := by
  unfold ownQuietEnds
  try dsimp only
  repeat' split
  all_goals simp

@[simp] theorem aside_answerOwnQuiet {c : Channel} {b : Block} : Aside r (answerOwnQuiet c b s) ↔ Aside r s := by
  unfold answerOwnQuiet
  try dsimp only
  repeat' split
  all_goals simp

@[simp] theorem aside_ownQuietTaken {c : Channel} : Aside r (ownQuietTaken c s) ↔ Aside r s := by
  unfold ownQuietTaken
  try dsimp only
  repeat' split
  all_goals simp

@[simp] theorem aside_quietNotTaken {c : Channel} {f : QueuedFrame} :
    Aside r (quietNotTaken c f s) ↔ Aside r s := by
  unfold quietNotTaken
  try dsimp only
  repeat' split
  all_goals simp

@[simp] theorem aside_quietDropped {c : Channel} : Aside r (quietDropped c s) ↔ Aside r s := by
  simp [quietDropped]

@[simp] theorem aside_withdrawRequested {c : Channel} {b : Block} :
    Aside r (withdrawRequested c b s) ↔ Aside r s := by
  unfold withdrawRequested
  try dsimp only
  repeat' split
  all_goals simp

@[simp] theorem aside_answerQuiet {c : Channel} {b : Block} {n : Station} :
    Aside r (answerQuiet c b n s) ↔ Aside r s := by
  unfold answerQuiet
  try dsimp only
  repeat' split
  all_goals simp

@[simp] theorem aside_busyHeard {c : Channel} {b : Block} {n : Station} :
    Aside r (busyHeard c b n s) ↔ Aside r s := by
  unfold busyHeard
  try dsimp only
  repeat' split
  all_goals simp

@[simp] theorem aside_clearHeard {c : Channel} {b : Block} {n : Station} :
    Aside r (clearHeard c b n s) ↔ Aside r s := by
  unfold clearHeard
  try dsimp only
  repeat' split
  all_goals simp

@[simp] theorem aside_ownBusyTaken {c : Channel} {b : Block} {n : Station} :
    Aside r (ownBusyTaken c b n s) ↔ Aside r s := by
  simp [ownBusyTaken]

@[simp] theorem aside_ownBusyDropped {c : Channel} {b : Block} {n : Station} :
    Aside r (ownBusyDropped c b n s) ↔ Aside r s := by
  simp [ownBusyDropped]

@[simp] theorem aside_ownClearGone {c : Channel} {b : Block} {n : Station} :
    Aside r (ownClearGone c b n s) ↔ Aside r s := by
  simp [ownClearGone]

@[simp] theorem aside_leaveWaits {n : Station} : Aside r (leaveWaits n s) ↔ Aside r s := by
  simp [leaveWaits]

@[simp] theorem aside_updSweep {f : Sweep → Sweep} : Aside r (updSweep f s) ↔ Aside r s := by
  simp [updSweep]

@[simp] theorem aside_updItem {f : Item → Item} : Aside r (updItem f s) ↔ Aside r s := by
  simp [updItem]

@[simp] theorem aside_dropItem : Aside r (dropItem s) ↔ Aside r s := by
  simp [dropItem]

@[simp] theorem aside_haltEngine : Aside r (haltEngine s) ↔ Aside r s := by
  simp [haltEngine]

@[simp] theorem aside_completeSweep : Aside r (completeSweep s) ↔ Aside r s := by
  unfold completeSweep
  try dsimp only
  repeat' split
  all_goals simp

@[simp] theorem aside_skipLine {l : Line} : Aside r (skipLine l s) ↔ Aside r s := by
  simp [skipLine]

@[simp] theorem aside_deferLine {l : Line} : Aside r (deferLine l s) ↔ Aside r s := by
  unfold deferLine
  try dsimp only
  repeat' split
  all_goals simp

@[simp] theorem aside_sweepOutcome {i : Item} {o : ItemOutcome} : Aside r (sweepOutcome i o s) ↔ Aside r s := by
  unfold sweepOutcome
  try dsimp only
  repeat' split
  all_goals simp

@[simp] theorem aside_retestOutcome {n : TicketNo} {o : ItemOutcome} :
    Aside r (retestOutcome n o s) ↔ Aside r s := by
  unfold retestOutcome
  try dsimp only
  repeat' split
  all_goals simp

@[simp] theorem aside_emitItemResult {i : Item} {o : ItemOutcome} {cls : Option FaultClass} {ans : TicketAnswer} :
    Aside r (emitItemResult i o cls ans s) ↔ Aside r s := by
  unfold emitItemResult
  try dsimp only
  repeat' split
  all_goals simp

@[simp] theorem aside_fixOutcome {i : Item} {o : ItemOutcome} {cls : Option FaultClass} {ans : TicketAnswer} :
    Aside r (fixOutcome i o cls ans s) ↔ Aside r s := by
  unfold fixOutcome
  try dsimp only
  repeat' split
  all_goals simp

@[simp] theorem aside_report {o : ItemOutcome} : Aside r (report o s) ↔ Aside r s := by
  unfold report
  try dsimp only
  repeat' split
  all_goals simp

@[simp] theorem aside_reportMeasured {cls : FaultClass} {deciding : Option Deciding} {noisy : Bool} :
    Aside r (reportMeasured cls deciding noisy s) ↔ Aside r s := by
  unfold reportMeasured
  try dsimp only
  repeat' split
  all_goals simp

@[simp] theorem aside_itemEnds : Aside r (itemEnds s) ↔ Aside r s := by
  unfold itemEnds
  try dsimp only
  repeat' split
  all_goals simp

@[simp] theorem aside_freeze {cause : FreezeCause} {l : Line} : Aside r (freeze cause l s) ↔ Aside r s := by
  simp [freeze]

@[simp] theorem aside_clearSession {c : Channel} : Aside r (clearSession c s) ↔ Aside r s := by
  simp [clearSession]

@[simp] theorem aside_sessionEnded {c : Channel} {x : Session} {cause : SessionEndCause} :
    Aside r (sessionEnded c x cause s) ↔ Aside r s := by
  unfold sessionEnded
  try dsimp only
  repeat' split
  all_goals simp

@[simp] theorem aside_reportEnd {c : Channel} {x : Session} {o : ChannelOutcome} {station : Option Station} :
    Aside r (reportEnd c x o station s) ↔ Aside r s := by
  unfold reportEnd
  try dsimp only
  repeat' split
  all_goals simp

@[simp] theorem aside_finishSession {c : Channel} {o : ChannelOutcome} {station : Option Station} :
    Aside r (finishSession c o station s) ↔ Aside r s := by
  unfold finishSession
  try dsimp only
  repeat' split
  all_goals simp

@[simp] theorem aside_finishFixed {c : Channel} {o : ChannelOutcome} : Aside r (finishFixed c o s) ↔ Aside r s := by
  simp [finishFixed]

@[simp] theorem aside_enterClosing {c : Channel} : Aside r (enterClosing c s) ↔ Aside r s := by
  simp [enterClosing]

@[simp] theorem aside_enterGuard {c : Channel} : Aside r (enterGuard c s) ↔ Aside r s := by
  unfold enterGuard
  try dsimp only
  repeat' split
  all_goals simp

@[simp] theorem aside_enterReleasing {c : Channel} : Aside r (enterReleasing c s) ↔ Aside r s := by
  unfold enterReleasing
  try dsimp only
  repeat' split
  all_goals simp

@[simp] theorem aside_fixSession {c : Channel} {o : ChannelOutcome} : Aside r (fixSession c o s) ↔ Aside r s := by
  simp [fixSession]

@[simp] theorem aside_abandonMeasurement {c : Channel} : Aside r (abandonMeasurement c s) ↔ Aside r s := by
  unfold abandonMeasurement
  try dsimp only
  repeat' split
  all_goals simp

@[simp] theorem aside_reverseSession {c : Channel} : Aside r (reverseSession c s) ↔ Aside r s := by
  unfold reverseSession
  try dsimp only
  repeat' split
  all_goals simp

@[simp] theorem aside_cancelSession {c : Channel} : Aside r (cancelSession c s) ↔ Aside r s := by
  unfold cancelSession
  try dsimp only
  repeat' split
  all_goals simp

@[simp] theorem aside_conflict {c : Channel} : Aside r (conflict c s) ↔ Aside r s := by
  unfold conflict
  try dsimp only
  repeat' split
  all_goals simp

@[simp] theorem aside_dropDrives {c : Channel} : Aside r (dropDrives c s) ↔ Aside r s := by
  simp [dropDrives]

@[simp] theorem aside_loseSession {c : Channel} : Aside r (loseSession c s) ↔ Aside r s := by
  unfold loseSession
  try dsimp only
  repeat' split
  all_goals simp

@[simp] theorem aside_sendRequest {c : Channel} {rd : Reading} : Aside r (sendRequest c rd s) ↔ Aside r s := by
  simp [sendRequest]

@[simp] theorem aside_startMeasurement {c : Channel} {stages : StageSet} {n : Nat} {ticket : Bool} :
    Aside r (startMeasurement c stages n ticket s) ↔ Aside r s := by
  unfold startMeasurement
  try dsimp only
  repeat' split
  all_goals simp

@[simp] theorem aside_closeMeasurement {c : Channel} {x : MeasureRecord} :
    Aside r (closeMeasurement c x s) ↔ Aside r s := by
  unfold closeMeasurement
  try dsimp only
  repeat' split
  all_goals simp

@[simp] theorem aside_backToConnected {c : Channel} : Aside r (backToConnected c s) ↔ Aside r s := by
  simp [backToConnected]

@[simp] theorem aside_measureDone {c : Channel} {o : EventOutcome} {d : Option Deciding} {ans : TicketAnswer} :
    Aside r (measureDone c o d ans s) ↔ Aside r s := by
  simp [measureDone]

@[simp] theorem aside_releaseAutomatic {c : Channel} : Aside r (releaseAutomatic c s) ↔ Aside r s := by
  simp [releaseAutomatic]

@[simp] theorem aside_measurementDone {c : Channel} {k : Copies} {x : MeasureRecord} :
    Aside r (measurementDone c k x s) ↔ Aside r s := by
  unfold measurementDone
  try dsimp only
  repeat' split
  all_goals simp

@[simp] theorem aside_cutMeasurement {c : Channel} {o : MeasureOutcome} {done : ChannelOutcome} :
    Aside r (cutMeasurement c o done s) ↔ Aside r s := by
  unfold cutMeasurement
  try dsimp only
  repeat' split
  all_goals simp

@[simp] theorem aside_yieldSession {c : Channel} : Aside r (yieldSession c s) ↔ Aside r s := by
  unfold yieldSession
  try dsimp only
  repeat' split
  all_goals simp

@[simp] theorem aside_takeAnswer {c : Channel} {a : HeadAnswer} : Aside r (takeAnswer c a s) ↔ Aside r s := by
  unfold takeAnswer
  try dsimp only
  repeat' split
  all_goals simp

@[simp] theorem aside_settleEnds {c : Channel} : Aside r (settleEnds c s) ↔ Aside r s := by
  unfold settleEnds
  try dsimp only
  repeat' split
  all_goals simp

@[simp] theorem aside_limitRecord {c : Channel} : Aside r (limitRecord c s) ↔ Aside r s := by
  unfold limitRecord
  try dsimp only
  repeat' split
  all_goals simp

@[simp] theorem aside_limitReached {c : Channel} : Aside r (limitReached c s) ↔ Aside r s := by
  unfold limitReached
  try dsimp only
  repeat' split
  all_goals simp

@[simp] theorem aside_quietLapses {c : Channel} : Aside r (quietLapses c s) ↔ Aside r s := by
  unfold quietLapses
  try dsimp only
  repeat' split
  all_goals simp

@[simp] theorem aside_enterConnected {c : Channel} : Aside r (enterConnected c s) ↔ Aside r s := by
  unfold enterConnected
  try dsimp only
  repeat' split
  all_goals simp

@[simp] theorem aside_operateEnds {c : Channel} : Aside r (operateEnds c s) ↔ Aside r s := by
  unfold operateEnds
  try dsimp only
  repeat' split
  all_goals simp

@[simp] theorem aside_takeConfirm {c : Channel} : Aside r (takeConfirm c s) ↔ Aside r s := by
  unfold takeConfirm
  try dsimp only
  repeat' split
  all_goals simp

@[simp] theorem aside_captureMatch {k : Capture} : Aside r (captureMatch k s) ↔ Aside r s := by
  exact aside_congr rfl rfl ⟨rfl, rfl, rfl⟩ (fun c => by cases c <;> rfl) rfl rfl rfl

@[simp] theorem aside_emitWatchHit {l : Line} {n : Station} {c : Channel} {p : Purpose} :
    Aside r (emitWatchHit l n c p s) ↔ Aside r s := by
  unfold emitWatchHit
  try dsimp only
  repeat' split
  all_goals simp

@[simp] theorem aside_monitorClaim {own : Bool} {n : Station} {l : Line} {t : Trunk} {p : Purpose} {c : Channel} :
    Aside r (monitorClaim own n l t p c s) ↔ Aside r s := by
  unfold monitorClaim
  try dsimp only
  repeat' split
  all_goals simp

@[simp] theorem aside_stopAtClaim {c : Channel} : Aside r (stopAtClaim c s) ↔ Aside r s := by
  unfold stopAtClaim
  try dsimp only
  repeat' split
  all_goals simp

@[simp] theorem aside_watchOwnClaim {c : Channel} : Aside r (watchOwnClaim c s) ↔ Aside r s := by
  simp [watchOwnClaim]

@[simp] theorem aside_endClaim {c : Channel} {o : ChannelOutcome} {station : Option Station} :
    Aside r (endClaim c o station s) ↔ Aside r s := by
  unfold endClaim
  try dsimp only
  repeat' split
  all_goals simp

@[simp] theorem aside_rerouteClaim {c : Channel} {station : Option Station} :
    Aside r (rerouteClaim c station s) ↔ Aside r s := by
  unfold rerouteClaim
  try dsimp only
  repeat' split
  all_goals simp

@[simp] theorem aside_contestFirst {n : Station} {ps : List Pair} {c : Channel} :
    Aside r (contestFirst n ps c s) ↔ Aside r s := by
  unfold contestFirst
  try dsimp only
  repeat' split
  all_goals simp

@[simp] theorem aside_contestSecond {n : Station} {ps : List Pair} {c : Channel} :
    Aside r (contestSecond n ps c s) ↔ Aside r s := by
  unfold contestSecond
  try dsimp only
  repeat' split
  all_goals simp

@[simp] theorem aside_contest {n : Station} {ps : List Pair} : Aside r (contest n ps s) ↔ Aside r s := by
  simp [contest]

@[simp] theorem aside_releaseContests {p : Pair} {c : Channel} : Aside r (releaseContests p c s) ↔ Aside r s := by
  unfold releaseContests
  try dsimp only
  repeat' split
  all_goals simp

@[simp] theorem aside_trunkOutFirst {t : Trunk} {station : Option Station} {c : Channel} :
    Aside r (trunkOutFirst t station c s) ↔ Aside r s := by
  unfold trunkOutFirst
  try dsimp only
  repeat' split
  all_goals simp

@[simp] theorem aside_trunkOutSecond {t : Trunk} {station : Option Station} {c : Channel} :
    Aside r (trunkOutSecond t station c s) ↔ Aside r s := by
  unfold trunkOutSecond
  try dsimp only
  repeat' split
  all_goals simp

@[simp] theorem aside_trunkWentOut {t : Trunk} {station : Option Station} :
    Aside r (trunkWentOut t station s) ↔ Aside r s := by
  simp [trunkWentOut]

theorem aside_withTrunkWatch {t : Trunk} {station : Option Station} {f : State → State}
    (hf : Aside r (f s) ↔ Aside r s) : Aside r (withTrunkWatch t station f s) ↔ Aside r s := by
  unfold withTrunkWatch
  dsimp only
  split
  · rw [aside_trunkWentOut]; exact hf
  · exact hf

@[simp] theorem aside_claimOnWire {c : Channel} : Aside r (claimOnWire c s) ↔ Aside r s := by
  simp [claimOnWire]

@[simp] theorem aside_ownClaimTaken {c : Channel} : Aside r (ownClaimTaken c s) ↔ Aside r s := by
  unfold ownClaimTaken
  try dsimp only
  repeat' split
  all_goals simp

@[simp] theorem aside_claimNotTaken {c : Channel} : Aside r (claimNotTaken c s) ↔ Aside r s := by
  unfold claimNotTaken
  try dsimp only
  repeat' split
  all_goals simp

@[simp] theorem aside_itemBlocked : Aside r (itemBlocked s) ↔ Aside r s := by
  simp [itemBlocked]

@[simp] theorem aside_askForClaim {i : Item} {c : Channel} {exempt : Bool} :
    Aside r (askForClaim i c exempt s) ↔ Aside r s := by
  unfold askForClaim
  try dsimp only
  repeat' split
  all_goals simp

@[simp] theorem aside_startItem {i : Item} {c : Channel} : Aside r (startItem i c s) ↔ Aside r s := by
  unfold startItem
  try dsimp only
  repeat' split
  all_goals simp

theorem aside_walkStep {s' : State} (h : walkStep s = .passed s') : Aside r s' ↔ Aside r s := by
  unfold walkStep at h
  split at h
  · cases h
  · split at h
    · cases h
    · split at h
      · injection h with h; subst h; simp
      · split at h
        · injection h with h; subst h; simp
        · cases h
    · split at h
      · cases h
      · split at h
        · injection h with h; subst h; simp
        · split at h
          · injection h with h; subst h; simp
          · cases h

theorem aside_walkSweep : ∀ (n : Nat) (s : State), Aside r (walkSweep n s).1 ↔ Aside r s
  | 0, _ => Iff.rfl
  | n + 1, s => by
    rw [walkSweep]
    split
    · rfl
    · next h => rw [aside_walkSweep n, aside_walkStep h]
    · rfl

@[simp] theorem aside_chooseItem : Aside r (chooseItem s).1 ↔ Aside r s := by
  unfold chooseItem
  split
  · rfl
  · exact aside_walkSweep _ _

@[simp] theorem aside_arbiterChooses : Aside r (arbiterChooses s) ↔ Aside r s := by
  have h : Aside r (chooseItem s).1 ↔ Aside r s := aside_chooseItem
  unfold arbiterChooses
  split
  · rfl
  · split
    · split
      · next he => rw [he] at h; simpa using h
      · next he => rw [he] at h; split <;> simpa using h
    · rfl

@[simp] theorem aside_unfreezeSession {c : Channel} : Aside r (unfreezeSession c s) ↔ Aside r s := by
  unfold unfreezeSession
  try dsimp only
  repeat' split
  all_goals simp

@[simp] theorem aside_leaveFrozen {x : RunState} : Aside r (leaveFrozen x s) ↔ Aside r s := by
  unfold leaveFrozen
  try dsimp only
  repeat' split
  all_goals simp

@[simp] theorem aside_emitIfChanged {old : LinkState} : Aside r (emitIfChanged old s) ↔ Aside r s := by
  unfold emitIfChanged
  try dsimp only
  repeat' split
  all_goals simp

@[simp] theorem aside_servePresence : Aside r (servePresence s) ↔ Aside r s := by
  unfold servePresence
  try dsimp only
  repeat' split
  all_goals simp

@[simp] theorem aside_enterJoining : Aside r (enterJoining s) ↔ Aside r s := by
  simp [enterJoining]

@[simp] theorem aside_dropQuiets : Aside r (dropQuiets s) ↔ Aside r s := by
  exact aside_congr rfl rfl ⟨rfl, rfl, rfl⟩ (fun c => by cases c <;> rfl) rfl rfl rfl

@[simp] theorem aside_emptyView : Aside r (emptyView s) ↔ Aside r s := by
  exact aside_congr rfl rfl ⟨rfl, rfl, rfl⟩ (fun c => by cases c <;> rfl) rfl rfl rfl

@[simp] theorem aside_loseLink {st : LinkState} {cause : Option LostCause} :
    Aside r (loseLink st cause s) ↔ Aside r s := by
  simp [loseLink]

@[simp] theorem aside_clash : Aside r (clash s) ↔ Aside r s := by
  simp [clash]

@[simp] theorem aside_startAttempt {f : QueuedFrame} {b : FrameBody} {closed : Nat} :
    Aside r (startAttempt f b closed s) ↔ Aside r s := by
  unfold startAttempt
  try dsimp only
  repeat' split
  all_goals simp

theorem aside_offerBest : ∀ (n : Nat) (s : State), Aside r (offerBest n s) ↔ Aside r s
  | 0, _ => Iff.rfl
  | n + 1, s => by
    rw [offerBest]
    split
    · rfl
    · split
      · simp
      · simp
      · dsimp only
        split
        · rw [aside_offerBest n]; simp
        · simp

@[simp] theorem aside_attemptStarts : Aside r (attemptStarts s) ↔ Aside r s := by
  unfold attemptStarts
  split
  · exact aside_offerBest _ _
  · rfl

@[simp] theorem aside_clearWire : Aside r (clearWire s) ↔ Aside r s := by
  simp [clearWire]

@[simp] theorem aside_updateFrame {f : QueuedFrame} {g : QueuedFrame → QueuedFrame} :
    Aside r (updateFrame f g s) ↔ Aside r s := by simp [updateFrame]

@[simp] theorem aside_attemptNotTaken {f : QueuedFrame} : Aside r (attemptNotTaken f s) ↔ Aside r s := by
  unfold attemptNotTaken
  try dsimp only
  repeat' split
  all_goals simp

@[simp] theorem aside_farewellChecked : Aside r (farewellChecked s) ↔ Aside r s := by
  unfold farewellChecked
  split
  · refine aside_congr rfl rfl ⟨rfl, rfl, rfl⟩ (fun c => by cases c <;> rfl) ?_ rfl rfl
    simp [Function.comp_def]
  · rfl

@[simp] theorem aside_arbitrationLost : Aside r (arbitrationLost s) ↔ Aside r s := by
  unfold arbitrationLost
  try dsimp only
  repeat' split
  all_goals simp

@[simp] theorem aside_ownFrameTaken {w : Attempt} {origin : Option Channel} :
    Aside r (ownFrameTaken w origin s) ↔ Aside r s := by
  unfold ownFrameTaken
  try dsimp only
  repeat' split
  all_goals simp

@[simp] theorem aside_ownFrameDropped {b : QueuedBody} {origin : Option Channel} :
    Aside r (ownFrameDropped b origin s) ↔ Aside r s := by
  unfold ownFrameDropped
  try dsimp only
  repeat' split
  all_goals simp

@[simp] theorem aside_attemptVoid {f : QueuedFrame} : Aside r (attemptVoid f s) ↔ Aside r s := by
  unfold attemptVoid
  try dsimp only
  repeat' split
  all_goals simp

@[simp] theorem aside_pendingActs : Aside r (pendingActs s) ↔ Aside r s := by
  unfold pendingActs
  try dsimp only
  repeat' split
  all_goals simp

@[simp] theorem aside_farewellAttempt {f : QueuedFrame} {gone : Bool} :
    Aside r (farewellAttempt f gone s) ↔ Aside r s := by
  unfold farewellAttempt
  try dsimp only
  repeat' split
  all_goals simp

@[simp] theorem aside_attemptEnds {how : AttemptEnd} : Aside r (attemptEnds how s) ↔ Aside r s := by
  unfold attemptEnds
  try dsimp only
  repeat' split
  all_goals simp

@[simp] theorem aside_endFarewell : Aside r (endFarewell s) ↔ Aside r s := by
  refine aside_congr rfl rfl ⟨rfl, rfl, rfl⟩ (fun c => by cases c <;> rfl) ?_ rfl rfl
  simp [endFarewell, Function.comp_def]

@[simp] theorem aside_takeClaim {n : Station} {l : Line} {t : Trunk} {p : Purpose} {c : Channel} :
    Aside r (takeClaim n l t p c s) ↔ Aside r s := by
  simp [takeClaim]

@[simp] theorem aside_takeRelease {n : Station} {l : Line} {t : Trunk} :
    Aside r (takeRelease n l t s) ↔ Aside r s := by
  simp [takeRelease]

@[simp] theorem aside_quietEnded {n : Station} {b : Block} : Aside r (quietEnded n b s) ↔ Aside r s := by
  simp [quietEnded]

@[simp] theorem aside_withdrawBoth {b : Block} : Aside r (withdrawBoth b s) ↔ Aside r s := by
  simp [withdrawBoth]

@[simp] theorem aside_joinReplies : Aside r (joinReplies s) ↔ Aside r s := by
  simp [joinReplies]

@[simp] theorem aside_takePresence {n : Station} {joining : Bool} {hs : List Holding} {qs : List Block} {p : Peer} :
    Aside r (takePresence n joining hs qs p s) ↔ Aside r s := by
  unfold takePresence
  dsimp only
  split <;>
  · simp only [aside_joinReplies, aside_contest]
    rw [aside_foldl fun _ _ => by simp, aside_foldl fun _ _ => by simp]
    simp

@[simp] theorem aside_recordQuiet {n : Station} {b : Block} : Aside r (recordQuiet n b s) ↔ Aside r s := by
  unfold recordQuiet
  try dsimp only
  repeat' split
  all_goals simp

@[simp] theorem aside_takeQuiet {n : Station} {b : Block} : Aside r (takeQuiet n b s) ↔ Aside r s := by
  unfold takeQuiet
  try dsimp only
  repeat' split
  all_goals simp

@[simp] theorem aside_takeQuietEnd {n : Station} {b : Block} : Aside r (takeQuietEnd n b s) ↔ Aside r s := by
  unfold takeQuietEnd
  try dsimp only
  repeat' split
  all_goals simp

@[simp] theorem aside_applyFrame {n : Station} {b : FrameBody} {p : Peer} :
    Aside r (applyFrame n b p s) ↔ Aside r s := by
  unfold applyFrame
  split
  case h_12 => exact aside_withTrunkWatch aside_takeTrunkNotice
  all_goals first | simp | (split <;> simp)

@[simp] theorem aside_handOn {n : Station} {b : FrameBody} : Aside r (handOn n b s) ↔ Aside r s := by
  unfold handOn
  try dsimp only
  repeat' split
  all_goals simp

@[simp] theorem aside_driveSlot {k : Bool} : Aside r (driveSlot k s) ↔ Aside r s := by
  unfold driveSlot
  try dsimp only
  repeat' split
  all_goals simp

@[simp] theorem aside_ownNumberHeard : Aside r (ownNumberHeard s) ↔ Aside r s := by
  unfold ownNumberHeard
  repeat' split
  all_goals simp

@[simp] theorem aside_frameTaken {n : Station} {b : FrameBody} : Aside r (frameTaken n b s) ↔ Aside r s := by
  unfold frameTaken
  try dsimp only
  repeat' split
  all_goals simp

@[simp] theorem aside_lostFrame {n : Station} {b : FrameBody} : Aside r (lostFrame n b s) ↔ Aside r s := by
  unfold lostFrame
  try dsimp only
  repeat' split
  all_goals simp

@[simp] theorem aside_dropPeer {p : Peer} : Aside r (dropPeer p s) ↔ Aside r s := by
  unfold dropPeer
  dsimp only
  rw [aside_foldl fun _ _ => by simp]
  simp

@[simp] theorem aside_confirmTimesOut {c : Channel} : Aside r (confirmTimesOut c s) ↔ Aside r s := by
  unfold confirmTimesOut
  dsimp only
  split <;> simp [aside_withTrunkWatch aside_chargeTimeout]

@[simp] theorem aside_busyTestEnds {c : Channel} : Aside r (busyTestEnds c s) ↔ Aside r s := by
  unfold busyTestEnds
  try dsimp only
  repeat' split
  all_goals simp

@[simp] theorem aside_releaseWaitEnds {c : Channel} : Aside r (releaseWaitEnds c s) ↔ Aside r s := by
  unfold releaseWaitEnds
  try dsimp only
  repeat' split
  all_goals simp

end Sys2Proof.Machine
end

