-- ==== Sys2Proof/Laws/Wire.lean ====
section
/-! SUPPORT. The frame on the wire: every body fits, the receiver removes exactly what the sender inserted, and a frame
that passes the check fits its kind (R74 to R76, R78). -/

namespace Sys2Proof.Machine

/-- Every body fits within 20 bytes (R76). -/
theorem bodyBytes_length (b : FrameBody) : (bodyBytes b).length ≤ 20 := by
  simpa [bodyBytes] using Nat.le_of_lt_succ (Config.bodyLength b).isLt

/-- A receiver that has read `run` equal bits removes what a sender inserts after them (R74). -/
theorem removeBits_insertBits : ∀ (bits : List Bool) (last : Bool) (run : Nat), run < 5 →
    removeBits (insertBits bits last run) last run = some bits
  | [], _, run, h => by simp [insertBits, removeBits, Nat.ne_of_lt h]
  | b :: rest, last, run, h => by
    have hr : run ≠ 5 := Nat.ne_of_lt h
    by_cases hb : b = last
    · subst hb
      by_cases h4 : run = 4
      · subst h4
        have ih := removeBits_insertBits rest (!b) 1 (by decide)
        simp [insertBits, removeBits, ih]
      · have ih := removeBits_insertBits rest b (run + 1) (by omega)
        simp [insertBits, removeBits, h4, hr, ih]
    · have ih := removeBits_insertBits rest b 1 (by decide)
      simp [insertBits, removeBits, hb, hr, ih]

/-- A frame that passes the check is one that can have been sent (R78). -/
theorem checkFields_fits {bits : List Bool} {n : Station} {b : FrameBody} (h : checkFields bits = .passed n b) :
    frameFits n b = true := by
  unfold checkFields at h
  dsimp only at h
  split at h
  · cases h
  · split at h
    · cases h
    · split at h
      · cases h
      · next hs =>
        split at h
        · cases h
        · split at h
          · cases h
          · next hb =>
            split at h
            · cases h
              simp only [Bool.or_eq_true, not_or, Bool.not_eq_true, Bool.not_eq_false'] at hb hs
              simp [frameFits, hs, hb.1]
            · cases h

/-- See `checkFields_fits`. -/
theorem checkFrame_fits {read : List Bool} {n : Station} {b : FrameBody} (h : checkFrame read = .passed n b) :
    frameFits n b = true := by
  unfold checkFrame at h
  split at h
  · cases h
  · exact checkFields_fits h

end Sys2Proof.Machine
end

