-- ==== Sys2Proof/Tests/Slice0.lean ====
section
/-! SUPPORT. Tests: rows that are not well formed are refused by the check; for each statement of the certificates
that has premises, a concrete state and operands that meet them, clause by clause, at the ends of their ranges; and
single steps of a few rows. -/

namespace Sys2Proof.Tests
open Sys2Proof Sys2Proof.Machine

-- One test after the other: their evaluations side by side would need a thread's stack each.
set_option Elab.async false

/-! ### Small states -/

/-- A configured station 6 on the line with one loaded block, 2, whose trunks are 3 and 4. -/
def desk : State := { State.reset with
  port := { Port.initial with phase := .expectCommand }
  store := { Store.initial with
    configured := true, station := some 6
    blocks := Store.initial.blocks.set 2 (some ⟨[3, 4], 137, 52, 1, 4, 1, 0, 25⟩) }
  link := { Link.initial with state := .active } }

/-- `desk` with stations 3 and 9 in its roster. -/
def office : State := { desk with roster := [⟨3, 0, false, [], []⟩, ⟨9, 0, false, [], []⟩] }

/-- `office` with station 9's entry changed. -/
def office9 (f : Peer → Peer) : State := { desk with roster := [⟨3, 0, false, [], []⟩, f ⟨9, 0, false, [], []⟩] }

/-- `office` with a session on channel A, line 2048 over trunk 3. -/
def held (st : SessionState) (step : Option Nat) (p : Purpose := .operator) (s : State := office) : State :=
  s.updSession .a fun x =>
    { x with state := st, relayStep := step, purpose := p, line := 2048, block := 2, trunk := 3 }

/-- The port in a phase. -/
def inPhase (p : PortPhase) (s : State) : State := s.updPort fun q => { q with phase := p }

/-- `n` events that are no completions in the queue. -/
def withEvents (n : Nat) (s : State) : State :=
  s.updPort fun q => { q with events := List.replicate n { kind := .stepIdle } }

/-- The link in a state. -/
def linked (st : LinkState) (s : State) : State := s.updLink fun l => { l with state := st }

/-- A frame of a queue: a built body at urgency `u`, entry order `e`. -/
def frame (b : FrameBody) (u e : Nat) : QueuedFrame := ⟨.built b, u, u, e, 0, 0, false, none⟩

/-- `n` queued frames: releases, at urgency 0. -/
def releases (n : Nat) : List QueuedFrame := (List.range n).map fun e => frame (.release 0 0) 0 e

/-- `n` queued frames: quiets, at urgency 1. -/
def quiets (n : Nat) : List QueuedFrame := (List.range n).map fun e => frame (.quiet 0) 1 e

/-- A transmit queue of these frames. -/
def queued (q : List QueuedFrame) (s : State) : State :=
  s.updLink fun l => { l with queue := q, nextEntry := q.length }

/-- A frame of channel A on the wire, 3 voids and 7 losses counted. -/
def sent (b : FrameBody) (s : State) : State :=
  s.updLink fun l => { l with
    queue := [{ frame b (urgencyOf b) 0 with origin := some .a, losses := 7, voids := 3 }]
    nextEntry := 1, wire := some ⟨0, b, 0⟩ }

/-- A ticket with failing class SHORT and nothing else in it. -/
def ticket (n : TicketNo) (l : Line) (st : TicketState) : Ticket :=
  ⟨n, l, st, .short, 0, .manual, [], none, 0, false, false, false, none, none⟩

/-- A Ticket Store of these tickets. -/
def stored (l : List Ticket) (s : State) : State := s.updTickets fun t => { t with tickets := l }

/-- A result record in progress of a stage set. -/
def started (g : StageSet) : MeasureRecord :=
  ⟨g, 16, none, none, none, none, 0, none, none, none, none, none, none, false, false, none⟩

/-- The copies of an office at its defaults. -/
def copied : Copies := ⟨137, 52, 0, 25, 0, 0, Config.thresholdDefaults⟩

/-- A channel's measurement in a phase, with a request outstanding. -/
def running (p : MeasurePhase) (q : Option Reading) (g : StageSet) (s : State) : State :=
  s.updEngine .a fun e => { e with
    phase := p, copies := some copied, record := some (started g), request := q.map fun r => ⟨r, 40, 16, 0⟩ }

/-- A state at a time. -/
def atTime (n : Nat) (s : State) : State := { s with now := n }

/-- Every stage. -/
def allStages : StageSet := ⟨true, true, true, true, true⟩

/-- The FV stage alone. -/
def fvOnly : StageSet := ⟨true, false, false, false, false⟩

/-- A next state, or the state after reset where there is none. -/
def after (r : Result) : State :=
  match r with
  | .next s => s
  | .fault _ => .reset
  | .refused _ => .reset

/-! ### Facts that make a premise from decidable parts -/

/-- A frame is heard where the parts of `Heard` can be computed. -/
theorem heard_of_parts {s : State} {n : Station} {b : FrameBody}
    (h : s.onLine = true ∧ s.link.wire = none ∧ frameFits n b = true ∧ s.store.station ≠ some n ∧
      (s.peer n).isSome = true) : Heard s n b := ⟨h.1, h.2.1, h.2.2.1, h.2.2.2.1, h.2.2.2.2⟩

/-- A head request is due where the row's own test says so. -/
theorem headDue_of_timedOut {s : State} {c : Channel} (h : headTimedOut c s = true) : HeadDue s c :=
  headTimedOut_iff.1 h

/-- A head request is not due where the row's own test says so. -/
theorem not_headDue_of_timedOut {s : State} {c : Channel} (h : headTimedOut c s = false) : ¬ HeadDue s c := fun k =>
  Bool.false_ne_true (h.symm.trans (headTimedOut_iff.2 k))

/-- The transmit queue's limits from their parts. -/
theorem linkOk_of_parts {l : Link}
    (h : l.queue.length ≤ 12 ∧ lowCount l.queue ≤ 8 ∧
      (∀ f ∈ l.queue, f.voids ≤ 3 ∧ f.losses ≤ 8 ∧ f.entry < l.nextEntry) ∧
      (l.queue.map (·.entry)).Pairwise (· < ·) ∧ l.holding.length ≤ 4 ∧
      ∀ f ∈ l.waiting, queuedUrgency f.body = 0) : LinkOk l :=
  ⟨h.1, h.2.1, h.2.2.1, h.2.2.2.1, h.2.2.2.2.1, h.2.2.2.2.2⟩

/-- The roster's limits from their parts. -/
theorem rosterOk_of_parts {r : List Peer}
    (h : (r.map (·.station)).Pairwise (· < ·) ∧ ∀ p ∈ r, (1 ≤ p.station ∧ p.station ≤ 15) ∧ p.holdings.length ≤ 2 ∧
      (p.holdings.map fun h => (h.line, h.trunk)).Nodup ∧ p.quiets.length ≤ 2 ∧ (p.quiets.map (·.block)).Nodup) :
    RosterOk r :=
  ⟨h.1, fun p m => let ⟨a, b, c, d, e⟩ := h.2 p m; ⟨a, b, c, d, e⟩⟩

/-- The Ticket Store's limits from their parts. -/
theorem ticketsOk_of_parts {ts : TicketStore}
    (h : ts.tickets.length ≤ 96 ∧ (ts.tickets.map (·.number)).Nodup ∧ (ts.tickets.map (·.line)).Nodup ∧
      (∀ t ∈ ts.tickets, t.cls.failing = true ∧ t.observations.length ≤ 8 ∧ t.streak ≤ 2 ∧
        (t.state = .handover → t.handover.isSome = true) ∧
        (t.plan.isSome = true ↔ t.state = .retest ∨ (t.state = .handover ∧ t.handover.any (·.priorRetest) = true)) ∧
        t.plan.all (fun p => decide (1 ≤ p.interval ∧ p.interval ≤ 240 ∧ 1 ≤ p.remaining ∧ p.remaining ≤ 15)) = true) ∧
      ts.index.length ≤ 256 ∧ (ts.index.map (·.line)).Nodup ∧ (∀ t ∈ ts.tickets, ∀ e ∈ ts.index, t.line ≠ e.line) ∧
      ts.closedNotes.length ≤ 16 ∧ 1 ≤ ts.nextNumber ∧ ts.nextNumber ≤ 9999) : TicketsOk ts := by
  obtain ⟨a, b, c, d, e, f, g, i, j⟩ := h
  refine ⟨a, b, c, ?_, e, f, g, i, j⟩
  intro t m
  obtain ⟨p, q, r, u, v, w⟩ := d t m
  exact ⟨p, q, r, u, v, fun k hk => by simpa [planOk, hk] using w⟩

/-! ### Rows that are not well formed -/

/-- A station number, a ticket number and a body that fit are accepted at the ends of their ranges. -/
theorem test_wf_accepts :
    (Instr.peerSilent 1).wf = true ∧ (Instr.peerSilent 15).wf = true ∧ (Instr.foreignQuietLapse 15 0).wf = true ∧
    (Instr.handoverTimeout 1).wf = true ∧ (Instr.handoverTimeout 9999).wf = true ∧
    (Instr.claimTaken 1 0 0 .operator .a).wf = true ∧ Instr.softReset.wf = true := by decide

/-- A row that names no station is refused, whatever its frame. -/
theorem test_wf_refuses_a_station_out_of_range :
    (Instr.peerSilent 0).wf = false ∧ (Instr.peerSilent 16).wf = false ∧ (Instr.foreignQuietLapse 0 0).wf = false ∧
    (Instr.claimTaken 16 0 0 .operator .a).wf = false ∧ (Instr.releaseFrameTaken 0 0 0).wf = false ∧
    (Instr.quietTaken 16 0).wf = false ∧ (Instr.quietEndTaken 0 0).wf = false ∧
    (Instr.trunkNoticeTaken 16 0 true).wf = false ∧ (Instr.lostFrameHeard 0 (.quiet 0)).wf = false ∧
    (Instr.quietBusyTaken 3 0 0).wf = false ∧ (Instr.quietClearTaken 3 0 16).wf = false ∧
    (Instr.ticketAddTaken 3 16 1 0 ⟨.short, none⟩).wf = false ∧ (Instr.handAcceptTaken 3 0 1 1).wf = false ∧
    (Instr.handRefuseTaken 3 16 1 .full).wf = false := by decide

/-- A row with a ticket number outside 1–9,999 is refused. -/
theorem test_wf_refuses_a_ticket_number_out_of_range :
    (Instr.handoverTimeout 0).wf = false ∧ (Instr.handoverTimeout 10000).wf = false ∧
    (Instr.ticketAddTaken 3 6 0 0 ⟨.short, none⟩).wf = false ∧ (Instr.handAcceptTaken 3 6 10000 1).wf = false ∧
    (Instr.handAcceptTaken 3 6 1 0).wf = false ∧ (Instr.handRefuseTaken 3 6 0 .full).wf = false := by decide

/-- A frame whose body does not fit its kind is refused: lists too long or repeating, a note that is empty or names a
class that does not fail, values too large. -/
theorem test_wf_refuses_a_body_that_does_not_fit :
    (Instr.ticketNoteTaken 3 []).wf = false ∧ (Instr.ticketNoteTaken 3 [⟨0, 1, true, .pass⟩]).wf = false ∧
    (Instr.ticketNoteTaken 3 (List.replicate 5 ⟨0, 1, true, .short⟩)).wf = false ∧
    (Instr.presenceTaken 3 false [⟨0, 0, .operator⟩, ⟨0, 0, .sweep⟩] []).wf = false ∧
    (Instr.presenceTaken 3 false [⟨0, 0, .operator⟩, ⟨1, 0, .sweep⟩, ⟨2, 0, .sweep⟩] []).wf = false ∧
    (Instr.presenceTaken 3 false [] [1, 1]).wf = false ∧ (Instr.presenceTaken 3 false [] [1, 2, 3]).wf = false ∧
    (Instr.ticketAddTaken 3 6 1 0 ⟨.short, some ⟨.length, 4294967296⟩⟩).wf = false := by decide

/-- A HAND-OFFER is refused for its target, its number, its class, its age or its plan. -/
theorem test_wf_refuses_an_offer_that_does_not_fit :
    (∀ p ∈ [OfferPlan.mk 0 1 0, ⟨241, 1, 0⟩, ⟨1, 0, 0⟩, ⟨1, 16, 0⟩, ⟨1, 1, 4294967296⟩],
      (Instr.handOfferTaken 3 ⟨6, 1, 0, .short, 0, some p, ⟨.short, none⟩⟩).wf = false) ∧
    (Instr.handOfferTaken 3 ⟨0, 1, 0, .short, 0, none, ⟨.short, none⟩⟩).wf = false ∧
    (Instr.handOfferTaken 3 ⟨6, 0, 0, .short, 0, none, ⟨.short, none⟩⟩).wf = false ∧
    (Instr.handOfferTaken 3 ⟨6, 1, 0, .pass, 0, none, ⟨.short, none⟩⟩).wf = false ∧
    (Instr.handOfferTaken 3 ⟨6, 1, 0, .short, 4294967296, none, ⟨.short, none⟩⟩).wf = false := by decide

/-! ### Premises that are met: steps, resets and the port -/

/-- A row at the front, and an empty queue. -/
theorem test_meets_StepRunsTheRowAtTheFront :
    { desk with pending := [.unlock, .stop] }.pending = .unlock :: [.stop] ∧ desk.pending = [] := by decide

/-- An event row that answers. -/
theorem test_meets_EveryRowAnswersAndEventsKeepTheSettings :
    eventRow (.holdSet .a) = true ∧ ∃ t, exec (.holdSet .a) desk = .next t := ⟨by decide, _, rfl⟩

/-- The part in STARTING with no soft reset, and its start-up's end. -/
theorem test_meets_HardwareResetLeavesEveryBlockAtItsResetValues :
    State.reset.port.phase = .starting ∧ State.reset.softReset = none ∧
    ∃ t, exec .startupEnd State.reset = .next t := ⟨rfl, rfl, _, rfl⟩

/-- STARTING and the phase after it. -/
theorem test_meets_StatusByteShowsPhaseEventsBusyAndDone :
    State.reset.port.phase = .starting ∧ desk.port.phase ≠ .starting := by decide

/-- Each phase a byte may come in, with bytes 0 and 255 and with one and 255 argument bytes left. -/
theorem test_meets_ByteWritesFollowThePhases :
    let counting := (inPhase .expectCount desk).updPort fun p => { p with command := some .access }
    let args (n : Nat) := (inPhase .expectArgument desk).updPort fun p =>
      { p with command := some .access, remaining := n }
    desk.port.phase = .expectCommand ∧
    (counting.port.phase = .expectCount ∧ counting.port.command = some .access) ∧ (255 : Byte) ≠ 0 ∧ (0 : Byte) = 0 ∧
    (∀ n ∈ [1, 2, 255], (args n).port.phase = .expectArgument ∧ (args n).port.command = some .access) ∧
    2 ≤ (args 2).port.remaining ∧ 2 ≤ (args 255).port.remaining ∧ (args 1).port.remaining = 1 ∧
    State.reset.port.phase = .starting ∧ (inPhase .working desk).port.phase = .working ∧
    (inPhase .result desk).port.phase = .result := by decide

/-- A command without arguments given one byte and none; fixed counts missed by one and fewest counts short by one;
stations 0, 1, 15 and 16; a flag byte of 2 and of 255, of 0 and of 1; a stage set byte with a bit outside the five, one
that names no stage and one that names a stage alone; and a byte, which names a channel or none. -/
theorem test_meets_LastByteTakesTheCommand :
    let stray (g : Byte) := ∃ i : Fin 8, g.getLsbD i.val = true ∧ ∀ j, Config.stageBit j ≠ i
    let names (g : Byte) := ∃ j, g.getLsbD (Config.stageBit j).val = true
    nullaryRequest .unlock = some .unlock ∧ [(1 : Byte)] ≠ [] ∧ ([] : List Byte) = [] ∧
    formCheck .unlock [] = .fits .unlock ∧ nullaryRequest .access = none ∧
    [1, 2, (3 : Byte)].length ≠ 4 ∧ [1, 2, 3, 4, (5 : Byte)].length ≠ 4 ∧ [1, 2, (3 : Byte)].length ≠ 5 ∧
    [1, 2, (3 : Byte)].length < 4 ∧
    (∀ n ∈ [(0 : Byte), 16], ¬ (1 ≤ n.toNat ∧ n.toNat ≤ 15)) ∧ (∀ n ∈ [(1 : Byte), 15], 1 ≤ n.toNat ∧ n.toNat ≤ 15) ∧
    (∀ f ∈ [(2 : Byte), 255], ¬ (f = 0 ∨ f = 1)) ∧ (∀ f ∈ [(0 : Byte), 1], f = 0 ∨ f = 1) ∧
    stray 255 ∧ (¬ stray 0 ∧ ¬ names 0) ∧ (∃ g, ¬ stray g ∧ names g) ∧
    ((∃ d, Config.channelOfByte 1 = some d) ∨ Config.channelOfByte 1 = none) := by
  refine ⟨by decide, by decide, rfl, by decide, by decide, by decide, by decide, by decide, by decide, by decide,
    by decide, by decide, by decide, ?_, by simp, ⟨BitVec.twoPow 8 (Config.stageBit 0).val, ?_, 0, by simp⟩, ?_⟩
  · have h : ¬ Function.Surjective Config.stageBit := fun h => by
      simpa using Fintype.card_le_of_surjective _ h
    obtain ⟨i, hi⟩ := not_forall.mp h
    exact ⟨i, (by decide : ∀ i : Fin 8, (255 : Byte).getLsbD i.val = true) i, fun j e => hi ⟨j, e⟩⟩
  · rintro ⟨i, h, hi⟩
    exact hi 0 (Fin.ext (by simpa using h)).symm
  · cases Config.channelOfByte 1 with
    | none => exact .inr rfl
    | some d => exact .inl ⟨d, rfl⟩

/-- A command that is no SOFT RESET, in EXPECT-COMMAND and in every other phase. -/
theorem test_meets_CommandRowsAreTakenInExpectCommandOnly :
    Request.unlock ≠ .softReset ∧ desk.port.phase = .expectCommand ∧
    ∀ p ∈ [PortPhase.starting, .expectCount, .expectArgument, .working, .result],
      (inPhase p desk).port.phase ≠ .expectCommand := by decide

/-- A result of STATUS DETAIL, a refused one among them, and one of another command that is no report of it. -/
theorem test_meets_ResultIsCodeCountAndBytes :
    (some CommandName.statusDetail = some .statusDetail) ∧ some CommandName.access ≠ some .statusDetail ∧
    (∀ r, Answer.badCommand ≠ .accepted (.status r)) ∧ ∃ r, (takeStatusDetail desk).1 = .accepted (.status r) :=
  ⟨rfl, by decide, fun r => by simp, _, rfl⟩

/-- A value that is no trunk; an event with counts and without; a session with no last result; a ticket with nothing in
it; a value of each part of an event's first row. -/
theorem test_meets_ResultIsCodeCountAndBytes_fields :
    (∀ t, AnswerValues.nothing ≠ .trunk t) ∧
    (∀ k ∈ [none, some (0, 0, 0), some (65535, 65535, 65535)],
      ({ kind := .sweepDone, counts := k } : Event).deciding = none ∧
      ({ kind := .sweepDone, counts := k } : Event).counts = k) ∧
    (sessionReport (desk.chan .a).session).lastResult = none ∧
    (let t := ticket 1 2048 .opened;
      t.observations = [] ∧ t.plan = none ∧ t.handover = none ∧ t.previousOwner = none) :=
  ⟨fun t => by simp, by decide, by decide, by decide⟩

/-- Results of two bytes and of one, and a port that holds none. -/
theorem test_meets_ResultIsCodeCountAndBytes_reads :
    let holds (l : List Byte) := (inPhase .result desk).updPort fun p => { p with result := l }
    (holds [7, 8]).port.phase = .result ∧ (holds [7, 8]).port.result = 7 :: 8 :: [] ∧
    (holds [7]).port.phase = .result ∧ (holds [7]).port.result = [7] ∧ desk.port.phase ≠ .result := by decide

/-- A phase a port clear ends, and STARTING. -/
theorem test_meets_PortClearReturnsThePortToExpectCommand :
    (inPhase .working desk).port.phase ≠ .starting ∧ State.reset.port.phase = .starting := by decide

/-- 29 and 30 general slots in use; a free completion slot and a completion. -/
theorem test_meets_EventsEnterOrAreCountedAsLost :
    generalCount (withEvents 29 desk).port.events < 30 ∧ 30 ≤ generalCount (withEvents 30 desk).port.events ∧
    (withEvents 30 desk).done .a = false ∧ EventKind.isCompletion .accessDone = true := by decide

/-- An empty queue and one with two events. -/
theorem test_meets_EventsEnterOrAreCountedAsLost_take :
    desk.port.phase = .expectCommand ∧ desk.port.events = [] ∧
    (withEvents 2 desk).port.phase = .expectCommand ∧
    (withEvents 2 desk).port.events = { kind := .stepIdle } :: [{ kind := .stepIdle }] := by decide

/-- Tickets that are there, first and last of a list of three, and one that is not. -/
theorem test_meets_ReadingCommandsChangeNothing :
    let t := fun n : Nat => ticket n (Fin.ofNat 65536 n) .opened
    let s := stored [t 1, t 2, t 9999] desk
    s.port.phase = .expectCommand ∧ s.ticketStore.byNumber 1 = some (t 1) ∧ s.ticketStore.byNumber 9998 = none ∧
    (s.ticketStore.tickets = [] ++ t 1 :: [t 2, t 9999] ∧ (t 1).number ≠ 0 ∧ ∀ u ∈ ([] : List Ticket), u.number ≠ 1) ∧
    (s.ticketStore.tickets = [t 1, t 2] ++ t 9999 :: [] ∧ ∀ u ∈ [t 1, t 2], u.number ≠ 9999) ∧
    (9998 : TicketNo) ≠ 0 := by decide

/-! ### Premises that are met: the Configuration Store -/

/-- Two idle sessions and a halted engine; a session; an engine at work. -/
theorem test_meets_UnlockClearsTheLockOnly :
    desk.port.phase = .expectCommand ∧ (∀ c, (desk.chan c).session.state = .idle) ∧ desk.auto.run = .halted ∧
    (∃ c, ((held .guard none).chan c).session.state ≠ .idle) ∧
    { desk with auto := { desk.auto with run := .stopping } }.auto.run ≠ .halted :=
  ⟨by decide, fun c => by cases c <;> decide, by decide, ⟨.a, by decide⟩, by decide⟩

/-- The lock set and clear; block 64; lists of none, of five, with trunk 16; lists of one and four; a block with a
session and one without; a list with a trunk and its second copy. -/
theorem test_meets_LoadsStoreTheClampedValues :
    desk.port.phase = .expectCommand ∧ (desk.updStore fun r => { r with lock := true }).store.lock = true ∧
    desk.store.lock = false ∧ 64 ≤ 64 ∧
    (∃ n ∈ [15, 16], 16 ≤ n) ∧ ([] : List Nat) = [] ∧ 4 < [0, 1, 2, 3, 4].length ∧
    (1 ≤ [(15 : Trunk)].length ∧ [(15 : Trunk)].length ≤ 4) ∧
    (1 ≤ [(0 : Trunk), 0, 1, 2].length ∧ [(0 : Trunk), 0, 1, 2].length ≤ 4) ∧
    sessionOnBlock (held .claiming none) 2 = true ∧ sessionOnBlock (held .claiming none) 63 = false ∧
    (5 : Trunk) ∉ [(1 : Trunk)] := by decide

/-- The lock set and clear; trunk 16 and trunk 15. -/
theorem test_meets_LoadsStoreTheClampedValues_trunk :
    desk.port.phase = .expectCommand ∧ (desk.updStore fun r => { r with lock := true }).store.lock = true ∧
    desk.store.lock = false ∧ 16 ≤ 16 ∧ 15 = (15 : Trunk).val := by decide

/-- The lock set and clear. -/
theorem test_meets_SetThresholdsClampsAllSeven :
    desk.port.phase = .expectCommand ∧ (desk.updStore fun r => { r with lock := true }).store.lock = true ∧
    desk.store.lock = false := by decide

/-- A part at work, one in a soft reset, one in start-up; rows that answer. -/
theorem test_meets_OfficeClockCountsAndIsSet :
    desk.port.phase ≠ .starting ∧ { State.reset with softReset := some ⟨true, false⟩ }.softReset.isSome = true ∧
    State.reset.port.phase = .starting ∧ State.reset.softReset = none ∧ desk.port.phase = .expectCommand ∧
    (∃ t, exec .softReset desk = .next t) ∧ ∃ t, exec .softResetEnd desk = .next t :=
  ⟨by decide, by decide, rfl, rfl, by decide, ⟨_, rfl⟩, ⟨_, rfl⟩⟩

/-- `office` with trunk 3 in a condition, and 29 general slots of the event queue in use. -/
def trunkIn (k : TrunkCondition) (streak : Nat) (d : Option DeclaredBy) : State :=
  withEvents 29 (office.setTrunk 3 ⟨k, streak, d, 0, 0⟩)

/-- Each condition a trunk can be in, on the line and off it, at each streak; notices heard, of a trunk no queued claim
takes. -/
theorem test_meets_TrunkConditionsFollowTheirCauses :
    office.port.phase = .expectCommand ∧ 16 ≤ 16 ∧
    ((trunkIn .inService 0 none).trunkEntry 3).condition = .inService ∧
    ((trunkIn .suspect 1 none).trunkEntry 3).condition = .suspect ∧
    ((trunkIn .suspect 1 none).trunkEntry 3).streak = 1 ∧ ((trunkIn .suspect 2 none).trunkEntry 3).streak = 2 ∧
    ((trunkIn .out 3 (some .self)).trunkEntry 3).condition = .out ∧ (trunkIn .out 3 (some .self)).onLine = true ∧
    (linked .lost (trunkIn .out 3 (some .self))).onLine = false ∧
    ((trunkIn .out 3 none).trunkEntry 3).condition ≠ .suspect ∧
    Heard (trunkIn .out 3 none) 9 (.trunkNotice 3 true) ∧ Heard (trunkIn .inService 0 none) 9 (.trunkNotice 3 true) ∧
    Heard (trunkIn .out 3 none) 9 (.trunkNotice 3 false) ∧
    Heard (trunkIn .inService 0 none) 9 (.trunkNotice 3 false) ∧
    ((trunkIn .out 3 none).trunkEntry 3).condition ≠ .inService ∧
    ((trunkIn .inService 0 none).trunkEntry 3).condition ≠ .out ∧
    (∀ c, ((trunkIn .inService 0 none).chan c).claim.stage = .none) ∧
    generalCount (trunkIn .out 3 none).port.events < 30 ∧
    generalCount (trunkIn .inService 0 none).port.events < 30 := by
  refine ⟨by decide, by decide, by decide, by decide, by decide, by decide, by decide, by decide, by decide,
    by decide, heard_of_parts (by decide), heard_of_parts (by decide), heard_of_parts (by decide),
    heard_of_parts (by decide), by decide, by decide, fun c => by cases c <;> decide, by decide, by decide⟩

/-- A notice heard that takes trunk 3 OUT while channel A's claim names it: none, HELD, ON-WIRE, and QUEUED with another
trunk free, with none free, and automatic in a step of the engine. -/
theorem test_meets_TrunkConditionsFollowTheirCauses_withdrawn :
    let f (p : Purpose) : QueuedFrame := { frame (.claim 2048 3 p .a) 1 0 with origin := some .a }
    let own (st : ClaimStage) (p : Purpose) : State := (((queued [f p] (held .claiming none p)).updClaim .a fun q =>
      { q with stage := st }).setCommand .a (some .access)).updAuto fun a => { a with
        run := .stepping, item := some ⟨.sweep, 2048, none, fvOnly, 0, false, none, false⟩ }
    let gone (s : State) : State := s.setTrunk 3 { s.trunkEntry 3 with condition := .out, declaredBy := some (.station 9) }
    (∀ st ∈ [ClaimStage.none, .held, .onWire, .queued], ∀ p ∈ [Purpose.operator, .sweep],
      Heard (own st p) 9 (.trunkNotice 3 true) ∧ ((own st p).trunkEntry 3).condition ≠ .out ∧
      ((own st p).chan .a).session.trunk = 3 ∧ ((own st p).chan .b).session.trunk ≠ 3 ∧
      ((own st p).chan .a).claim.stage = st ∧ (own st p).link.claimFrame .a = some (f p)) ∧
    chooseRoute (gone (own .queued .operator)) 2048 = .trunk 4 ∧
    (let s := (own .queued .operator).setTrunk 4 ⟨.out, 3, none, 0, 0⟩
     chooseRoute (gone s) 2048 = .noTrunk ∧ (s.chan .a).session.cancelPending = false ∧
      (s.chan .a).command = some .access ∧ s.done .a = false) ∧
    (let s := own .queued .sweep
     (s.chan .a).session.purpose ≠ .operator ∧ s.auto.run = .stepping ∧ s.auto.item.isSome = true) := by
  refine ⟨fun st hst p hp => ?_, by decide +kernel, by decide +kernel, by decide⟩
  simp only [List.mem_cons, List.not_mem_nil, or_false] at hst hp
  obtain rfl | rfl | rfl | rfl := hst <;> obtain rfl | rfl := hp <;>
    exact ⟨heard_of_parts (by decide), by decide, by decide, by decide, by decide, by decide⟩

/-- A loaded block and an absent one; a choice of an IN-SERVICE trunk, of a SUSPECT one, and none. -/
theorem test_meets_RouteChoiceTakesTheFirstFreeTrunk :
    let e : BlockEntry := ⟨[3, 4], 137, 52, 1, 4, 1, 0, 25⟩
    desk.blockEntry (blockOf 2048) = some e ∧ desk.blockEntry (blockOf 3071) = some e ∧
    desk.blockEntry (blockOf 3072) = none ∧ chooseRoute desk 2048 = .trunk 3 ∧
    chooseRoute ((desk.setTrunk 3 ⟨.suspect, 1, none, 0, 0⟩).setTrunk 4 ⟨.out, 3, some .self, 0, 0⟩) 2048 = .trunk 3 ∧
    chooseRoute ((desk.setTrunk 3 ⟨.out, 3, none, 0, 0⟩).setTrunk 4 ⟨.out, 3, none, 0, 0⟩) 2048 = .noTrunk := by
  decide

/-- Station numbers 0, 16, 1 and 15; each later check failing alone; all passing, on a line OFF and on one ACTIVE. -/
theorem test_meets_ConfigureJoinsTheLine :
    desk.port.phase = .expectCommand ∧ stationOk 0 = false ∧ stationOk 16 = false ∧ stationOk 1 = true ∧
    stationOk 15 = true ∧ AutoChannelArg.other = .other ∧ AutoChannelArg.none ≠ .other ∧
    (desk.updStore fun r => { r with lock := true }).store.lock = true ∧ desk.store.lock = false ∧
    (∃ c, ((held .guard none).chan c).session.state ≠ .idle) ∧ (∀ c, (desk.chan c).session.state = .idle) ∧
    (desk.link.state ≠ .off ∧ desk.link.state ≠ .mute) ∧
    ((linked .mute desk).link.state = .mute ∧ (linked .mute desk).store.station = some 6) :=
  ⟨by decide, by decide, by decide, by decide, by decide, by decide, by decide, by decide, by decide,
    ⟨.a, by decide⟩, fun c => by cases c <;> decide, by decide, by decide⟩

/-! ### Premises that are met: sessions -/

/-- A command under way on a channel. -/
def commanded (k : ChannelCommand) (s : State) : State := s.setCommand .a (some k)

/-- A completion of channel A in the event queue. -/
def completed (s : State) : State :=
  s.updPort fun q => { q with events := [{ kind := .accessDone, channel := some .a }] }

/-- `office` with the watched pair held by station 9. -/
def heldIn9 (l : Line) (t : Trunk) : State := office9 fun p => { p with holdings := [⟨l, t, .operator⟩] }

/-- The checks of ACCESS up to the link passed on channel A. -/
abbrev idleA (s : State) : Prop := s.store.configured = true ∧ s.busy .a = false ∧ s.done .a = false ∧
  (s.chan .a).session.state = .idle ∧ (s.store.autoChannel = some .a → s.auto.run = .halted)

/-- The checks of ACCESS up to the view passed on channel A. -/
abbrev upA (s : State) : Prop := idleA s ∧ s.link.state = .active

/-- The checks of ACCESS up to the other session passed on channel A. -/
abbrev viewA (s : State) (l : Line) : Prop := upA s ∧ ∀ p ∈ s.roster, ∀ h ∈ p.holdings, h.line ≠ l

/-- The checks of ACCESS up to the route passed on channel A. -/
abbrev freeA (s : State) (l : Line) : Prop := viewA s l ∧
  ((s.chan .b).session.state = .idle ∨ (s.chan .b).session.line ≠ l)

/-- `office` with automatic channel A and the engine frozen. -/
def autoA : State :=
  (office.updStore fun r => { r with autoChannel := some .a }).updAuto fun a => { a with run := .frozen }

/-- `office` with line 2048 held by channel B. -/
def lineOnB : State := office.updSession .b fun x => { x with state := .claiming, line := 2048, block := 2, trunk := 3 }

/-- `office` with both trunks of block 2 OUT. -/
def trunksOut : State := (office.setTrunk 3 ⟨.out, 3, none, 0, 0⟩).setTrunk 4 ⟨.out, 3, none, 0, 0⟩

/-- `office` with an urgency-0 frame that waits for a slot. -/
def waiting : State := office.updLink fun l => { l with waiting := [frame (.release 0 0) 0 0] }

/-- Each check of ACCESS failing with every earlier one passed: for lines 2048 and 3071, at the queue's limits of 8 and
12, with a frame waiting. -/
theorem test_meets_AccessIsRefusedByItsFirstFailedCheck :
    (desk.port.phase = .expectCommand ∧ State.reset.store.configured = false) ∧
    ((commanded .access office).store.configured = true ∧ (commanded .access office).busy .a = true) ∧
    ((completed office).store.configured = true ∧ (completed office).done .a = true) ∧
    ((held .claimed none).store.configured = true ∧ (held .claimed none).busy .a = false ∧
      (held .claimed none).done .a = false ∧ ((held .claimed none).chan .a).session.state ≠ .idle) ∧
    (autoA.store.configured = true ∧ autoA.busy .a = false ∧ autoA.done .a = false ∧
      (autoA.chan .a).session.state = .idle ∧ autoA.store.autoChannel = some .a ∧ autoA.auto.run ≠ .halted) ∧
    (idleA (linked .joining office) ∧ (linked .joining office).link.state ≠ .active) ∧
    (upA (heldIn9 2048 0) ∧ (heldIn9 2048 0).roster = [⟨3, 0, false, [], []⟩] ++
        ⟨9, 0, false, [⟨2048, 0, .operator⟩], []⟩ :: [] ∧
      (∃ h ∈ [Holding.mk 2048 0 .operator], h.line = 2048) ∧
      ∀ q ∈ [Peer.mk 3 0 false [] []], ∀ h ∈ q.holdings, h.line ≠ 2048) ∧
    (viewA lineOnB 2048 ∧ (lineOnB.chan .b).session.state ≠ .idle ∧ (lineOnB.chan .b).session.line = 2048) ∧
    (freeA office 3072 ∧ chooseRoute office 3072 = .noRoute) ∧
    (freeA trunksOut 3071 ∧ chooseRoute trunksOut 3071 = .noTrunk) ∧
    (∀ s ∈ [queued (quiets 8) office, queued (releases 12) office, waiting],
      freeA s 2048 ∧ chooseRoute s 2048 = .trunk 3 ∧
      (8 ≤ lowCount s.link.queue ∨ 12 ≤ s.link.queue.length ∨ s.link.waiting ≠ [])) :=
  ⟨by decide, by decide, by decide, by decide, by decide, by decide, by decide, by decide, by decide +kernel,
    by decide +kernel⟩

/-- ACCESS with every check passed, 7 frames of urgency 1–3 and 4 others in the queue. -/
theorem test_meets_AccessBeginsTheSession :
    let s := queued (quiets 7 ++ releases 4) office
    s.port.phase = .expectCommand ∧ s.store.configured = true ∧ s.busy .a = false ∧ s.done .a = false ∧
    (s.chan .a).session.state = .idle ∧ (s.store.autoChannel = some .a → s.auto.run = .halted) ∧
    s.link.state = .active ∧ (∀ p ∈ s.roster, ∀ h ∈ p.holdings, h.line ≠ 2048) ∧
    ((s.chan .b).session.state = .idle ∨ (s.chan .b).session.line ≠ 2048) ∧ chooseRoute s 2048 = .trunk 3 ∧
    lowCount s.link.queue < 8 ∧ s.link.queue.length < 12 ∧ s.link.waiting = [] := by decide +kernel

/-- Each check of RELEASE failing with every earlier one passed, and none failing. -/
theorem test_meets_ReleaseBeginsTheReleaseSequence :
    let op (s : State) := (s.chan .a).session.state ≠ .idle ∧ (s.chan .a).session.purpose = .operator
    desk.port.phase = .expectCommand ∧ (desk.chan .a).session.state = .idle ∧
    ((((held .connected (some 5) .retest).chan .a).session.state ≠ .idle) ∧
      ((held .connected (some 5) .retest).chan .a).session.purpose ≠ .operator) ∧
    (op (commanded .measure (held .measuring (some 5))) ∧
      (commanded .measure (held .measuring (some 5))).busy .a = true) ∧
    (op (completed (held .connected (some 5))) ∧ (completed (held .connected (some 5))).done .a = true) ∧
    (op (held .guard none) ∧ (held .guard none).busy .a = false ∧ (held .guard none).done .a = false ∧
      ((held .guard none).chan .a).session.state ≠ .connected) ∧
    (op (held .connected (some 5)) ∧ (held .connected (some 5)).busy .a = false ∧
      (held .connected (some 5)).done .a = false ∧ ((held .connected (some 5)).chan .a).session.state = .connected ∧
      quietHolder (held .connected (some 5)) 2 = none) := by decide

/-- A CLAIM of channel A as the queue's only frame, on the wire or not. -/
def claiming (wire : Bool) (p : Purpose := .operator) : State :=
  ((held .claiming none p).updClaim .a fun k => { k with stage := if wire then .onWire else .queued }).updLink fun l =>
    { l with
      queue := [{ frame (.claim 2048 3 p .a) 1 0 with origin := some .a }], nextEntry := 1
      wire := if wire then some ⟨0, .claim 2048 3 p .a, 0⟩ else none }

/-- The states CANCEL may find: an automatic session, no command, each command, a claim off and on the wire, a session
before its relay steps and at steps 1 and 5. -/
theorem test_meets_CancelReversesTheAccess :
    let f : QueuedFrame := { frame (.claim 2048 3 .operator .a) 1 0 with origin := some .a }
    let open_ (s : State) := s.port.phase = .expectCommand ∧ (s.chan .a).session.isAutomatic = false ∧
      (s.chan .a).command = some .access ∧ (s.chan .a).seq.outcome = none
    let at_ (st : SessionState) (k : Option Nat) := commanded .access (held st k)
    ((held .claimed none .sweep).chan .a).session.isAutomatic = true ∧
    ((desk.chan .a).session.isAutomatic = false ∧ (desk.chan .a).command = none) ∧
    ((commanded .release (held .releasing (some 5))).chan .a).command = some .release ∧
    (((at_ .releasing (some 3)).updSeq .a fun q => { q with outcome := some .cancelled }).chan .a).seq.outcome.isSome
      = true ∧
    (let s := commanded .access (claiming false);
      open_ s ∧ (s.chan .a).session.state = .claiming ∧ (s.chan .a).session.purpose = .operator ∧
      s.link.claimFrame .a = some f ∧ s.link.onWire f = false ∧ s.done .a = false) ∧
    (let s := commanded .access (claiming true);
      open_ s ∧ (s.chan .a).session.state = .claiming ∧ s.link.claimFrame .a = some f ∧ s.link.onWire f = true) ∧
    (open_ (at_ .claimed none) ∧ ((at_ .claimed none).chan .a).session.state = .claimed) ∧
    (open_ (at_ .deferred none) ∧ ((at_ .deferred none).chan .a).session.state = .deferred ∧
      ((at_ .deferred none).chan .a).session.relayStep = none) ∧
    (∀ n ∈ [1, 3, 5], open_ (at_ .connecting (some n)) ∧
      ((at_ .connecting (some n)).chan .a).session.state = .connecting ∧
      ((at_ .connecting (some n)).chan .a).session.relayStep = some n) := by decide

/-- Each check of MEASURE failing with every earlier one passed, and none failing, with a quiet needed and not. -/
theorem test_meets_MeasureIsCheckedAndStarts :
    let s := held .connected (some 5)
    let op (s : State) := (s.chan .a).session.state ≠ .idle ∧ (s.chan .a).session.purpose = .operator
    s.port.phase = .expectCommand ∧ StageSet.isEmpty ⟨false, false, false, false, false⟩ = true ∧
    fvOnly.isEmpty = false ∧ (desk.chan .a).session.state = .idle ∧
    ((((held .connected (some 5) .sweep).chan .a).session.state ≠ .idle) ∧
      ((held .connected (some 5) .sweep).chan .a).session.purpose ≠ .operator) ∧
    (op (commanded .release s) ∧ (commanded .release s).busy .a = true) ∧
    (op (completed s) ∧ (completed s).done .a = true) ∧
    (op (held .guard none) ∧ (held .guard none).busy .a = false ∧ (held .guard none).done .a = false ∧
      ((held .guard none).chan .a).session.state ≠ .connected) ∧
    (op s ∧ s.busy .a = false ∧ s.done .a = false ∧ (s.chan .a).session.state = .connected ∧
      (s.chan .a).quiet.phase = .none) ∧
    (fvOnly.cap = false ∧ fvOnly.resTG = false ∧ fvOnly.resRG = false) ∧ allStages.cap = true := by decide

/-- A session at the end of step 2 on a block that station 9 has quieted, and on a free one. -/
theorem test_meets_ConnectStepsFollowTheGoRuleTimersAndLines_go :
    let quieted := held .connecting (some 2) .operator (office9 fun p => { p with quiets := [⟨2, 10500⟩] })
    let s := held .connecting (some 2)
    ((quieted.chan .a).session.state = .connecting ∧ (quieted.chan .a).session.relayStep = some 2 ∧
      quietedBy quieted .a 2 = some (.station 9)) ∧
    ((s.chan .a).session.state = .connecting ∧ (s.chan .a).session.relayStep = some 2 ∧ quietedBy s .a 2 = none ∧
      (s.chan .a).session.frozenAtClaim = false) := by decide

/-- Steps 1, 3 and 5 with the flags each clause names; a setup wait of 0 and one of more; a confirm with no operate
pending. -/
theorem test_meets_ConnectStepsFollowTheGoRuleTimersAndLines :
    let zero := held .connecting (some 1) .operator
      (office.setBlock 2 (some ⟨[3, 4], 137, 52, 0, 4, 1, 0, 25⟩))
    let step (n : Nat) (f : Sequencer → Sequencer) (g : Pins → Pins) :=
      ((held .connecting (some n)).updSeq .a f).updPins .a g
    (((held .connecting (some 1)).chan .a).session.state = .connecting ∧
      ((held .connecting (some 1)).chan .a).session.relayStep = some 1 ∧
      (held .connecting (some 1)).setupTime 2 = 9 + 1) ∧
    ((zero.chan .a).session.state = .connecting ∧ (zero.chan .a).session.relayStep = some 1 ∧
      zero.setupTime 2 = 0) ∧
    (∀ n ∈ [3, 5], ∀ b ∈ [true, false], (let s := step n (fun q => { q with operateElapsed := b }) id;
      (s.chan .a).session.state = .connecting ∧ (s.chan .a).session.relayStep = some n ∧ (n = 3 ∨ n = 5) ∧
      (s.chan .a).session.purpose = .operator ∧ (s.chan .a).seq.operateElapsed = b ∧
      (s.chan .a).seq.confirmTaken = false ∧ (s.chan .a).pins.hold = false)) ∧
    (∀ n ∈ [3, 5], let s := step n (fun q => { q with confirmTaken := true }) id;
      (s.chan .a).session.relayStep = some n ∧ (s.chan .a).seq.operateElapsed = false ∧
      (s.chan .a).seq.confirmTaken = true) ∧
    (∀ n ∈ [3, 5], let s := step n id fun p => { p with hold := true };
      (s.chan .a).session.relayStep = some n ∧ (s.chan .a).seq.confirmTaken = false ∧ (s.chan .a).pins.hold = true) ∧
    (∀ n ∈ [3, 5],
      let s := step n (fun q => { q with confirmHeldBack := true, operateElapsed := true })
        fun p => { p with hold := true, confirm := true }
      (s.chan .a).session.relayStep = some n ∧ (s.chan .a).seq.confirmTaken = false ∧
      (s.chan .a).seq.confirmHeldBack = true ∧ (s.chan .a).pins.confirm = true ∧
      (s.chan .a).seq.operateElapsed = true) ∧
    ((desk.chan .a).session.state ≠ .connecting ∧ (desk.chan .a).seq.abandoned = none) ∧
    (desk.chan .a).seq.confirmHeldBack = false := by decide

/-- Step 5 with a clear owed or none, on an open or a closed loop, by what its relay side and its lines show. -/
def stepFive (p : Purpose) (owed : List OwedClear) (closed : Bool) (f : Sequencer → Sequencer) (g : Pins → Pins) :
    State :=
  let s := ((queued (releases 11) (held .connecting (some 5) p)).updClears .a fun _ => owed).updSeq .a f
  withEvents 29 (((s.updPins .a g).updPins .a fun q => { q with loopClosed := closed }).updAuto fun a => { a with
    item := some ⟨.sweep, 2048, none, fvOnly, 0, false, none, false⟩ })

/-- Step 5 of an operator and of an automatic session: with no clear owed, and with one owed beside one queued; the
loop open and closed, 29 general slots in use; its confirm taken, and its wait elapsed. -/
theorem test_meets_StepFiveEndsInConnected :
    ∀ p ∈ [Purpose.operator, .sweep], ∀ o ∈ [[], [OwedClear.mk 2 9 true true, ⟨2, 3, true, false⟩]],
      ∀ b ∈ [true, false], ∀ k ∈ [true, false],
      let t := stepFive p o b (fun q => { q with confirmTaken := k, operateElapsed := !k }) id
      (t.chan .a).session.state = .connecting ∧ (t.chan .a).session.relayStep = some 5 ∧
      (t.chan .a).session.purpose = p ∧ (t.chan .a).pins.loopClosed = b ∧ (t.chan .a).seq.confirmTaken = k ∧
      (t.chan .a).seq.operateElapsed = (!k) ∧ (t.chan .a).pins.hold = false ∧ t.auto.item.isSome = true ∧
      t.link.waiting = [] ∧
      t.link.queue.length + ((t.chan .a).clears.filter fun k => !k.clearQueued).length ≤ 12 ∧ t.done .a = false ∧
      (t.trunkEntry (t.chan .a).session.trunk).condition ≠ .suspect ∧ generalCount t.port.events < 30 := by
  decide +kernel

/-- Step 5 ended by hold clearing over a confirm that still stands. -/
theorem test_meets_StepFiveEndsInConnected_hold :
    let t := stepFive .operator [] false (fun q => { q with operateElapsed := true, confirmHeldBack := true })
      fun q => { q with hold := true, confirm := true }
    (t.chan .a).session.state = .connecting ∧ (t.chan .a).session.relayStep = some 5 ∧
    (t.chan .a).seq.operateElapsed = true ∧ (t.chan .a).seq.confirmTaken = false ∧
    (t.chan .a).seq.confirmHeldBack = true ∧ (t.chan .a).pins.confirm = true := by decide

/-- Steps 3 and 5 with no confirm; an abandoned operate of each and 29 general slots in use. -/
theorem test_meets_ConfirmTimeoutAbandonsTheOperate :
    (∀ n ∈ [3, 5], let s := (held .connecting (some n)).updClaim .a fun k => { k with stage := .held };
      (s.chan .a).session.state = .connecting ∧ (s.chan .a).session.relayStep = some n ∧ (n = 3 ∨ n = 5) ∧
      (s.chan .a).seq.confirmTaken = false ∧ (s.chan .a).session.purpose = .operator ∧
      (s.chan .a).seq.outcome = none ∧ (s.chan .a).claim.stage = .held) ∧
    (∀ n ∈ [3, 5], let s := withEvents 29 (desk.updSeq .a fun q => { q with abandoned := some ⟨n, 2048, 3⟩ });
      (s.chan .a).session.state ≠ .connecting ∧ (s.chan .a).seq.abandoned = some ⟨n, 2048, 3⟩ ∧
      generalCount s.port.events < 30) := by decide

/-- Channel A awaiting a confirm at step 5 through trunk 3 in a condition, 29 general slots in use; channel B with a
claim for the same trunk in a stage, its frame in the queue, and an ACCESS not yet completed. -/
def timingOut (k : TrunkCondition) (streak : Nat) (st : ClaimStage) (p : Purpose := .operator) : State :=
  let s := ((trunkIn k streak none).updSession .a fun x =>
    { x with state := .connecting, relayStep := some 5, line := 2048, block := 2, trunk := 3 }).updClaim .a fun q =>
      { q with stage := .held }
  let b := s.updSession .b fun x => { x with state := .claiming, purpose := p, line := 2049, block := 2, trunk := 3 }
  (queued [{ frame (.claim 2049 3 p .b) 1 0 with origin := some .b }]
    (b.updClaim .b fun q => { q with stage := st })).setCommand .b (some .access)

/-- A timeout that leaves the condition, the first one, and the third one on the line with room for its notice and off
it; the other channel's claim for the trunk in no stage, HELD, ON-WIRE and QUEUED, with another trunk free, with none
free, and automatic. -/
theorem test_meets_ConfirmTimeoutAbandonsTheOperate_trunk :
    let f (p : Purpose) : QueuedFrame := { frame (.claim 2049 3 p .b) 1 0 with origin := some .b }
    let fails (s : State) := (s.chan .a).session.state = .connecting ∧ (s.chan .a).session.relayStep = some 5 ∧
      (s.chan .a).seq.confirmTaken = false ∧ (s.chan .a).session.purpose = .operator ∧
      (s.chan .a).claim.stage = .held ∧ quietHolder s (s.chan .a).session.block = none ∧
      generalCount s.port.events < 30
    let third (s : State) := fails s ∧ (s.trunkEntry 3).condition = .suspect ∧ (s.trunkEntry 3).streak = 2
    let gone (s : State) : State := s.setTrunk 3 (afterTimeout (s.trunkEntry 3))
    (∀ s ∈ [timingOut .suspect 1 .none, timingOut .out 3 .none],
      fails s ∧ (afterTimeout (s.trunkEntry 3)).condition = (s.trunkEntry 3).condition) ∧
    (let s := timingOut .inService 0 .none
     fails s ∧ (s.trunkEntry 3).condition = .inService ∧ (s.trunkEntry 3).declaredBy = none) ∧
    (∀ st ∈ [ClaimStage.none, .held, .onWire, .queued], let s := timingOut .suspect 2 st
      third s ∧ s.onLine = true ∧ (linked .lost s).onLine = false ∧ (s.chan .b).session.trunk = 3 ∧
      (s.chan .b).claim.stage = st ∧ s.link.claimFrame .b = some (f .operator)) ∧
    NoticeRoom (timingOut .suspect 2 .queued) ∧
    chooseRoute (gone (timingOut .suspect 2 .queued)) 2049 = .trunk 4 ∧
    (let s := (timingOut .suspect 2 .queued).setTrunk 4 ⟨.out, 3, none, 0, 0⟩
     third s ∧ chooseRoute (gone s) 2049 = .noTrunk ∧ (s.chan .b).session.cancelPending = false ∧
      (s.chan .b).command = some .access ∧ s.done .b = false) ∧
    (let s := timingOut .suspect 2 .queued .sweep
     third s ∧ (s.chan .b).session.purpose ≠ .operator ∧ s.link.claimFrame .b = some (f .sweep)) := by
  refine ⟨by decide, by decide, by decide, ⟨by decide, by decide, by decide, by decide⟩, by decide +kernel,
    by decide +kernel, by decide⟩

/-- Step 4 with the line in use and not, forced and not. -/
theorem test_meets_BusyTestBeginsStepFiveOrReleases :
    let s := held .connecting (some 4)
    let used := s.updSeq .a fun q => { q with inUse := true }
    let forced := used.updSession .a fun x => { x with forced := true }
    ((s.chan .a).session.state = .connecting ∧ (s.chan .a).session.relayStep = some 4 ∧
      (s.chan .a).seq.inUse = false) ∧
    ((forced.chan .a).session.state = .connecting ∧ (forced.chan .a).session.relayStep = some 4 ∧
      (forced.chan .a).session.forced = true) ∧
    ((used.chan .a).session.state = .connecting ∧ (used.chan .a).session.relayStep = some 4 ∧
      (used.chan .a).seq.inUse = true ∧ (used.chan .a).session.forced = false ∧
      (used.chan .a).session.purpose = .operator ∧ (used.chan .a).seq.outcome = none ∧
      quietHolder used (used.chan .a).session.block = none) := by decide

/-- An operator session on the line with 29 general slots in use, an automatic one measuring, a session in GUARD, and
one in each step of CONNECTING but the busy test. -/
theorem test_meets_LoopChangesActOnAHeldLine :
    (∀ st ∈ [SessionState.connected, .measuring], let s := withEvents 29 (held st (some 5));
      (s.chan .a).session.state = st ∧ (s.chan .a).session.purpose = .operator ∧ generalCount s.port.events < 30) ∧
    (let s := running .running (some (.fv .tg)) allStages (held .measuring (some 5) .sweep);
      (s.chan .a).session.state = .measuring ∧ (s.chan .a).session.purpose ≠ .operator ∧
      (s.chan .a).engine.record = some (started allStages)) ∧
    (let s := held .guard none;
      (s.chan .a).session.state ≠ .connected ∧ (s.chan .a).session.state ≠ .measuring ∧
      (s.chan .a).session.state ≠ .connecting) ∧
    (∀ n ∈ [1, 2, 3, 5], let s := held .connecting (some n);
      (s.chan .a).session.state ≠ .connected ∧ (s.chan .a).session.state ≠ .measuring ∧
      (s.chan .a).session.relayStep ≠ some 4) := by decide

/-- Each release step; a guard of more than 0 and of 0, with no clear owed and with two that fill the queue's 12 slots;
the other channel's record with own on its wait list, its settle ended and not; GUARD with 11 slots of the queue in
use. -/
theorem test_meets_ReleaseStepsLeadToGuardAndClosing :
    let at_ (r : Relay) (s : State) :=
      (held .releasing (some 5) .operator s).updSeq .a fun q => { q with releasing := some r }
    let zero := office.setBlock 2 (some ⟨[3, 4], 137, 52, 1, 4, 0, 0, 25⟩)
    (∀ r ∈ [Relay.cutOff, .testRelay], ((at_ r office).chan .a).session.state = .releasing ∧
      ((at_ r office).chan .a).seq.releasing = some r) ∧
    (∀ o ∈ [[], [OwedClear.mk 2 9 true true, ⟨2, 3, true, false⟩, ⟨2, 9, false, false⟩]],
      ∀ g ∈ [(office, 10), (zero, 9)], let s := (queued (releases g.2) (at_ .selector g.1)).updClears .a fun _ => o
      (s.chan .a).session.state = .releasing ∧ (s.chan .a).seq.releasing = some .selector ∧ (s.chan .a).clears = o ∧
      s.guardTime 2 = (if g.2 = 10 then 50 else 0) ∧ s.link.waiting = [] ∧
      s.link.queue.length + (((s.chan .a).clears.filter fun k => !k.clearQueued).length + if g.2 = 10 then 0 else 1) ≤
        12) ∧
    (∀ b ∈ [true, false], let s := ((at_ .selector office).updQuiet .b fun q =>
        { q with phase := .settling, settled := b, waitList := [.own] }).updEngine .b fun e =>
          { e with phase := .quietWait }
      (s.chan .a).seq.releasing = some .selector ∧ (s.chan .b).quiet.phase = .settling ∧
      (s.chan .b).quiet.settled = b ∧ ((s.chan .b).quiet.waitList.filter (· ≠ .own)) = [] ∧
      (s.chan .b).engine.phase = .quietWait) ∧
    (let s := queued (releases 11) (held .guard none);
      (s.chan .a).session.state = .guard ∧ s.link.waiting = [] ∧ s.link.queue.length < 12) := by decide

/-! ### Premises that are met: measurements -/

/-- No request; each reading outstanding with what its clause asks, a sum of 64 × N − 1 among them. -/
theorem test_meets_HeadAnswersDriveTheReadings :
    let at_ (q : Reading) := running .running (some q) allStages (held .measuring (some 5))
    let fields (s : State) (q : Reading) := (s.chan .a).engine.request = some ⟨q, 40, 16, 0⟩ ∧
      (s.chan .a).engine.copies = some copied ∧ (s.chan .a).engine.record = some (started allStages)
    let quietFv : FvValue := ⟨0, 16000, false⟩
    let second := (at_ (.fv .rg)).updEngine .a fun e => { e with
      record := e.record.map fun r => { r with fvTG := some quietFv } }
    (desk.chan .a).engine.request = none ∧ fields (at_ (.fv .tg)) (.fv .tg) ∧
    (fields (at_ (.range .rg .high)) (.range .rg .high) ∧
      (limitAnswer 16 ⟨-1023, 0, 0, 0⟩).sum.natAbs < 64 * (started allStages).n) ∧
    (fields (at_ .cap) .cap ∧ (started allStages).stages.resTR = true) ∧
    (second.chan .a).engine.request = some ⟨.fv .rg, 40, 16, 0⟩ ∧ (second.chan .a).engine.copies = some copied ∧
    ((second.chan .a).engine.record = some { started allStages with fvTG := some quietFv } ∧
      quietFv.saturated = false ∧ quietFv.ac ≤ 2 * copied.thresholds.vacLimit ∧
      (fvOf (limitAnswer 16 ⟨0, 0, 2039, 0⟩)).saturated = false ∧
      (fvOf (limitAnswer 16 ⟨0, 0, 2039, 0⟩)).ac ≤ 2 * copied.thresholds.vacLimit ∧
      (started allStages).stages.cap = true) := by decide +kernel

/-- A sum of 64 × N; each leg that another follows, in HIGH and in LOW. -/
theorem test_meets_HeadAnswersDriveTheReadings_next :
    let at_ (l : Leg) (g : Range) (w : StageSet) := running .running (some (.range l g)) w (held .measuring (some 5))
    let next (l l' : Leg) (w : StageSet) := (l = .tr ∧ l' = .tg ∧ w.resTG = true) ∨
      (l = .tr ∧ l' = .rg ∧ w.resTG = false ∧ w.resRG = true) ∨ (l = .tg ∧ l' = .rg ∧ w.resRG = true)
    let noTG : StageSet := ⟨true, true, true, false, true⟩
    64 * (started allStages).n ≤ (limitAnswer 16 ⟨1024, 0, 0, 0⟩).sum.natAbs ∧
    (next .tr .tg allStages ∧ next .tr .rg noTG ∧ next .tg .rg allStages) ∧
    (∀ g ∈ [Range.high, .low], ∀ l ∈ [Leg.tr, .tg], ∀ w ∈ [allStages, noTG],
      ((at_ l g w).chan .a).engine.request = some ⟨.range l g, 40, 16, 0⟩ ∧
      ((at_ l g w).chan .a).engine.copies = some copied ∧
      ((at_ l g w).chan .a).engine.record = some (started w)) := by decide +kernel

/-- Each leg that comes first, after CAP and after FV where the stage set has no CAP. -/
theorem test_meets_HeadAnswersDriveTheReadings_first :
    let first (l : Leg) (w : StageSet) := (l = .tr ∧ w.resTR = true) ∨ (l = .tg ∧ w.resTR = false ∧ w.resTG = true) ∨
      (l = .rg ∧ w.resTR = false ∧ w.resTG = false ∧ w.resRG = true)
    let set (cap tr tg : Bool) : StageSet := ⟨true, cap, tr, tg, true⟩
    let read (w : StageSet) : MeasureRecord := { started w with fvTG := some ⟨0, 16000, false⟩ }
    let at_ (q : Reading) (w : StageSet) := (running .running (some q) w (held .measuring (some 5))).updEngine .a
      fun e => { e with record := some (read w) }
    (∀ b ∈ [true, false], first .tr (set b true true) ∧ first .tg (set b false true) ∧ first .rg (set b false false)) ∧
    (∀ tr ∈ [true, false], ∀ tg ∈ [true, false], ∀ p ∈ [(Reading.cap, true), (.fv .rg, false)],
      ((at_ p.1 (set p.2 tr tg)).chan .a).engine.request = some ⟨p.1, 40, 16, 0⟩ ∧
      ((at_ p.1 (set p.2 tr tg)).chan .a).engine.copies = some copied ∧
      ((at_ p.1 (set p.2 tr tg)).chan .a).engine.record = some (read (set p.2 tr tg))) :=
  ⟨by decide, by decide +kernel⟩

/-- Each last reading: R-G in LOW and, with a sum of 64 × N, in HIGH; T-G, T-R, CAP and FV with no stage after them; an
FV of R-G cut by its own peak of 2,040, and by the AC and by the SATURATED of T-G, with FV alone asked for and with
every stage; the ticket flag set and clear; 11 slots of the queue in use. -/
theorem test_meets_LastAnswerEndsTheMeasurement :
    let flagged (b : Bool) (s : State) := queued (releases 11) (s.updEngine .a fun e => { e with ticketFlag := b })
    (∀ b ∈ [true, false],
      let s := flagged b (running .running (some (.range .rg .low)) allStages (held .measuring (some 5)))
      (s.chan .a).engine.request = some ⟨.range .rg .low, 40, 16, 0⟩ ∧ (s.chan .a).engine.copies = some copied ∧
      (s.chan .a).engine.record = some (started allStages) ∧ (s.chan .a).session.purpose = .operator ∧
      s.done .a = false ∧ (s.chan .a).engine.ticketFlag = b ∧ UrgentRoom s) ∧
    (∀ g ∈ [fvOnly, allStages], ∀ f ∈ [FvValue.mk 0 50001 false, ⟨0, 0, true⟩],
      let s := flagged true ((running .running (some (.fv .rg)) g (held .measuring (some 5))).updEngine .a fun e =>
        { e with record := e.record.map fun r => { r with fvTG := some f } })
      (s.chan .a).engine.request = some ⟨.fv .rg, 40, 16, 0⟩ ∧ (s.chan .a).engine.copies = some copied ∧
      (s.chan .a).engine.record = some { started g with fvTG := some f } ∧ (s.chan .a).session.purpose = .operator ∧
      s.done .a = false ∧ (f.saturated = true ∨ 2 * copied.thresholds.vacLimit < f.ac) ∧
      needsQuiet (started g).stages = decide (g = allStages) ∧ UrgentRoom s) ∧
    (∀ p ∈ [(Reading.range .rg .high, allStages), (.range .tg .high, ⟨true, true, true, true, false⟩),
        (.range .tr .low, ⟨true, true, true, false, false⟩), (.cap, ⟨true, true, false, false, false⟩),
        (.fv .rg, fvOnly)],
      let s := flagged true (running .running (some p.1) p.2 (held .measuring (some 5)))
      (s.chan .a).engine.request = some ⟨p.1, 40, 16, 0⟩ ∧ (s.chan .a).engine.copies = some copied ∧
      (s.chan .a).engine.record = some (started p.2) ∧ (s.chan .a).session.purpose = .operator ∧ s.done .a = false) ∧
    64 * (started allStages).n ≤ (limitAnswer 16 ⟨-1024, 0, 0, 0⟩).sum.natAbs ∧
    (fvOf (limitAnswer 16 ⟨0, 0, 2040, 0⟩)).saturated = true ∧
    (let v := fvOf (limitAnswer 16 ⟨0, 0, 2039, 0⟩);
      ¬ (v.saturated = true ∨ 2 * copied.thresholds.vacLimit < v.ac)) := by
  refine ⟨?_, ?_, by decide, by decide, by decide +kernel, by decide +kernel⟩
  · intro b hb
    simp only [List.mem_cons, List.not_mem_nil, or_false] at hb
    obtain rfl | rfl := hb <;>
      exact ⟨by decide, by decide, by decide, by decide, by decide, by decide, by constructor <;> decide⟩
  · intro g hg f hf
    simp only [List.mem_cons, List.not_mem_nil, or_false] at hg hf
    obtain rfl | rfl := hg <;> obtain rfl | rfl := hf <;>
      exact ⟨by decide, by decide, by decide, by decide, by decide, by decide, by decide, by constructor <;> decide⟩

/-- No request, and one a millisecond before its time; a request of an operator's and of an automatic session at its
time; a charge at its time and before; a MEASURE to be cancelled. -/
theorem test_meets_HeadTimeoutAndCancelEndTheMeasurement :
    let at_ (q : Reading) (n : Nat) (p : Purpose) :=
      atTime n (running .running (some q) allStages (held .measuring (some 5) p))
    ¬ HeadDue desk .a ∧ ¬ HeadDue (at_ (.fv .tg) 555 .operator) .a ∧ ¬ HeadDue (at_ .cap 605 .operator) .a ∧
    HeadDue (at_ .cap 606 .operator) .a ∧
    (∀ p, HeadDue (at_ (.fv .tg) 556 p) .a ∧ HeadDue (at_ (.range .tr .low) 556 p) .a) ∧
    (∀ p ∈ [Purpose.operator, .sweep],
      let s := at_ (.fv .tg) 556 p
      (s.chan .a).engine.record = some (started allStages) ∧
      (s.chan .a).engine.request = some ⟨.fv .tg, 40, 16, 0⟩ ∧
      (s.chan .a).session.purpose = p ∧ s.done .a = false) ∧
    (let s := commanded .measure (running .quietWait none allStages (held .measuring (some 5)));
      (s.chan .a).engine.record = some (started allStages) ∧ s.port.phase = .expectCommand ∧
      (s.chan .a).command = some .measure ∧ (s.chan .a).session.purpose = .operator ∧
      (s.chan .a).session.state = .measuring ∧ s.done .a = false) := by
  refine ⟨?_, not_headDue_of_timedOut (by decide), not_headDue_of_timedOut (by decide),
    headDue_of_timedOut (by decide),
    fun p => ⟨headDue_of_timedOut (by cases p <;> decide), headDue_of_timedOut (by cases p <;> decide)⟩,
    by decide, by decide⟩
  rintro ⟨q, e, -⟩
  cases e

/-- A head's time ends the request it was sent for: before it nothing happens, at it the measurement ends, and a later
request is not cut by an earlier one's time (R46, R70). -/
theorem test_head_timeout_waits_for_the_request_outstanding :
    let at_ (n : Nat) := atTime n (running .running (some (.fv .tg)) allStages (held .measuring (some 5)))
    let answered := after (exec (.headAnswer .a ⟨0, 0, 0, 0⟩) (at_ 556))
    after (exec (.headTimeout .a) (at_ 555)) = at_ 555 ∧
    ((after (exec (.headTimeout .a) (at_ 556))).chan .a).engine.phase = .idle ∧
    (answered.chan .a).engine.request = some ⟨.fv .rg, 20, 40, 556⟩ ∧
    after (exec (.headTimeout .a) answered) = answered := by decide +kernel

/-- A net voltage of 0 and of 1; a current below 0; sums of N − 1, N and 2,040 × N, and of one less; a value below 0
and one above 50,000,000. -/
theorem test_meets_ResistanceTakesTheFirstCaseThatApplies :
    let i (g : Range) (sum : Int) (n : Nat) : Int := (sum * Config.ifs g * 1000).tdiv (2048 * n)
    let rx (g : Range) (sum : Int) (n : Nat) (dc : Int) : Int :=
      ((Config.vsrc g - dc) * 1000000).tdiv (i g sum n) - Config.rs g
    0 < 1 ∧ (48000 : Int) - 48000 ≤ 0 ∧ i .high (-1) 1 < 0 ∧ (0 : Int) < 48000 - 47999 ∧
    (0 ≤ i .low 63 64 ∧ (63 : Int).natAbs < 64) ∧ (0 ≤ i .low 64 64 ∧ 64 ≤ (64 : Int).natAbs) ∧
    2040 * 64 ≤ (130560 : Int).natAbs ∧ (130559 : Int).natAbs < 2040 * 64 ∧ 64 ≤ (130559 : Int).natAbs ∧
    rx .high 130559 64 47999 < 0 ∧ 50000000 < rx .low 64 64 0 ∧
    (0 ≤ rx .high 130559 64 0 ∧ rx .high 130559 64 0 ≤ 50000000) := by decide

/-- Charge times 9, 10, 65,534 and 65,535; a length at the limit and one past it. -/
theorem test_meets_LengthsRoundToNearestAndAreClamped :
    0 < 1 ∧ 65535 ≤ 65535 ∧ 9 < 10 ∧ 10 ≤ 10 ∧ 65534 < 65535 ∧ 8000 ≤ 8000 ∧ 8000 < 8001 := by decide

/-- A record of each class; legs that differ and legs that tie. -/
theorem test_meets_ClassIsTheFirstConditionThatHolds :
    let r := started allStages
    let leg (v : Nat) : LegValue := ⟨.high, some v, false, false, false⟩
    classOf copied { r with legTR := some ⟨.high, none, false, false, true⟩ } = .foreignVoltage ∧
    classOf copied { r with fvTG := some ⟨10001, 0, false⟩ } = .foreignVoltage ∧
    classOf copied { r with legTR := some (leg 19999) } = .short ∧
    classOf copied { r with legTR := some (leg 20000), legRG := some (leg 19999) } = .ground ∧
    classOf { copied with minLength := 1 } { r with length := some 0, legTR := some (leg 999999) } = .openLine ∧
    classOf copied { r with legTR := some (leg 999999) } = .lowInsulation ∧
    classOf copied { r with legTR := some (leg 1000000) } = .pass ∧
    (∀ v w : Nat, let x := { r with legTR := some (leg v), legTG := some (leg v), legRG := some (leg w) };
      x.ohms .tr = some v ∧ x.ohms .tg = some v ∧ x.ohms .rg = some w) ∧ { r with length := some 0 }.length = some 0 :=
  ⟨by decide, by decide, by decide, by decide, by decide, by decide, by decide, fun _ _ => ⟨rfl, rfl, rfl⟩, rfl⟩

/-! ### Premises that are met: quiets -/

/-- Channel A's quiet record in a phase on block 2. -/
def quiet (p : QuietPhase) (w : List Holder) (s : State) : State :=
  s.updQuiet .a fun q => { q with phase := p, block := some 2, waitList := w, limitTime := some 1500 }

/-- A PENDING record with room for one frame, a record in another phase, and one whose block station 9 has quieted. -/
theorem test_meets_QuietIsRequestedSettlesAndLapses_requested :
    let s := queued (quiets 7 ++ releases 4) (quiet .pending [] office)
    let taken := quiet .pending [] (office9 fun p => { p with quiets := [⟨2, 10500⟩] })
    ((s.chan .a).quiet.phase = .pending ∧ (s.chan .a).quiet.block = some 2 ∧ s.link.state = .active ∧
      s.port.phase ≠ .starting ∧ (∀ p ∈ s.roster, ∀ q ∈ p.quiets, q.block ≠ 2) ∧
      ((s.chan .b).quiet.phase = .none ∨ (s.chan .b).quiet.block ≠ some 2) ∧ s.link.waiting = [] ∧
      lowCount s.link.queue + aheadOfChannelQuiet s .a < 8 ∧
      s.link.queue.length + aheadOfChannelQuiet s .a < 12) ∧
    ((quiet .settling [] office).chan .a).quiet.phase ≠ .pending ∧
    ((taken.chan .a).quiet.block = some 2 ∧ ⟨9, 0, false, [], [⟨2, 10500⟩]⟩ ∈ taken.roster ∧
      QuietBlock.mk 2 10500 ∈ [QuietBlock.mk 2 10500]) := by decide +kernel

/-- A QUIET of channel A as the queue's only frame, on the wire or not. -/
def asking (wire : Bool) (s : State) : State :=
  (quiet .requested [] s).updLink fun l => { l with
    queue := [{ frame (.quiet 2) 1 0 with origin := some .a }], nextEntry := 1
    wire := if wire then some ⟨0, .quiet 2, 0⟩ else none }

/-- A measurement in QUIET-WAIT with its record in each phase; a settled one whose last entry's QUIET-CLEAR is heard; a
HELD quiet with 11 slots of the queue in use. -/
theorem test_meets_QuietIsRequestedSettlesAndLapses :
    let wait := running .quietWait none allStages (held .measuring (some 5))
    let f : QueuedFrame := { frame (.quiet 2) 1 0 with origin := some .a }
    let last := (quiet .settling [.station 9] wait).updQuiet .a fun q => { q with settled := true }
    (∀ w ∈ [[], [Holder.own]], let s := quiet .settling w wait
      (s.chan .a).quiet.phase = .settling ∧ (s.chan .a).engine.phase = .quietWait ∧ (s.chan .a).quiet.waitList = w ∧
      (s.chan .a).engine.record = some (started allStages)) ∧
    ((last.chan .a).quiet.phase = .settling ∧ (last.chan .a).engine.phase = .quietWait ∧
      (last.chan .a).quiet.settled = true ∧ (last.chan .a).quiet.waitList = [.station 9] ∧
      (last.chan .a).quiet.block = some 2 ∧ (last.chan .b).quiet.block ≠ some 2 ∧ last.store.station = some 6) ∧
    Heard last 9 (.quietClear 2 6) ∧
    (∀ p ∈ [QuietPhase.pending, .settling, .ending], let s := quiet p [] wait
      (s.chan .a).engine.phase = .quietWait ∧ (s.chan .a).quiet.phase = p) ∧
    (∀ b ∈ [true, false], let s := asking b wait
      (s.chan .a).engine.phase = .quietWait ∧ (s.chan .a).quiet.phase = .requested ∧
      s.link.quietFrame .a = some f ∧ s.link.onWire f = b ∧ (s.chan .a).quiet.withdrawal = none) ∧
    (desk.chan .a).engine.phase ≠ .quietWait ∧
    (let s := queued (releases 11) (quiet .held []
        (running .running (some .cap) allStages (held .measuring (some 5))));
      (s.chan .a).quiet.phase = .held ∧ (s.chan .a).quiet.block = some 2 ∧ s.link.waiting = [] ∧
      s.link.queue.length < 12 ∧ (s.chan .a).engine.phase = .running ∧
      (s.chan .a).engine.record = some (started allStages)) ∧
    (desk.chan .a).quiet.phase ≠ .held :=
  ⟨by decide, by decide, heard_of_parts (by decide), by decide, by decide, by decide, by decide, by decide⟩

/-- QUIET-BUSY and QUIET-CLEAR heard for this station, on a SETTLING and on a HELD record, for station 15, and with no
record on the block. -/
theorem test_meets_QuietAnswersMoveTheWaitList :
    let settling := quiet .settling [] office
    let heldQuiet := quiet .held [] (running .running (some .cap) allStages office)
    office.store.station = some 6 ∧
    (∀ s ∈ [settling, heldQuiet], s.store.station = some 6 ∧ (s.chan .a).quiet.block = some 2 ∧
      (s.chan .b).quiet.block ≠ some 2) ∧
    ((settling.chan .a).quiet.phase = .settling ∧ (settling.chan .a).quiet.settled = false) ∧
    ((heldQuiet.chan .a).quiet.phase = .held ∧ (heldQuiet.chan .a).engine.phase = .running) ∧
    Heard settling 9 (.quietBusy 2 6) ∧ Heard heldQuiet 9 (.quietBusy 2 6) ∧ Heard settling 9 (.quietClear 2 6) ∧
    (15 : Nat) ≠ 6 ∧ Heard settling 9 (.quietBusy 2 15) ∧ Heard settling 9 (.quietClear 2 15) ∧
    (∀ d, (office.chan d).quiet.block ≠ some 2) ∧ Heard office 9 (.quietBusy 2 6) ∧
    Heard office 9 (.quietClear 2 6) := by
  refine ⟨by decide, by decide, by decide, by decide, ?_, ?_, ?_, by decide, ?_, ?_,
    fun d => by cases d <;> decide, ?_, ?_⟩ <;> exact heard_of_parts (by decide)

/-- A quiet's QUIET-END on the wire, 3 voids counted, with a request noted and not, beside a session it defers and
beside a record PENDING on its block, and on a block that station 9 has quieted; a measurement whose request is due and
one whose MEASURE waits in QUIET-WAIT, each with each phase of its record; a QUIET on the wire whose withdrawal is the
measurement's end. -/
theorem test_meets_OwnQuietsEndWithTheirMeasurement :
    let ending (noted : Bool) : State := ((quiet .ending [] (held .measuring (some 5))).updQuiet .a fun q =>
      { q with requestNoted := noted, notedBlock := some 2 }).updSession .b fun x =>
        { x with state := .deferred, deferredBy := some .own, block := 2 }
    let due := atTime 606 (running .running (some .cap) allStages (held .measuring (some 5)))
    let waits := commanded .measure (running .quietWait none allStages (held .measuring (some 5)))
    let f : QueuedFrame := { frame (.quiet 2) 1 0 with origin := some .a }
    let measured (s : State) := (s.chan .a).engine.record = some (started allStages) ∧ needsQuiet allStages = true ∧
      (s.chan .a).session.purpose = .operator ∧ (s.chan .a).session.state = .measuring
    let withdrawn := sent (.quiet 2) ((quiet .requested [] office).updQuiet .a fun q =>
      { q with withdrawal := some .ended })
    (∀ b ∈ [true, false], let s := sent (.quietEnd 2) (ending b)
      s.link.wire = some ⟨0, .quietEnd 2, 0⟩ ∧ LinkOk s.link ∧ (∃ f ∈ s.link.queue, f.entry = 0 ∧ f.voids = 3 ∧
        f.body = .built (.quietEnd 2) ∧ f.origin = some .a) ∧ s.inFarewell = false ∧ (s.chan .a).quiet.block = some 2 ∧
      (s.chan .a).quiet.requestNoted = b ∧ (s.chan .b).session.state = .deferred ∧
      (s.chan .b).session.deferredBy = some .own ∧ (s.chan .b).session.block = 2 ∧ quietHolder s 2 = none ∧
      (s.chan .b).session.relayStep = none ∧ (s.chan .b).session.frozenAtClaim = false) ∧
    ((office.chan .b).session.state ≠ .deferred ∧ (office.chan .b).quiet.phase ≠ .pending) ∧
    (let s := sent (.quietEnd 2) ((ending true).updQuiet .b fun q => { q with phase := .pending, block := some 2 });
      (s.chan .b).quiet.phase = .pending ∧ (s.chan .b).quiet.block = some 2 ∧ s.link.state = .active ∧
      s.port.phase ≠ .starting ∧ quietHolder s 2 = none ∧ s.link.waiting = [] ∧
      lowCount s.link.queue + aheadOfChannelQuiet s .b < 8 ∧ s.link.queue.length + aheadOfChannelQuiet s .b < 12) ∧
    quietHolder (office9 fun p => { p with quiets := [⟨2, 10500⟩] }) 2 ≠ none ∧
    (∀ x ∈ [due, waits], ∀ p ∈ [QuietPhase.none, .pending, .settling, .held, .ending],
      let s := queued (releases 11) (quiet p [] x)
      measured s ∧ (s.chan .a).quiet.phase = p ∧ (s.chan .a).quiet.block = some 2 ∧ UrgentRoom s) ∧
    (∀ x ∈ [due, waits], ∀ b ∈ [true, false], let s := asking b x
      measured s ∧ (s.chan .a).quiet.phase = .requested ∧ s.link.quietFrame .a = some f ∧ s.link.onWire f = b) ∧
    (∀ p, HeadDue (queued (releases 11) (quiet p [] due)) .a) ∧ (∀ b, HeadDue (asking b due) .a) ∧
    (∀ p, (queued (releases 11) (quiet p [] waits)).port.phase = .expectCommand ∧
      ((queued (releases 11) (quiet p [] waits)).chan .a).command = some .measure) ∧
    (∀ b, (asking b waits).port.phase = .expectCommand ∧ ((asking b waits).chan .a).command = some .measure) ∧
    (withdrawn.link.wire = some ⟨0, .quiet 2, 0⟩ ∧ (∃ f ∈ withdrawn.link.queue, f.entry = 0 ∧
      f.body = .built (.quiet 2) ∧ f.origin = some .a) ∧ withdrawn.inFarewell = false ∧ withdrawn.link.waiting = [] ∧
      (withdrawn.chan .a).quiet.block = some 2 ∧ (withdrawn.chan .a).quiet.withdrawal = some .ended ∧
      (withdrawn.chan .a).quiet.requestNoted = false) ∧ LinkOk withdrawn.link := by
  refine ⟨?_, by decide, by decide, by decide, ?_, by decide, fun p => headDue_of_timedOut (by cases p <;> decide),
    fun b => headDue_of_timedOut (by cases b <;> decide), fun p => by cases p <;> decide,
    fun b => by cases b <;> decide, by decide, linkOk_of_parts (by decide)⟩
  · intro b hb
    simp only [List.mem_cons, List.not_mem_nil, or_false] at hb
    obtain rfl | rfl := hb <;>
      exact ⟨by decide, linkOk_of_parts (by decide), by decide⟩
  · intro x hx p hp
    simp only [List.mem_cons, List.not_mem_nil, or_false] at hx hp
    obtain rfl | rfl := hx <;> obtain rfl | rfl | rfl | rfl | rfl := hp <;>
      exact ⟨by decide, by decide, by decide, by constructor <;> decide⟩

/-- A QUIET and a PRESENCE heard for the block of an own REQUESTED quiet, its session MEASURING there; a CONNECTED
session on a block station 9 has quieted, with no clear owed, one queued, one owed to station 9 and one to station 3;
and on a block the other channel quiets, its measurement running. -/
theorem test_meets_ForeignQuietsWithdrawAndAreAnswered :
    let wait := running .quietWait none allStages (held .measuring (some 5))
    let own : State := { asking false wait with roster := [⟨9, 0, true, [], []⟩] }
    let f : QueuedFrame := { frame (.quiet 2) 1 0 with origin := some .a }
    let on9 (l : List OwedClear) : State := queued (releases 11) ((held .connected (some 5) .operator
      (office9 fun p => { p with quiets := [⟨2, 10500⟩] })).updClears .a fun _ => l)
    let onB (p : QuietPhase) : State := ((held .connected (some 5)).updQuiet .b fun q =>
      { q with phase := p, block := some 2 }).updEngine .b fun e =>
        { e with phase := .running, record := some (started allStages) }
    RosterOk own.roster ∧
    (own.peer 9 = some ⟨9, 0, true, [], []⟩ ∧ (∀ o ∈ own.roster, ∀ q ∈ o.quiets, q.block ≠ 2) ∧
      ownQuietOn own 2 = false ∧ (own.chan .a).quiet.phase = .requested ∧ (own.chan .a).quiet.block = some 2 ∧
      own.link.quietFrame .a = some f ∧ (own.chan .b).quiet.phase ≠ .requested) ∧
    ((own.chan .a).session.block = 2 ∧ ∀ d, (own.chan d).session.block ≠ 2 ∨
      (own.chan d).session.state ∉ [SessionState.claimed, .connecting, .releasing]) ∧ Heard own 9 (.quiet 2) ∧
    (∀ j, Heard own 9 (.presence j [] [2]) ∧ (j = false ∨ (⟨9, 0, true, [], []⟩ : Peer).joining = true)) ∧
    (∀ l ∈ [[], [OwedClear.mk 2 9 true true], [⟨2, 9, false, false⟩], [⟨2, 3, false, false⟩]],
      (on9 l).port.phase = .expectCommand ∧ ((on9 l).chan .a).session.state = .connected ∧
      ((on9 l).chan .a).session.purpose = .operator ∧ (on9 l).busy .a = false ∧ (on9 l).done .a = false ∧
      quietHolder (on9 l) ((on9 l).chan .a).session.block = some 9 ∧ ((on9 l).chan .a).clears = l ∧
      UrgentRoom (on9 l)) ∧
    (∀ p ∈ [QuietPhase.settling, .held], ((onB p).chan .a).session.state = .connected ∧
      ((onB p).chan .b).quiet.block = some ((onB p).chan .a).session.block ∧ ((onB p).chan .b).quiet.phase = p ∧
      ((onB p).chan .b).engine.phase = .running ∧ ((onB p).chan .b).engine.record = some (started allStages) ∧
      (onB p).busy .a = false) := by
  refine ⟨rosterOk_of_parts (by decide), by decide, ⟨by decide, fun d => by cases d <;> decide⟩,
    heard_of_parts (by decide), fun j => by cases j <;> exact ⟨heard_of_parts (by decide), by decide⟩, ?_, by decide⟩
  intro l hl
  simp only [List.mem_cons, List.not_mem_nil, or_false] at hl
  obtain rfl | rfl | rfl | rfl := hl <;>
    exact ⟨by decide, by decide, by decide, by decide, by decide, by decide, by decide, by constructor <;> decide⟩

/-! ### Premises that are met: frames of other stations -/

/-- Off the line, a body that does not fit, an attempt under way; a frame of a station the roster knows and of one it
does not, for stations 1 and 15; pairs no own session contests. -/
theorem test_meets_FramesOfOthersReachTheRoster :
    (linked .lost office).onLine = false ∧ frameFits 16 (.quiet 0) = false ∧ (claiming true).link.wire.isSome = true ∧
    ((linked .lost office).store.station ≠ some 9 ∧ (claiming true).store.station ≠ some 9 ∧
      frameFits 9 (.quiet 2) = true) ∧
    (∀ n ∈ [1, 15], office.onLine = true ∧ office.link.wire = none ∧ frameFits n (.quiet 2) = true ∧
      office.store.station ≠ some n) ∧
    Heard office 9 (.claim 2048 3 .sweep .b) ∧ Uncontested office [(2048, 3)] ∧ office.watch.op ≠ .monitor ∧
    (let s := withEvents 29 office;
      s.onLine = true ∧ s.link.wire = none ∧ frameFits 15 (.claim 2048 3 .sweep .b) = true ∧
      s.store.station ≠ some 15 ∧ s.peer 15 = none ∧ generalCount s.port.events < 30 ∧ s.watch.op ≠ .monitor) ∧
    Uncontested (withEvents 29 office) [(2048, 3)] ∧
    Heard office 9 (.release 2048 3) ∧
    (∀ c, (office.chan c).session.state.active = false ∨
      (2048 : Line) ≠ (office.chan c).session.line ∧ (3 : Trunk) ≠ (office.chan c).session.trunk) ∧
    ((1 : Line) ≠ 0 ∨ (0 : Trunk) ≠ 0) := by
  refine ⟨by decide, by decide, by decide, by decide, by decide, heard_of_parts (by decide),
    fun c => by cases c <;> decide, by decide, by decide, fun c => by cases c <;> decide, heard_of_parts (by decide),
    fun c => by cases c <;> decide, by decide⟩

/-- An active operator session on channel A, its claim held. -/
def onTheLine (st : SessionState) (k : Option Nat) : State :=
  (held st k).updClaim .a fun q => { q with stage := .held }

/-- Channel A's claim for line 2048 and trunk 3 queued, and channel B's for line 2049 and trunk 3. -/
def twoClaims (p : Purpose) : State :=
  queued [{ frame (.claim 2048 3 p .a) 1 0 with origin := some .a },
      { frame (.claim 2049 3 .operator .b) 1 1 with origin := some .b }]
    (((claiming false p).updSession .b fun x =>
      { x with state := .claiming, line := 2049, block := 2, trunk := 3 }).updClaim .b fun q =>
        { q with stage := .queued })

/-- A CLAIM heard from station 9 for the line of a queued claim, and for its trunk alone with trunk 4 free and with it
OUT; the same claim automatic; two queued claims, the first ended by its line or as an automatic one by its trunk. -/
theorem test_meets_ForeignClaimsMeetOwnSessions :
    let f (p : Purpose) : QueuedFrame := { frame (.claim 2048 3 p .a) 1 0 with origin := some .a }
    let own := commanded .access (claiming false)
    let auto := claiming false .sweep
    let seen (l : Line) (t : Trunk) (s : State) : State := { s with roster := rosterWith 9 (fun q =>
      { q with lastHeard := s.now, holdings := addHolding ⟨l, t, .operator⟩ q.holdings }) s.roster }
    (∀ s ∈ [own, auto], (s.chan .a).claim.stage = .queued ∧ (s.chan .a).session.line = 2048 ∧
      (s.chan .a).session.trunk = 3 ∧ (s.chan .b).claim.stage ≠ .queued ∧
      (s.chan .b).session.state.active = false ∧ s.watch.op ≠ .monitor) ∧
    Heard own 9 (.claim 2048 0 .operator .b) ∧ Heard own 9 (.claim 0 3 .operator .b) ∧
    Heard auto 9 (.claim 2048 0 .operator .b) ∧ Heard auto 9 (.claim 0 3 .operator .b) ∧
    (own.link.claimFrame .a = some (f .operator) ∧ (own.chan .a).session.purpose = .operator ∧
      (own.chan .a).session.cancelPending = false ∧ (own.chan .a).command = some .access ∧ own.done .a = false) ∧
    (chooseRoute (seen 0 3 own) 2048 = .trunk 4 ∧
      chooseRoute (seen 0 3 (own.setTrunk 4 ⟨.out, 3, none, 0, 0⟩)) 2048 = .noTrunk) ∧
    (auto.link.claimFrame .a = some (f .sweep) ∧ (auto.chan .a).session.purpose ≠ .operator) ∧
    (∀ h ∈ [(Purpose.operator, (2048 : Line)), (.sweep, 0)], let s := twoClaims h.1
      Heard s 9 (.claim h.2 3 .operator .b) ∧ (s.chan .a).claim.stage = .queued ∧ (s.chan .b).claim.stage = .queued ∧
      s.link.claimFrame .a = some (f h.1) ∧
      s.link.claimFrame .b = some { frame (.claim 2049 3 .operator .b) 1 1 with origin := some .b } ∧ LinkOk s.link ∧
      ((s.chan .a).session.line = h.2 ∨ (s.chan .a).session.purpose ≠ .operator ∧ (s.chan .a).session.trunk = 3) ∧
      (s.chan .b).session.purpose = .operator ∧ (s.chan .b).session.line ≠ h.2 ∧ (s.chan .b).session.trunk = 3 ∧
      chooseRoute ((seen h.2 3 s).updSession .a fun y => { y with state := .idle }) 2049 = .trunk 4) := by
  refine ⟨by decide, heard_of_parts (by decide), heard_of_parts (by decide), heard_of_parts (by decide),
    heard_of_parts (by decide), by decide, by decide +kernel, by decide, fun h hh => ?_⟩
  simp only [List.mem_cons, List.not_mem_nil, or_false] at hh
  obtain rfl | rfl := hh <;>
    exact ⟨heard_of_parts (by decide), by decide, by decide, by decide, by decide, linkOk_of_parts (by decide),
      by decide, by decide, by decide, by decide, by decide +kernel⟩

/-- A CLAIM, a RELEASE and a PRESENCE of station 9 that show line 2048 and trunk 4: channel A's session on the line in
every state and step, operator and automatic with its item open, 11 slots of the queue in use; both sessions on the pair,
A's by its line and B's by its trunk, both CLAIMED with 10 slots in use. -/
theorem test_meets_ForeignClaimsMeetOwnSessions_conflict :
    let one (st : SessionState) (k : Option Nat) (p : Purpose) : State :=
      (queued (releases 11) ((held st k p).updClaim .a fun q => { q with stage := .held })).updAuto fun a =>
        { a with item := some ⟨.sweep, 2048, none, fvOnly, 0, false, none, false⟩ }
    let two : State := queued (releases 10) (((onTheLine .claimed none).updSession .b fun x =>
      { x with state := .claimed, line := 2049, block := 2, trunk := 4 }).updClaim .b fun q => { q with stage := .held })
    let shows (s : State) := ∀ b ∈ [FrameBody.claim 2048 4 .operator .a, .release 2048 4,
      .presence false [⟨2048, 4, .operator⟩] []], Heard s 9 b ∧ ShowsPair s 9 2048 4 b
    (∀ st ∈ [(SessionState.claimed, none), (.deferred, none), (.deferred, some 2), (.connecting, some 1),
        (.connecting, some 3), (.connecting, some 5), (.connected, some 5), (.measuring, some 5),
        (.releasing, some 5), (.guard, some 5), (.closing, none)], ∀ p ∈ [Purpose.operator, .sweep],
      let s := one st.1 st.2 p
      shows s ∧ (s.chan .a).claim.stage = .held ∧ (s.chan .a).session.line = 2048 ∧ (s.chan .a).session.state = st.1 ∧
      (s.chan .a).session.relayStep = st.2 ∧ (s.chan .a).session.purpose = p ∧ (s.chan .a).seq.confirmTaken = false ∧
      (s.chan .b).claim.stage ≠ .queued ∧ (s.chan .b).session.state.active = false ∧ UrgentRoom s ∧
      s.auto.item.any (fun j => j.outcome.isNone && !j.aborted) = true) ∧
    (shows two ∧ two.link.waiting = [] ∧ two.link.queue.length + 2 ≤ 12 ∧ (two.chan .a).session.line = 2048 ∧
      (two.chan .b).session.trunk = 4 ∧ ∀ c, (two.chan c).session.state = .claimed ∧
        (two.chan c).claim.stage ≠ .queued) := by
  have shows_ : ∀ s : State, s.onLine = true ∧ s.link.wire = none ∧ s.store.station = some 6 ∧
      s.peer 9 = some ⟨9, 0, false, [], []⟩ → ∀ b ∈ [FrameBody.claim 2048 4 .operator .a, .release 2048 4,
        .presence false [⟨2048, 4, .operator⟩] []], Heard s 9 b ∧ ShowsPair s 9 2048 4 b := by
    intro s h b hb
    simp only [List.mem_cons, List.not_mem_nil, or_false] at hb
    obtain rfl | rfl | rfl := hb
    · exact ⟨⟨h.1, h.2.1, by decide, by rw [h.2.2.1]; decide, by rw [h.2.2.2]; rfl⟩, .inl ⟨_, _, rfl⟩⟩
    · exact ⟨⟨h.1, h.2.1, by decide, by rw [h.2.2.1]; decide, by rw [h.2.2.2]; rfl⟩, .inr (.inl rfl)⟩
    · exact ⟨⟨h.1, h.2.1, by decide, by rw [h.2.2.1]; decide, by rw [h.2.2.2]; rfl⟩,
        .inr (.inr ⟨_, _, _, rfl, h.2.2.2, .inl rfl⟩)⟩
  refine ⟨fun st hst p hp => ⟨shows_ _ ?_, ?_⟩, shows_ _ (by decide), by decide, by decide, by decide, by decide,
    fun c => by cases c <;> decide⟩
  all_goals simp only [List.mem_cons, List.not_mem_nil, or_false] at hst hp
  · obtain rfl | rfl | rfl | rfl | rfl | rfl | rfl | rfl | rfl | rfl | rfl := hst <;> obtain rfl | rfl := hp <;> decide
  · obtain rfl | rfl | rfl | rfl | rfl | rfl | rfl | rfl | rfl | rfl | rfl := hst <;> obtain rfl | rfl := hp <;>
      exact ⟨by decide, by decide, by decide, by decide, by decide, by decide, by decide, by decide,
        ⟨by decide, by decide⟩, by decide⟩

/-- A PRESENCE heard from station 9 with two quiet blocks, its entry joining or not. -/
theorem test_meets_PresenceReplacesItsSendersEntry :
    (∀ b, let s := withEvents 29 (office9 fun p => { p with joining := b, quiets := [⟨1, 500⟩] });
      RosterOk s.roster ∧ Heard s 9 (.presence true [⟨3072, 5, .sweep⟩] [1, 63]) ∧
      s.peer 9 = some ⟨9, 0, b, [], [⟨1, 500⟩]⟩ ∧ Uncontested s [(3072, 5)] ∧
      (∀ c, (s.chan c).session.state ≠ .deferred ∧ (s.chan c).quiet.phase ≠ .requested) ∧
      s.declaredOut = [] ∧ s.link.holding = [] ∧ generalCount s.port.events < 30) ∧
    (let s := queued (quiets 7) (trunkIn .out 3 (some .self));
      Heard s 9 (.presence true [] []) ∧ s.peer 9 = some ⟨9, 0, false, [], []⟩ ∧ s.link.holding = [] ∧
      s.link.waiting = [] ∧ s.declaredOut = [3] ∧ lowCount s.link.queue + s.declaredOut.length ≤ 8 ∧
      s.link.queue.length + s.declaredOut.length ≤ 12) := by
  refine ⟨fun b => ?_, heard_of_parts (by decide), by decide, by decide, by decide, by decide +kernel,
    by decide +kernel, by decide +kernel⟩
  cases b <;> exact ⟨rosterOk_of_parts (by decide), heard_of_parts (by decide), by decide,
    fun c => by cases c <;> decide, fun c => by cases c <;> decide, by decide +kernel, by decide, by decide⟩

/-- A station the roster does not list; one last heard 3,499 ms ago; one heard 3,500 ms ago whose silence ends a
handover and lets a deferred session go on, and one with nothing of ours. -/
theorem test_meets_SilentPeersAreDropped :
    let given : Ticket := { ticket 1 0 .handover with handover := some ⟨9, 0, false, false⟩ }
    let quieter := office9 fun p => { p with quiets := [⟨2, 10500⟩] }
    let s := { withEvents 27 (stored [given] ((held .deferred none .operator quieter).updSession .a fun x =>
      { x with deferredBy := some (.station 9) })) with now := 3500 }
    office.peer 15 = none ∧ (linked .lost office).onLine = false ∧
    ({ office with now := 3499 }.peer 9 = some ⟨9, 0, false, [], []⟩ ∧ { office with now := 3499 }.now < 0 + 3500) ∧
    (s.onLine = true ∧ s.peer 9 = some ⟨9, 0, false, [], [⟨2, 10500⟩]⟩ ∧ 0 + 3500 ≤ s.now ∧
      (∀ c, (s.chan c).quiet.settled = false) ∧ given ∈ s.ticketStore.tickets ∧
      given.state = .handover ∧ given.handover = some ⟨9, 0, false, false⟩ ∧ (s.chan .a).session.state = .deferred ∧
      (s.chan .a).session.deferredBy = some (.station 9) ∧ (s.chan .a).session.block = 2 ∧
      (∃ q ∈ [QuietBlock.mk 2 10500], q.block = 2) ∧
      (∀ o ∈ s.roster, o.station ≠ 9 → ∀ q ∈ o.quiets, q.block ≠ 2) ∧ quietStandsOn s .b 2 = false ∧
      (s.chan .a).session.relayStep = none ∧ (s.chan .a).session.frozenAtClaim = false) ∧
    TicketsOk s.ticketStore ∧
    generalCount (after (exec (.peerSilent 9) s)).port.events < 30 ∧
    (let u := { withEvents 29 office with now := 3500 };
      u.onLine = true ∧ u.peer 9 = some ⟨9, 0, false, [], []⟩ ∧ 0 + 3500 ≤ u.now ∧
      (∀ t ∈ u.ticketStore.tickets, t.state ≠ .handover) ∧ generalCount u.port.events < 30) ∧
    (∀ c, ((withEvents 29 office).chan c).session.state ≠ .deferred) := by
  refine ⟨by decide, by decide, by decide, ⟨by decide, by decide, by decide, fun c => by cases c <;> decide, by decide⟩,
    ticketsOk_of_parts (by decide), by decide +kernel, by decide, fun c => by cases c <;> decide⟩

/-- A QUIET heard for a block quieted by station 3, for a free one with and without a session of ours on it; the
QUIET-END and the lapse of one. -/
theorem test_meets_ForeignQuietsAreRecordedAndEnd :
    let by3 : State := { desk with roster := [⟨3, 0, false, [], [⟨2, 10500⟩]⟩, ⟨9, 0, false, [], []⟩] }
    let kept := office9 fun p => { p with quiets := [⟨2, 10500⟩] }
    let deferred := (held .deferred none .operator kept).updSession .a fun x =>
      { x with deferredBy := some (.station 9) }
    Heard by3 9 (.quiet 2) ∧ (by3.peer 9 = some ⟨9, 0, false, [], []⟩ ∧ ∃ o ∈ by3.roster, ∃ q ∈ o.quiets, q.block = 2) ∧
    (∀ s ∈ [office, held .claimed none, queued (releases 11) (held .connecting (some 3)),
        queued (releases 11) (held .releasing (some 5))],
      Heard s 9 (.quiet 2) ∧ s.peer 9 = some ⟨9, 0, false, [], []⟩ ∧ (∀ o ∈ s.roster, ∀ q ∈ o.quiets, q.block ≠ 2) ∧
      ownQuietOn s 2 = false ∧
      (∀ c, (s.chan c).quiet.phase ≠ .requested ∧ (s.chan c).session.state ≠ .deferred) ∧
      RosterOk (rosterWith 9 (fun q => { q with
        lastHeard := s.now
        quiets := (if q.quiets.length < 2 then q.quiets else q.quiets.drop 1) ++ [⟨2, s.now + 10500⟩] }) s.roster) ∧
      (s.chan .b).session.block ≠ 2 ∧ UrgentRoom s) ∧
    (∀ c, (office.chan c).session.block ≠ 2) ∧
    ((held .claimed none).chan .a).session.block = 2 ∧ ((held .claimed none).chan .a).session.state = .claimed ∧
    3 ≤ (((held .connecting (some 3)).chan .a).session.relayStep).getD 0 ∧
    (RosterOk kept.roster ∧ (∀ c, (kept.chan c).session.state ≠ .deferred) ∧ Heard kept 9 (.quietEnd 2) ∧
      kept.onLine = true) ∧
    (deferred.onLine = true ∧ deferred.peer 9 = some ⟨9, 0, false, [], [⟨2, 10500⟩]⟩ ∧
      (∃ q ∈ [QuietBlock.mk 2 10500], q.block = 2) ∧
      (∀ o ∈ deferred.roster, o.station ≠ 9 → ∀ q ∈ o.quiets, q.block ≠ 2) ∧
      (deferred.chan .a).session.state = .deferred ∧ (deferred.chan .a).session.deferredBy = some (.station 9) ∧
      (deferred.chan .a).session.block = 2 ∧ quietStandsOn deferred .b 2 = false ∧
      (deferred.chan .a).session.relayStep = none ∧ (deferred.chan .a).session.frozenAtClaim = false) := by
  refine ⟨heard_of_parts (by decide), by decide, ?_, fun c => by cases c <;> decide, by decide, by decide, by decide,
    ⟨rosterOk_of_parts (by decide), fun c => by cases c <;> decide, heard_of_parts (by decide), by decide⟩, by decide⟩
  intro s hs
  simp only [List.mem_cons, List.not_mem_nil, or_false] at hs
  obtain rfl | rfl | rfl | rfl := hs <;>
    exact ⟨heard_of_parts (by decide), by decide, by decide, by decide, fun c => by cases c <;> decide,
      rosterOk_of_parts (by decide), by decide, by constructor <;> decide⟩

/-! ### Premises that are met: tickets between stations -/

/-- `office` with a ticket of this station on line 2048, an observation in it. -/
def owner (st : TicketState) (taken : Bool) (o : List Observation) : State :=
  stored [{ ticket 1 2048 st with noteTaken := taken, observations := o }] office

/-- Notes heard for a line with and without an own ticket; the note taken and not, the other number higher and lower;
an index with and without the line, with 255 and 256 entries; additions for this owner and for another. -/
theorem test_meets_NotesAndAdditionsActOnTheTicketStore :
    let o : Observation := ⟨0, .ownOperator, .ground, none, false⟩
    let room (s : State) := queued (quiets 7 ++ releases 4) (withEvents 29 s)
    let seven := fun n : Nat => (List.range n).map fun k => IndexEntry.mk (Fin.ofNat 65536 k) 9 1 .short
    Heard office 9 (.ticketNote [⟨2048, 9999, true, .short⟩]) ∧ office.ticketStore.byLine 2048 = none ∧
    (∃ t, (owner .opened true []).ticketStore.byLine 2048 = some t ∧ t.noteTaken = true ∧ 6 < 7) ∧
    (∀ b ∈ [true, false], ∃ t, (room (owner .opened b [o])).ticketStore.byLine 2048 = some t ∧ t.noteTaken = b ∧
      6 ≤ 6 ∧ generalCount (room (owner .opened b [o])).port.events < 30 ∧ t.state ≠ .cleared ∧
      t.observations.reverse.find? (fun o => o.cls.failing && !o.noisy) = some o) ∧
    NoticeRoom (room (owner .opened true [o])) ∧ NoticeRoom (room (owner .cleared false [])) ∧
    (∃ t, (room (owner .cleared false [])).ticketStore.byLine 2048 = some t ∧ t.state = .cleared) ∧
    (∃ x ∈ seven 256, x.line = 255) ∧ ((∀ x ∈ seven 255, x.line ≠ 255) ∧ (seven 255).length < 256) ∧
    ((∀ x ∈ seven 256, x.line ≠ 256) ∧ 256 ≤ (seven 256).length) ∧
    Heard office 9 (.ticketAdd 15 1 2048 ⟨.short, none⟩) ∧ office.store.station ≠ some 15 ∧
    (∀ st ∈ [TicketState.opened, .cleared], let s := withEvents 29 (owner st false (List.replicate 8 o))
      Heard s 9 (.ticketAdd 6 1 2048 ⟨.short, none⟩) ∧ Heard s 9 (.ticketAdd 6 1 2048 ⟨.pass, none⟩) ∧
      s.store.station = some 6 ∧ TicketsOk s.ticketStore ∧ generalCount s.port.events < 30 ∧
      ∃ t, s.ticketStore.byNumber 1 = some t ∧ t.line = 2048 ∧ t.state = st) := by
  refine ⟨heard_of_parts (by decide), by decide, ⟨_, rfl, by decide, by decide⟩, ?_, by constructor <;> decide +kernel,
    by constructor <;> decide +kernel, ⟨_, rfl, by decide⟩, by decide +kernel, by decide +kernel, by decide +kernel,
    heard_of_parts (by decide), by decide, ?_⟩
  · intro b hb
    simp only [List.mem_cons, List.not_mem_nil, or_false] at hb
    obtain rfl | rfl := hb <;>
      exact ⟨_, rfl, by decide, by decide, by decide +kernel, by decide, by decide⟩
  · intro st hs
    simp only [List.mem_cons, List.not_mem_nil, or_false] at hs
    obtain rfl | rfl := hs <;>
      exact ⟨heard_of_parts (by decide), heard_of_parts (by decide), by decide, ticketsOk_of_parts (by decide),
        by decide, _, rfl, by decide, by decide⟩

/-- Results for a line with a ticket, with an index entry and with neither, in a store of 95 and of 96; a ticket in
each state, its observations full; a plan at its first count and its last, a streak of 0 and 1; the last FV answer of
an automatic measurement. -/
theorem test_meets_ResultsReachTheTicketStore :
    let o (k : FaultClass) (b : Bool) : Observation := ⟨0, .ownSweep, k, none, b⟩
    let many (n : Nat) := withEvents 29 (stored ((List.range n).map fun k => ticket (k + 1) (Fin.ofNat 65536 k) .opened)
      office)
    let index := office.updTickets fun t => { t with index := [⟨2048, 9, 1, .short⟩] }
    let planned (streak left : Nat) : Ticket :=
      { ticket 1 2048 .retest with plan := some ⟨240, left, 0⟩, streak := streak }
    let auto (i : Item) := (running .running (some (.fv .rg)) fvOnly (held .measuring (some 5) i.purpose)).updAuto
      fun a => { a with item := some i }
    (FaultClass.short ≠ .pass ∧ (o .short true).noisy = true ∧ (o .short false).noisy = false) ∧
    (office.ticketStore.byLine 2048 = none ∧ office.ticketStore.indexFor 2048 = none) ∧
    (index.ticketStore.byLine 2048 = none ∧ index.ticketStore.indexFor 2048 = some ⟨2048, 9, 1, .short⟩) ∧
    (∀ n ∈ [95, 96], (many n).ticketStore.byLine 2048 = none ∧ (many n).ticketStore.indexFor 2048 = none ∧
      (many n).ticketStore.tickets.length = n ∧ (∀ t ∈ (many n).ticketStore.tickets, t.state ≠ .cleared) ∧
      generalCount (many n).port.events < 30) ∧
    TicketsOk (many 95).ticketStore ∧
    (∀ st ∈ [TicketState.opened, .cleared], let s := withEvents 29 (owner st false (List.replicate 8 (o .short false)))
      (∃ t, s.ticketStore.byLine 2048 = some t ∧ s.ticketStore.byNumber t.number = some t ∧ t.state = st) ∧
      TicketsOk s.ticketStore ∧ generalCount s.port.events < 30) ∧
    (owner .handover false []).ticketStore.byNumber 1 = some (ticket 1 2048 .handover) ∧
    (∀ k ∈ [0, 1], ∀ n ∈ [1, 2, 15], let s := stored [planned k n] office
      s.ticketStore.byNumber 1 = some (planned k n) ∧ (planned k n).state = .retest ∧
      (planned k n).plan = some ⟨240, n, 0⟩ ∧ (planned k n).streak = k ∧ generalCount s.port.events < 30) ∧
    office.ticketStore.byNumber 1 = none ∧
    (∀ i ∈ [Item.mk .sweep 2048 none fvOnly 0 false none false, ⟨.retest, 2048, some 1, fvOnly, 0, false, none, false⟩],
      ((auto i).chan .a).engine.request = some ⟨.fv .rg, 40, 16, 0⟩ ∧ ((auto i).chan .a).engine.copies = some copied ∧
      ((auto i).chan .a).engine.record = some (started fvOnly) ∧
      (afterReading copied (.fv .rg) (limitAnswer 16 ⟨0, 0, 0, 0⟩) (started fvOnly)).2 = none ∧
      needsQuiet (afterReading copied (.fv .rg) (limitAnswer 16 ⟨0, 0, 0, 0⟩) (started fvOnly)).1.stages = false ∧
      ((auto i).chan .a).session.purpose ≠ .operator ∧ (auto i).auto.item = some i ∧ i.outcome = none ∧
      i.aborted = false ∧ quietHolder (auto i) ((auto i).chan .a).session.block = none) := by
  refine ⟨by decide, by decide, by decide, by decide +kernel, ticketsOk_of_parts (by decide +kernel), ?_, by decide,
    by decide, by decide, by decide +kernel⟩
  intro st hs
  simp only [List.mem_cons, List.not_mem_nil, or_false] at hs
  obtain rfl | rfl := hs <;>
    exact ⟨⟨_, rfl, rfl, rfl⟩, ticketsOk_of_parts (by decide), by decide⟩

/-- A note of one closed entry and one open ticket's on the wire, 3 voids counted. -/
theorem test_meets_NotesCarryWhatIsPending :
    let es : List NoteEntry := [⟨0, 2, false, .short⟩, ⟨2048, 1, true, .short⟩]
    let f : QueuedFrame := ⟨.noteMark, 2, 2, 0, 3, 0, false, none⟩
    let s := (stored [{ ticket 1 2048 .opened with announcePending := true }] office).updTickets (fun t =>
      { t with closedNotes := [⟨0, 2, false, .short⟩] }) |>.updLink fun l =>
        { l with queue := [f], nextEntry := 1, wire := some ⟨0, .ticketNote es, 1⟩ }
    noteEntries s.ticketStore = (es, 1) ∧ s.link.wire = some ⟨f.entry, .ticketNote es, 1⟩ ∧ LinkOk s.link ∧
    f ∈ s.link.queue ∧ f.body = .noteMark ∧ f.voids = 3 ∧ s.inFarewell = false :=
  ⟨by decide, by decide, linkOk_of_parts (by decide), by decide, by decide, by decide, by decide⟩

/-- Each check of TICKET HANDOVER; offers heard in JOINING and in ACTIVE, for this station, with a ticket on the line
and without, with 95 and 96 tickets; answers in time, late, from another station, for another station. -/
theorem test_meets_HandoversRunToTheirEnd :
    let offer : HandOffer := ⟨6, 1, 2048, .short, 0, none, ⟨.short, none⟩⟩
    let many (n : Nat) := (List.range n).map fun k => ticket (k + 1) (Fin.ofNat 65536 k) .opened
    let given (lapsed : Bool) (st : TicketState) := withEvents 29 (stored
      [{ ticket 1 2048 st with handover := some ⟨9, 0, false, lapsed⟩ }] office)
    let room (s : State) := queued (quiets 7 ++ releases 4) (withEvents 29 s)
    (office.port.phase = .expectCommand ∧ 0 < 1 ∧ 15 < 16 ∧ office.store.station = some 6 ∧ 1 ≤ 15 ∧ 15 ≤ 15 ∧
      office.store.station ≠ some 15 ∧ office.ticketStore.byNumber 9999 = none) ∧
    (∃ t, (linked .lost (owner .opened false [])).ticketStore.byNumber 1 = some t ∧
      (linked .lost (owner .opened false [])).link.state ≠ .active ∧ t.line = 2048) ∧
    ((owner .opened false []).link.state = .active ∧ (owner .opened false []).peer 15 = none ∧
      ((owner .opened false []).peer 9).isSome = true) ∧
    (∀ st ∈ [TicketState.opened, .retest, .handover, .cleared],
      (((owner st false []).ticketStore.byNumber 1).map (·.state)) = some st) ∧
    (let s := (stored [ticket 1 2048 .opened] (held .connected (some 5) .retest)).updSession .a fun x =>
        { x with linkedTicket := some 1 };
      linkedTo (s.chan .a).session 1 = true ∧ (s.ticketStore.byNumber 1).isSome = true) ∧
    ((∀ c, linkedTo ((room (owner .opened false [])).chan c).session 1 = false) ∧
      NoticeRoom (room (owner .opened false []))) ∧
    (Heard office 9 (.handOffer { offer with target := 15 }) ∧ office.store.station ≠ some 15) ∧
    (Heard (room (linked .joining office)) 9 (.handOffer offer) ∧ office.store.station = some offer.target ∧
      NoticeRoom (room (linked .joining office)) ∧ (room (linked .joining office)).link.state = .joining) ∧
    (Heard (room (owner .opened false [])) 9 (.handOffer offer) ∧ NoticeRoom (room (owner .opened false [])) ∧
      (room (owner .opened false [])).link.state = .active ∧
      ((room (owner .opened false [])).ticketStore.byLine 2048).isSome = true) ∧
    (∀ n ∈ [95, 96], let s := room (stored (many n) office)
      Heard s 9 (.handOffer offer) ∧ NoticeRoom s ∧ s.link.state = .active ∧ s.ticketStore.byLine 2048 = none ∧
      s.ticketStore.tickets.length = n ∧ (∀ t ∈ s.ticketStore.tickets, t.state ≠ .cleared) ∧
      TicketsOk s.ticketStore ∧ generalCount s.port.events < 30) ∧
    (∀ s ∈ [given false .handover, given true .opened, given false .opened], TicketsOk s.ticketStore ∧
      Heard s 9 (.handAccept 6 1 7) ∧ Heard s 3 (.handAccept 6 1 7) ∧ Heard s 9 (.handRefuse 6 1 .full) ∧
      Heard s 3 (.handRefuse 6 1 .full) ∧ Heard s 9 (.handAccept 15 1 7) ∧ Heard s 9 (.handRefuse 15 1 .full) ∧
      s.store.station = some 6 ∧ s.port.phase ≠ .starting ∧ generalCount s.port.events < 30 ∧
      ∃ t h, s.ticketStore.byNumber 1 = some t ∧ t.handover = some h ∧ h.target = 9 ∧ h.target ≠ 3) ∧
    (((given false .handover).ticketStore.byNumber 1).map (·.state) = some .handover ∧
      (((given true .opened).ticketStore.byNumber 1).bind (·.handover)).map (·.lapsed) = some true ∧
      (((given false .opened).ticketStore.byNumber 1).bind (·.handover)).map (·.lapsed) = some false) ∧
    (TicketsOk (owner .opened false []).ticketStore ∧ Heard (owner .opened false []) 9 (.handAccept 6 1 7) ∧
      ∃ t, (owner .opened false []).ticketStore.byNumber 1 = some t ∧ t.handover = none ∧ t.state ≠ .handover) := by
  refine ⟨by decide, ⟨_, rfl, by decide, by decide⟩, by decide, by decide, by decide,
    ⟨fun c => by cases c <;> decide, by constructor <;> decide +kernel⟩, ⟨heard_of_parts (by decide), by decide⟩,
    ⟨heard_of_parts (by decide), by decide, by constructor <;> decide +kernel, by decide⟩,
    ⟨heard_of_parts (by decide), by constructor <;> decide +kernel, by decide, by decide⟩, ?_, ?_, by decide,
    ticketsOk_of_parts (by decide), heard_of_parts (by decide), _, rfl, by decide, by decide⟩
  · intro n hn
    simp only [List.mem_cons, List.not_mem_nil, or_false] at hn
    obtain rfl | rfl := hn <;>
      exact ⟨heard_of_parts (by decide), by constructor <;> decide +kernel, by decide, by decide +kernel,
        by decide +kernel, by decide +kernel, ticketsOk_of_parts (by decide +kernel), by decide⟩
  · intro s hs
    simp only [List.mem_cons, List.not_mem_nil, or_false] at hs
    obtain rfl | rfl | rfl := hs <;>
      exact ⟨ticketsOk_of_parts (by decide), heard_of_parts (by decide), heard_of_parts (by decide),
        heard_of_parts (by decide), heard_of_parts (by decide), heard_of_parts (by decide),
        heard_of_parts (by decide), by decide, by decide, by decide, _, _, rfl, rfl, by decide, by decide⟩

/-! ### Premises that are met: the line and the transmit queue -/

/-- `office` in LOST from a cause. -/
def lostBy (k : LostCause) : State :=
  { office with roster := [], link := { Link.initial with state := .lost, cause := some k } }

/-- Each state of the link a row of the line meets, and the frames it may come with. -/
theorem test_meets_TheLineIsJoinedAndLost :
    let full (s : State) := withEvents 29 s
    let joining := full (linked .joining office)
    desk.port.phase = .expectCommand ∧
    ((lostBy .unheard).port.phase = .expectCommand ∧ (lostBy .unheard).link.state = .lost ∧
      (lostBy .unheard).link.cause = some .unheard ∧ (lostBy .unheard).softReset = none ∧
      generalCount (full (lostBy .unheard)).port.events < 30 ∧ (lostBy .unheard).declaredOut = [] ∧
      (lostBy .unheard).link.state ≠ .joining ∧ (lostBy .unheard).onLine = false) ∧
    ((lostBy .stuck).link.state = .lost ∧ (lostBy .stuck).link.cause ≠ some .unheard ∧
      (lostBy .stuck).link.cause = some .stuck ∧ (lostBy .stuck).softReset = none) ∧
    office.link.state ≠ .lost ∧ frameFits 15 (.quiet 0) = true ∧ (lostBy .unheard).store.station ≠ some 15 ∧
    (joining.onLine = true ∧ joining.link.state = .joining ∧ generalCount joining.port.events < 30 ∧
      joining.inFarewell = false) ∧
    (office.onLine = true ∧ office.inFarewell = false ∧ office.link.wire = none ∧
      frameFits 6 (.claim 0 0 .operator .a) = true ∧ office.store.station = some 6) ∧
    (∀ st ∈ [LinkState.off, .mute], (linked st desk).link.state = st ∧ (linked st desk).inFarewell = false) ∧
    (∀ s ∈ [office, linked .lost office], ¬ (s.onLine = true ∧ s.link.state = .joining)) ∧
    (∀ s ∈ [linked .off desk, linked .mute desk, inPhase .starting office], s.onLine = false ∧ s.inFarewell = false ∧
      ¬ (s.link.state = .lost ∧ s.softReset = none)) ∧
    ((lostBy .stuck).link.cause ≠ some .unheard ∧ (lostBy .unheard).link.cause ≠ some .stuck ∧
      frameFits 16 (.quiet 0) = false) ∧
    ((inPhase .starting office).link.state = .active ∧ (inPhase .starting office).link.wire = none) ∧
    ((lostBy .stuck).store.station = some 6 ∧ ({ office with softReset := some ⟨true, true⟩ }).inFarewell = true ∧
      (lostBy .stuck).store.station ≠ some 15 ∧ ¬ (office.link.state = .lost ∧ office.softReset = none)) := by
  decide +kernel

/-- A queue with a frame of each kind of body first; attempts under way of each kind; a frame never heard. -/
theorem test_meets_OwnAttemptsStartAndEnd :
    let first (b : QueuedBody) (u : Nat) (s : State) :=
      queued [⟨b, u, u, 0, 0, 0, false, some .a⟩, frame (.quiet 0) 3 1] s
    let notes := office.updTickets fun t => { t with closedNotes := [⟨0, 1, false, .short⟩] }
    (desk.link.queue = [] ∧ (claiming true).link.wire.isSome = true ∧ (linked .lost office).onLine = false ∧
      (linked .lost office).inFarewell = false) ∧
    (∀ s ∈ [first (.built (.release 0 0)) 0 office, first (.built (.claim 2048 3 .operator .a)) 1 office,
        first .presenceMark 3 office, first .noteMark 2 notes],
      s.onLine = true ∧ s.link.wire = none ∧ LinkOk s.link ∧ ∃ f ∈ s.link.queue, f.origin = some .a ∧
        ∀ g ∈ s.link.queue, f.urgency < g.urgency ∨ f.urgency = g.urgency ∧ f.entry ≤ g.entry) ∧
    (noteEntries notes.ticketStore = ([⟨0, 1, false, .short⟩], 1) ∧ [NoteEntry.mk 0 1 false .short] ≠ []) ∧
    (∀ b ∈ [FrameBody.release 2048 3, .quietEnd 2, .trunkNotice 3 true, .claim 2048 3 .operator .a, .quiet 2],
      let s := sent b office
      s.link.wire = some ⟨0, b, 0⟩ ∧ LinkOk s.link ∧ s.inFarewell = false ∧ s.link.state = .active ∧ s.roster ≠ [] ∧
      ∃ f ∈ s.link.queue, f.entry = 0 ∧ f.body = .built b ∧ f.origin = some .a ∧ f.voids = 3 ∧ f.losses = 7) ∧
    (sent (.trunkNotice 3 true) (withEvents 29 office)).link.linkError = false ∧
    (let s := (claiming true);
      s.link.wire = some ⟨0, .claim 2048 3 .operator .a, 0⟩ ∧ (∃ f ∈ s.link.queue, f.entry = 0 ∧ f.voids < 3 ∧
        f.body = .built (.claim 2048 3 .operator .a) ∧ f.origin = some .a) ∧ s.inFarewell = false ∧
      (s.chan .a).session.state = .claiming ∧ (s.chan .a).session.cancelPending = false ∧
      (s.chan .a).claim.withdrawal = none ∧ (s.chan .a).session.relayStep = none ∧
      (s.chan .a).session.frozenAtClaim = false ∧ s.watch.op = .off ∧ quietedBy s .a 2 = none) ∧
    (let s := asking true (held .measuring (some 5));
      (s.chan .a).quiet.block = some 2 ∧ (s.chan .a).quiet.withdrawal = none ∧ (s.chan .a).session.state ≠ .idle ∧
      (s.chan .b).session.block ≠ 2 ∧ s.link.wire = some ⟨0, .quiet 2, 0⟩) ∧
    (let s := (claiming true).updClaim .a fun q => { q with withdrawal := some .trunk };
      s.link.wire = some ⟨0, .claim 2048 3 .operator .a, 0⟩ ∧ s.inFarewell = false ∧
      s.link.claimFrame .a = some { frame (.claim 2048 3 .operator .a) 1 0 with origin := some .a } ∧
      s.link.claimFrame .a = s.link.queue.head? ∧ (s.chan .a).session.cancelPending = false ∧
      (s.chan .a).claim.withdrawal = some .trunk ∧
      chooseRoute (s.setTrunk 3 ⟨.out, 3, some .self, 0, 0⟩) 2048 = .trunk 4) ∧
    ((sent (.release 2048 3) (held .closing none)).chan .a).session.state = .closing ∧
    (let s := commanded .access ((claiming true).updSession .a fun x => { x with cancelPending := true });
      s.link.wire = some ⟨0, .claim 2048 3 .operator .a, 0⟩ ∧ (∃ f ∈ s.link.queue, f.entry = 0 ∧
        f.body = .built (.claim 2048 3 .operator .a) ∧ f.origin = some .a) ∧ s.onLine = true ∧ s.link.state = .active ∧
      s.inFarewell = false ∧ s.roster ≠ [] ∧ (s.chan .a).session.cancelPending = true ∧
      (s.chan .a).session.purpose = .operator ∧ (s.chan .a).command = some .access ∧ s.done .a = false) ∧
    LinkOk (claiming true).link ∧ LinkOk (asking true (held .measuring (some 5))).link ∧ desk.link.wire = none := by
  refine ⟨by decide, ?_, by decide, ?_, by decide, by decide, by decide, by decide +kernel, by decide, by decide,
    linkOk_of_parts (by decide), linkOk_of_parts (by decide), by decide⟩
  · intro s hs
    simp only [List.mem_cons, List.not_mem_nil, or_false] at hs
    obtain rfl | rfl | rfl | rfl := hs <;>
      exact ⟨by decide, by decide, linkOk_of_parts (by decide), by decide +kernel⟩
  · intro b hb
    simp only [List.mem_cons, List.not_mem_nil, or_false] at hb
    obtain rfl | rfl | rfl | rfl | rfl := hb <;>
      exact ⟨by decide, linkOk_of_parts (by decide), by decide, by decide, by decide, by decide⟩

/-- A queue of 11 and of 12 slots in use with a frame that waits; a holding area of none, one, 3 and 4; the marks; 12
frames of which one may be displaced, a frame waiting and not, and none. -/
theorem test_meets_FramesEnterTheQueueInTheirOrder :
    let f := frame (.release 0 0) 0 0
    let n := frame (.trunkNotice 3 true) 2 0
    let wait (s : State) := s.updLink fun l => { l with waiting := [f] }
    let hold (k : Nat) (s : State) := s.updLink fun l => { l with holding := List.replicate k n }
    let mark (s : State) := s.updLink fun l => { l with presenceMark := true }
    let notes (s : State) := s.updTickets fun t => { t with closedNotes := [⟨0, 1, false, .short⟩] }
    let newest := queued (releases 11 ++ [frame (.trunkNotice 3 true) 2 11]) office
    let marked := queued (releases 11 ++ [⟨.presenceMark, 3, 3, 11, 0, 0, false, none⟩]) office
    (desk.link.waiting = [] ∧ 12 ≤ (queued (releases 12) office).link.queue.length) ∧
    ((wait office).link.waiting ≠ [] ∧ (wait office).link.queue.length < 12) ∧
    ((wait (queued (releases 11) office)).link.waiting = f :: [] ∧
      (wait (queued (releases 11) office)).link.queue.length < 12) ∧
    (desk.link.holding = [] ∧ 8 ≤ lowCount (queued (quiets 8) office).link.queue ∧ (wait office).link.waiting ≠ []) ∧
    (let s := hold 1 (queued (quiets 7 ++ releases 4) office);
      s.link.holding = n :: [] ∧ lowCount s.link.queue < 8 ∧ s.link.queue.length < 12 ∧ s.link.waiting = []) ∧
    (linked .lost office).onLine = false ∧
    (∀ s ∈ [mark (hold 4 (queued (quiets 3 ++ releases 4) office)),
        notes (hold 4 (queued (quiets 3 ++ releases 4) office))],
      s.onLine = true ∧ s.link.waiting = [] ∧ lowCount s.link.queue + s.link.holding.length < 8 ∧
      s.link.queue.length + s.link.holding.length < 12) ∧
    (mark desk).link.presenceMark = true ∧
    (desk.link.presenceMark = false ∧ (notes desk).ticketStore.hasNotes = true ∧
      ∀ f ∈ (queued (quiets 3) desk).link.queue, f.body ≠ .noteMark) ∧
    UrgentRoom (queued (releases 11) office) ∧
    (12 ≤ (queued (releases 12) office).link.queue.length ∧
      ∀ f ∈ (queued (releases 12) office).link.queue,
        2 ≤ f.first → (queued (releases 12) office).link.onWire f = true) ∧
    (∀ s ∈ [newest, wait newest, marked], 12 ≤ s.link.queue.length ∧ LinkOk s.link ∧
      s.link.holding.length < 4 ∧ ∃ g, s.link.queue = releases 11 ++ g :: [] ∧ 2 ≤ g.first ∧ s.link.onWire g = false) ∧
    NoticeRoom (queued (quiets 7 ++ releases 4) office) ∧
    ((hold 3 office).link.holding ≠ [] ∧ (hold 3 office).link.holding.length < 4) ∧
    ((hold 4 office).link.holding = n :: [n, n, n] ∧ [n, n, n].length = 3) := by
  refine ⟨by decide, by decide, by decide, by decide, by decide, by decide, by decide, by decide, by decide,
    by constructor <;> decide, by decide, ?_, by constructor <;> decide, by decide, by decide⟩
  intro s hs
  simp only [List.mem_cons, List.not_mem_nil, or_false] at hs
  obtain rfl | rfl | rfl := hs <;>
    exact ⟨by decide, linkOk_of_parts (by decide), by decide, _, rfl, by decide, by decide⟩

/-! ### Premises that are met: ticket commands, automatic work and the watch -/

/-- Each check of the three commands; 95 and 96 tickets, all open or the last CLEARED; 15 and 16 closed notes; the
counter at 9,999. -/
theorem test_meets_TicketCommandsKeepTheStore :
    let many (n : Nat) := (List.range n).map fun k => ticket (k + 1) (Fin.ofNat 65536 k) .opened
    let last (b : Bool) : Ticket := { ticket 9999 100 .cleared with announcePending := b }
    let index := office.updTickets fun t => { t with index := [⟨2048, 9, 1, .short⟩] }
    (office.port.phase = .expectCommand ∧ FaultClass.short ≠ .pass ∧ State.reset.store.configured = false ∧
      office.store.configured = true) ∧
    ((owner .opened false []).ticketStore.byLine 2048).isSome = true ∧
    (index.ticketStore.byLine 2048 = none ∧ index.ticketStore.indexFor 2048 = some ⟨2048, 9, 1, .short⟩) ∧
    (let s := stored (many 96) office;
      s.ticketStore.byLine 2048 = none ∧ s.ticketStore.indexFor 2048 = none ∧ 96 ≤ s.ticketStore.tickets.length ∧
      ∀ t ∈ s.ticketStore.tickets, t.state ≠ .cleared) ∧
    (let s := (stored (many 95) office).updTickets fun t => { t with nextNumber := 9999 };
      s.ticketStore.byLine 2048 = none ∧ s.ticketStore.indexFor 2048 = none ∧ s.ticketStore.tickets.length < 96 ∧
      (∀ t ∈ s.ticketStore.tickets, t.number ≠ s.ticketStore.nextNumber)) ∧
    TicketsOk ((stored (many 95) office).updTickets fun t => { t with nextNumber := 9999 }).ticketStore ∧
    (∀ b ∈ [true, false],
      let s := (stored (many 95 ++ [last b]) office).updTickets fun t => { t with
        closedNotes := List.replicate 15 ⟨0, 1, false, .short⟩ }
      s.ticketStore.tickets = many 95 ++ last b :: [] ∧ 96 ≤ s.ticketStore.tickets.length ∧ TicketsOk s.ticketStore ∧
      (∀ x ∈ many 95, x.state ≠ .cleared) ∧ (last b).state = .cleared ∧ (last b).announcePending = b ∧
      s.ticketStore.closedNotes.length < 16 ∧ s.ticketStore.byLine 2048 = none) ∧
    office.ticketStore.byNumber 9999 = none ∧
    (∀ st ∈ [TicketState.opened, .retest, .handover, .cleared],
      (((owner st false []).ticketStore.byNumber 1).map (·.state)) = some st) ∧ 1 ≤ 1 := by
  refine ⟨by decide, by decide, by decide, by decide +kernel, by decide +kernel, ticketsOk_of_parts (by decide +kernel),
    ?_, by decide, by decide, by decide⟩
  intro b hb
  simp only [List.mem_cons, List.not_mem_nil, or_false] at hb
  obtain rfl | rfl := hb <;>
    exact ⟨by decide +kernel, by decide +kernel, ticketsOk_of_parts (by decide +kernel), by decide +kernel, by decide,
      by decide, by decide +kernel, by decide +kernel⟩

/-- `office` with automatic channel A and the engine in a run state. -/
def engine (r : RunState) (f : AutoEngine → AutoEngine) (s : State) : State :=
  (s.updStore fun t => { t with autoChannel := some .a }).updAuto fun a => f { a with run := r }

/-- A sweep item on line 2048. -/
def item : Item := ⟨.sweep, 2048, none, fvOnly, 0, false, none, false⟩

/-- A sweep with its cursor on line 2048. -/
def sweep (p : SweepPhase) : Sweep := ⟨2048, 3071, fvOnly, 0, p, 2048, [], 0, 0, 0⟩

/-- The run states and items the commands meet. -/
theorem test_meets_TheEngineIsSteeredAndChooses :
    let busyA := held .connected (some 5) .operator
    let frozen (k : FreezeCause) (s : State) := engine .frozen (fun a => { a with
      returnState := some .running, freezeCause := some k, item := some item }) s
    let idleFrozen := engine .frozen (fun a => { a with returnState := some .stepping }) office
    ((0 : Line) < 1 ∧ (65535 : Line) ≤ 65535 ∧ fvOnly ≠ ⟨false, false, false, false, false⟩ ∧
      office.auto.run = .halted ∧ (engine .frozen id office).auto.run ≠ .halted ∧ office.port.phase = .expectCommand) ∧
    (State.reset.auto.run = .halted ∧ State.reset.store.configured = false ∧ office.store.configured = true ∧
      (engine .stopping id office).auto.run ≠ .halted ∧ (engine .stopping id office).auto.run ≠ .frozen ∧
      (office.updStore fun t => { t with autoChannel := none }).store.autoChannel = none) ∧
    ((engine .halted id (busyA)).store.autoChannel = some .a ∧ (engine .halted id busyA).auto.run = .halted ∧
      ((engine .halted id busyA).chan .a).session.state ≠ .idle ∧
      ((engine .halted id busyA).chan .a).session.purpose = .operator) ∧
    ((engine .halted id office).store.autoChannel = some .a ∧
      ((engine .halted id office).chan .a).session.state = .idle) ∧
    (∀ r ∈ [RunState.halted, .stopping, .stepping], (engine r id office).auto.run = r) ∧
    ((engine .running (fun a => { a with item := some item }) office).auto.run = .running ∧
      (engine .running (fun a => { a with item := some item }) office).auto.item.isSome = true) ∧
    ((engine .running id office).auto.run = .running ∧ (engine .running id office).auto.item = none) ∧
    ((frozen .watchRequest office).auto.run = .frozen ∧
      (frozen .watchRequest office).auto.freezeCause = some .watchRequest) ∧
    (idleFrozen.auto.run = .frozen ∧ idleFrozen.auto.item = none ∧ idleFrozen.auto.returnState = some .stepping) ∧
    (let s := frozen .watchClaim (held .claimed none .sweep);
      s.auto.run = .frozen ∧ s.auto.returnState = some .running ∧ s.auto.item = some item ∧
      s.store.autoChannel = some .a ∧ s.auto.freezeCause = some .watchClaim ∧ (s.chan .a).session.state = .claimed ∧
      (s.chan .a).session.relayStep = none ∧ quietedBy s .a (s.chan .a).session.block = none) ∧
    ((frozen .watchRequest office).store.autoChannel = some .a ∧
      ((frozen .watchRequest office).chan .a).session.state = .idle) ∧
    ((engine .running id (linked .lost office)).link.state ≠ .active ∧
      (engine .running (fun a => { a with waitingForRoom := true }) office).auto.waitingForRoom = true) := by
  decide +kernel

/-- ABORT with the item's session in each state it can have reached, its outcome open and fixed; a claim whose frame is
gone, off the wire and on it; before step 1 and at steps 1 to 5. -/
theorem test_meets_TheEngineIsSteeredAndChooses_abort :
    let at_ (s : State) := engine .running (fun a => { a with item := some item }) s
    let fixed := { item with outcome := some .timeout }
    let f : QueuedFrame := { frame (.claim 2048 3 .sweep .a) 1 0 with origin := some .a }
    let auto (s : State) := s.auto.run ≠ .halted ∧ s.auto.item = some item ∧ item.outcome = none ∧
      s.store.autoChannel = some .a ∧ (s.chan .a).session.purpose ≠ .operator
    (∀ st ∈ [SessionState.connected, .measuring, .releasing, .guard, .closing, .claimed],
      auto (at_ (held st (some 5) .sweep)) ∧ ((at_ (held st (some 5) .sweep)).chan .a).session.state = st) ∧
    (∀ st ∈ [SessionState.connecting, .deferred], ∀ k ∈ [1, 2, 3, 4, 5], let s := at_ (held st (some k) .sweep)
      auto s ∧ (s.chan .a).session.state = st ∧ (s.chan .a).session.relayStep = some k) ∧
    (let s := at_ (held .deferred none .sweep);
      auto s ∧ (s.chan .a).session.state = .deferred ∧ (s.chan .a).session.relayStep = none) ∧
    (let s := at_ (held .claiming none .sweep);
      auto s ∧ (s.chan .a).session.state = .claiming ∧ s.link.claimFrame .a = none) ∧
    (∀ b ∈ [true, false], let s := at_ (claiming b .sweep)
      auto s ∧ (s.chan .a).session.state = .claiming ∧ s.link.claimFrame .a = some f ∧ s.link.onWire f = b) ∧
    (∀ st ∈ [SessionState.closing, .guard, .releasing],
      let s := engine .running (fun a => { a with item := some fixed }) (held st (some 5) .sweep)
      s.auto.run ≠ .halted ∧ s.auto.item = some fixed ∧ fixed.outcome ≠ none ∧ s.store.autoChannel = some .a ∧
      (s.chan .a).session.purpose ≠ .operator ∧ (s.chan .a).session.state ≠ .idle) ∧
    UrgentRoom (queued (releases 11) (at_ (held .claimed none .sweep))) :=
  ⟨by decide +kernel, by decide +kernel, by decide, by decide, by decide, by decide, by constructor <;> decide⟩

/-- An engine frozen at a request, its item a retest whose ticket is gone, one whose ticket stands, and a sweep's
line, that finds the line lost, the queue full and the claim's checks passed; one frozen at a claim, on a free block
and on one station 9 has quieted. -/
theorem test_meets_TheEngineIsSteeredAndChooses_frozen :
    let retest : Item := ⟨.retest, 2048, some 1, fvOnly, 0, false, none, false⟩
    let stands (i : Item) (s : State) := ∀ n, i.purpose = .retest → i.ticket = some n →
      ∃ t, s.ticketStore.byNumber n = some t ∧ t.state = .retest
    let frozen (r : RunState) (k : FreezeCause) (i : Item) (s : State) := engine .frozen (fun a => { a with
      returnState := some r, freezeCause := some k, item := some i }) s
    let request := frozen .stepping .watchRequest
    let planned := stored [{ ticket 1 2048 .retest with plan := some ⟨1, 1, 0⟩ }] office
    let claimed := held .claimed none .sweep (office9 fun p => { p with quiets := [⟨2, 10500⟩] })
    ¬ stands retest (request retest office) ∧ stands retest (request retest planned) ∧
    stands item (request item office) ∧
    checkClaim (request item (linked .lost office)) .a 2048 (aheadOfEngine (request item (linked .lost office))) =
      .linkDown ∧
    checkClaim (request item (queued (quiets 8) office)) .a 2048
      (aheadOfEngine (request item (queued (quiets 8) office))) = .linkBusy ∧
    (∀ i ∈ [item, retest], checkClaim (request i planned) .a i.line (aheadOfEngine (request i planned)) = .passes 3) ∧
    (∀ r ∈ [RunState.running, .stepping], let s := frozen r .watchClaim item claimed;
      s.auto.run = .frozen ∧ s.auto.returnState = some r ∧ s.auto.item = some item ∧ s.store.autoChannel = some .a ∧
      s.auto.freezeCause = some .watchClaim ∧ (s.chan .a).session.state = .claimed ∧
      (s.chan .a).session.relayStep = none ∧ quietedBy s .a (s.chan .a).session.block = some (.station 9)) := by
  refine ⟨fun h => ?_, fun n _ e => ?_, fun n e => ?_, by decide +kernel, by decide +kernel, by decide +kernel,
    by decide +kernel⟩
  · obtain ⟨t, e, -⟩ := h 1 rfl rfl
    cases e
  · cases e
    exact ⟨_, rfl, rfl⟩
  · cases e

/-- What the arbiter chooses: nothing, the one due retest, the line under the cursor with room, without, and asked for
under STOP-ON-REQUEST. -/
theorem test_meets_TheEngineIsSteeredAndChooses_choice :
    let w (p : SweepPhase) (a : AutoEngine) : AutoEngine := { a with sweep := some (sweep p) }
    let none_ := withEvents 29 (engine .stepping (w .complete) office)
    let t : Ticket := { ticket 1 2048 .retest with plan := some ⟨1, 1, 0⟩ }
    let due := stored [t, { ticket 2 0 .retest with plan := some ⟨1, 1, 1⟩ }] (engine .running (w .main) office)
    let next := withEvents 29 (queued (quiets 7 ++ releases 4) (engine .running (w .main) office))
    let full := queued (quiets 8) (engine .running (w .main) office)
    let asked := { next with watch := ⟨.stopOnRequest, 2048, .ownAutomatic, none, 0⟩ }
    (∀ s ∈ [none_, due, next, full, asked], (s.auto.run = .running ∨ s.auto.run = .stepping) ∧ s.auto.item = none ∧
      s.link.state = .active ∧ s.port.phase ≠ .starting ∧ s.auto.waitingForRoom = false ∧
      s.store.autoChannel = some .a ∧ (s.chan .a).session.state = .idle) ∧
    (none_.ticketStore.tickets = [] ∧ (sweep .complete).phase = .complete ∧ none_.auto.run = .stepping ∧
      generalCount none_.port.events < 30) ∧
    (t ∈ due.ticketStore.tickets ∧ t.state = .retest ∧ t.plan = some ⟨1, 1, 0⟩ ∧ 0 ≤ due.store.clock ∧
      (∀ x ∈ due.ticketStore.tickets, x.plan.all (fun q => decide (0 ≤ q.nextDue)) = true) ∧
      (∀ x ∈ due.ticketStore.tickets, x.plan.any (fun q => decide (q.nextDue = 0)) = true → x = t) ∧
      (due.blockEntry (blockOf 2048)).isSome = true ∧
      checkClaim due .a 2048 (aheadOfEngine due) = .passes 3 ∧ due.watch.op ≠ .stopOnRequest) ∧
    (∀ s ∈ [next, full, asked], s.ticketStore.tickets = [] ∧ s.auto.sweep = some (sweep .main) ∧
      s.ticketStore.byLine 2048 = none ∧ s.ticketStore.indexFor 2048 = none ∧
      (s.blockEntry (blockOf 2048)).isSome = true ∧ item = ⟨.sweep, 2048, none, fvOnly, 0, false, none, false⟩) ∧
    checkClaim full .a 2048 (aheadOfEngine full) = .linkBusy ∧
    (checkClaim next .a 2048 (aheadOfEngine next) = .passes 3 ∧ next.watch.op ≠ .stopOnRequest) ∧
    (checkClaim asked .a 2048 (aheadOfEngine asked) = .passes 3 ∧ asked.watch.op = .stopOnRequest ∧
      asked.watch.line = 2048 ∧ filterAdmits .ownAutomatic true asked.ownStation .sweep = true ∧
      generalCount asked.port.events < 30) := by decide +kernel

/-- An automatic session at each row that measures nothing, MEASURING with its request due and meeting a loop closure
among them, its item's outcome fixed, left by ABORT and open; a sweep
in MAIN with its deferred list empty, of 15 and of 16 lines, before its last line and at it; one in DEFERRED-PASS. -/
theorem test_meets_OutcomesMoveTheSweepAndTheRetests :
    let at_ (i : Item) (st : SessionState) (k : Nat) := ((held st (some k) .sweep).updClaim .a fun q =>
      { q with stage := .held }).updAuto fun a => { a with item := some i }
    let w (n : Nat) (p : SweepPhase) : Sweep := { sweep p with
      deferred := (List.range n).map (Fin.ofNat 65536 ·), tested := 65535 }
    let i (l : Line) (b : Bool) : Item := ⟨.sweep, l, none, fvOnly, 0, b, none, false⟩
    (∀ j ∈ [item, { item with outcome := some .timeout }, { item with aborted := true }],
      (∀ s ∈ [at_ j .connecting 3, at_ j .connecting 4, at_ j .connected 5], s.auto.item = some j ∧
        (s.chan .a).session.purpose ≠ .operator ∧ (s.chan .b).session.purpose = .operator) ∧
      ((at_ j .connecting 3).chan .a).seq.confirmTaken = false ∧ ((at_ j .connecting 3).chan .a).claim.stage = .held ∧
      ((at_ j .connecting 4).chan .a).session.forced = false ∧
      (((at_ j .connecting 4).updSeq .a fun q => { q with inUse := true }).chan .a).seq.inUse = true) ∧
    (let s := atTime 556 (running .running (some (.fv .tg)) allStages (at_ item .measuring 5));
      HeadDue s .a ∧ (s.chan .a).engine.record ≠ none ∧ (s.chan .a).session.state = .measuring ∧
      (s.chan .a).session.purpose ≠ .operator ∧ (s.chan .b).session.purpose = .operator ∧
      s.auto.item = some item) ∧
    (∀ n ∈ [0, 15, 16], SweepOk (w n .main) ∧ (w n .main).phase = .main ∧ (i 2048 false).line ≤ (w n .main).last ∧
      (i 2048 false).line < (w n .main).last ∧ (i 3071 false).line = (w n .main).last ∧
      (i 2048 false).line ∉ (w n .main).deferred ∧ (w n .main).deferred.length = n) ∧
    (∀ n ∈ [1, 2], SweepOk (w n .deferredPass) ∧ (i 0 true).fromDeferred = true ∧
      (w n .deferredPass).phase = .deferredPass ∧ (i 0 true).line ∈ (w n .deferredPass).deferred) := by
  refine ⟨by decide, ⟨headDue_of_timedOut (by decide), by decide⟩, ?_, ?_⟩
  · intro n hn
    simp only [List.mem_cons, List.not_mem_nil, or_false] at hn
    obtain rfl | rfl | rfl := hn <;>
      exact ⟨⟨by decide, by decide +kernel, by decide, by decide, by decide⟩, by decide, by decide, by decide,
        by decide, by decide +kernel, by decide⟩
  · intro n hn
    simp only [List.mem_cons, List.not_mem_nil, or_false] at hn
    obtain rfl | rfl := hn <;>
      exact ⟨⟨by decide, by decide, by decide, by decide, by decide⟩, by decide, by decide, by decide⟩

/-- A cursor on a line of an absent block, on a ticketed line, on the last line and on one to test; the heads of a
deferred list alike; a walk that comes to an item, and one to its end. -/
theorem test_meets_TheWalkPassesOverBlockedLines :
    let at_ (p : SweepPhase) (l : Line) (d : List Line) := (stored [ticket 1 2049 .opened] office).updAuto fun a =>
      { a with sweep := some { sweep p with cursor := l, last := 65535, deferred := d } }
    let absent (s : State) (l : Line) := s.blockEntry (blockOf l) = none
    let meets (l : Line) := ∀ p ∈ [SweepPhase.main, .deferredPass, .complete],
      (at_ p l [l]).auto.sweep.map (fun w => (w.phase, w.cursor, w.deferred)) = some (p, l, [l]) ∧
      earliestDue (at_ p l [l]).store.clock (at_ p l [l]).ticketStore.tickets = none
    (meets 0 ∧ meets 2048 ∧ meets 2049 ∧ meets 65535) ∧
    (absent (at_ .main 0 []) 0 ∧ absent (at_ .main 65535 []) 65535) ∧
    (¬ absent (at_ .main 2048 []) 2048 ∧ ¬ absent (at_ .main 2049 []) 2049) ∧
    (ticketed (at_ .main 2049 []).ticketStore 2049 = true ∧ ticketed (at_ .main 2048 []).ticketStore 2048 = false) ∧
    generalCount (at_ .main 0 []).port.events < 30 ∧
    (chooseItem (at_ .main 0 [])).2 = some ⟨.sweep, 2048, none, fvOnly, 0, false, none, false⟩ ∧
    (chooseItem (at_ .main 64512 [])).2 = none := by
  refine ⟨by decide +kernel, by decide +kernel, by decide +kernel, by decide +kernel, by decide +kernel,
    by decide +kernel, by decide +kernel⟩

/-- The watch's arguments at the ends of their ranges; a claim heard in MONITOR on the watched line and on another,
with a WATCH-HIT waiting and not; an own automatic claim taken in STOP-ON-CLAIM. -/
theorem test_meets_TheWatchCapturesAndStops :
    let monitor (f : WatchFilter) (s : State) : State := { s with watch := ⟨.monitor, 2048, f, none, 254⟩ }
    let hit := (monitor .any office).updPort fun p => { p with events := [{ kind := .watchHit }] }
    let stop : State := withEvents 29 (engine .running (fun a => { a with item := some item })
      { claiming true .sweep with watch := ⟨.stopOnClaim, 2048, .own, none, 255⟩ })
    (office.port.phase = .expectCommand ∧ 0 < 1 ∧ 15 < 16 ∧
      (FilterArg.any, WatchFilter.any) ∈ [(FilterArg.any, WatchFilter.any), (.own, .own)] ∧ 1 ≤ 15 ∧ 15 ≤ 15) ∧
    (∀ s ∈ [withEvents 29 (monitor .any office), monitor (.station 15) office, hit],
      Heard s 9 (.claim 2048 3 .sweep .b) ∧ Heard s 9 (.claim 2049 3 .sweep .b) ∧ Uncontested s [(2048, 3)] ∧
      Uncontested s [(2049, 3)] ∧ s.watch.op = .monitor ∧ s.watch.line = 2048) ∧
    (filterAdmits (.station 15) false 9 .sweep = false ∧ filterAdmits .any false 9 .sweep = true) ∧
    (∃ e ∈ hit.port.events, e.kind = .watchHit) ∧
    ((∀ e ∈ (withEvents 29 office).port.events, e.kind ≠ .watchHit) ∧
      generalCount (withEvents 29 office).port.events < 30) ∧
    (stop.link.wire = some ⟨0, .claim 2048 3 .sweep .a, 0⟩ ∧
      { frame (.claim 2048 3 .sweep .a) 1 0 with origin := some .a } ∈ stop.link.queue ∧ stop.inFarewell = false ∧
      (stop.chan .a).session.state = .claiming ∧ (stop.chan .a).session.cancelPending = false ∧
      (stop.chan .a).session.purpose ≠ .operator ∧ stop.watch.op = .stopOnClaim ∧
      stop.watch.line = (stop.chan .a).session.line ∧
      filterAdmits stop.watch.filter true stop.ownStation .sweep = true ∧ stop.auto.run = .running ∧
      quietedBy stop .a (stop.chan .a).session.block = none ∧
      generalCount stop.port.events < 30) ∧
    LinkOk stop.link := by
  refine ⟨by decide, ?_, by decide, by decide, by decide, by decide, linkOk_of_parts (by decide)⟩
  intro s hs
  simp only [List.mem_cons, List.not_mem_nil, or_false] at hs
  obtain rfl | rfl | rfl := hs <;>
    exact ⟨heard_of_parts (by decide), heard_of_parts (by decide), fun c => by cases c <;> decide,
      fun c => by cases c <;> decide, by decide, by decide⟩

/-- SOFT RESET in another phase; taken on a line ACTIVE and not, with clears owed and not; a farewell going on, ended, and
none; the configuration kept and not, from JOINING and from ACTIVE. -/
theorem test_meets_ASoftResetSaysFarewellAndStartsAnew :
    let during (k f : Bool) (s : State) : State := { inPhase .starting s with softReset := some ⟨k, f⟩ }
    State.reset.port.phase ≠ .expectCommand ∧
    (desk.port.phase = .expectCommand ∧ desk.link.state = .active ∧ (linked .lost desk).link.state ≠ .active) ∧
    (let s := (onTheLine .releasing (some 5)).updClears .a fun _ =>
        [⟨2, 9, true, true⟩, ⟨2, 3, true, false⟩, ⟨2, 9, false, false⟩];
      s.port.phase = .expectCommand ∧ s.link.state = .active ∧ (s.chan .a).claim.stage = .held ∧
      ((s.chan .a).clears.filter (·.busyTaken)).length = 2) ∧
    (desk.inFarewell = false ∧ (during true true desk).inFarewell = true ∧ desk.softReset = none) ∧
    (∀ k ∈ [true, false], (during k false desk).softReset = some ⟨k, false⟩ ∧ (during k false desk).declaredOut = []) ∧
    ((during true false desk).store.configured = true ∧ (during true false desk).link.state ≠ .joining ∧
      (during true false (linked .joining desk)).link.state = .joining) :=
  ⟨by decide, by decide, by decide, by decide, by decide +kernel, by decide⟩

/-- A state other than reset that is within every limit, and a step from it that answers. -/
theorem test_meets_EveryStepKeepsTheInvariant :
    ∃ t, Inv { State.reset with now := 1, pending := [.holdSet .a] } ∧
      step { State.reset with now := 1, pending := [.holdSet .a] } = .next t := by
  refine ⟨_, ⟨⟨by decide, fun c => by cases c <;> decide, by decide, by decide⟩, ⟨?_, ?_, ?_, by decide, ?_⟩,
    linkOk_of_parts (by decide), rosterOk_of_parts (by decide), ⟨by decide, by decide⟩, ticketsOk_of_parts (by decide),
    ?_, by decide⟩, rfl⟩
  · intro e he b hb
    have h := (Vector.mem_replicate.mp (Vector.mem_toList_iff.mp he)).2
    rw [hb] at h
    cases h
  · intro e he
    obtain rfl := (Vector.mem_replicate.mp (Vector.mem_toList_iff.mp he)).2
    exact ⟨by decide, by decide, by decide, by decide, by decide, by decide⟩
  · exact ⟨by decide, by decide, by decide, by decide, by decide, by decide, by decide⟩
  · intro n h
    cases h
  · intro w h
    cases h

/-! ### The manual's worked cases, one step each -/

/-- A line's block (chapter 1: line 12,400 is in block 12, 65,535 in block 63, 1,023 in block 0). -/
theorem test_blocks_of_lines : blockOf 12400 = 12 ∧ blockOf 65535 = 63 ∧ blockOf 1023 = 0 := by decide

/-- A short on T-R at HIGH (3.5): 5,735 ohms, 20,931 m. -/
theorem test_short_on_TR :
    legCurrent .high 11472 16 = 7001953 ∧ legOf .high 11472 16 0 120 = ⟨.high, some 5735, false, false, false⟩ ∧
    distanceOf 5735 137 = 20931 := by decide +kernel

/-- An insulation reading that goes to LOW (3.5): 1,184,559 ohms. -/
theorem test_insulation_at_LOW :
    legCurrent .low 2784 32 = 84960 ∧ legOf .low 2784 32 (-1500) 120 = ⟨.low, some 1184559, false, false, false⟩ := by
  decide +kernel

/-- Capacitance, length and settle (3.5): 503 nF, 9,673 m, 25 ms. -/
theorem test_capacitance_length_settle :
    capOf 3614 18 = ⟨503, false, false⟩ ∧ lengthOf 3614 503 52 = 9673 ∧ extensionOf 9673 8000 25 = 25 ∧
    rangeSettle .high 25 = 65 ∧ rangeSettle .low 25 = 425 := by decide +kernel

/-- Foreign voltage (3.5): 3,662 mV DC and 23,071 mV AC. -/
theorem test_foreign_voltage : fvOf ⟨1200, 1478000, 600, 0⟩ = ⟨3662, 23071, false⟩ := by decide +kernel

/-- The deciding value of two foreign voltages (3.6): R-G, AC, 31,000 mV. -/
theorem test_deciding_foreign_voltage :
    let r := { started fvOnly with fvTG := some ⟨-12400, 0, false⟩, fvRG := some ⟨0, 31000, false⟩ }
    classOf copied r = .foreignVoltage ∧
    decidingOf copied r .foreignVoltage = some ⟨.leg .rg (some .ac), 31000⟩ := by decide

/-- The complete measurement (chapter 3): its legs, and LOW-INSULATION decided by R-G with 525,086 ohms. -/
theorem test_complete_measurement :
    let tg := fvOf ⟨-328, 12000, 41, 0⟩
    let rg := fvOf ⟨656, 20000, 52, 0⟩
    let r := { started allStages with
      fvTG := some tg, fvRG := some rg, cap := some (capOf 3614 18), length := some 9673, extension := 25 }
    let full := { r with
      legTR := some (legOf .low 200 16 (foreignDC r .tr) 120)
      legTG := some (legOf .low 1500 16 (foreignDC r .tg) 120)
      legRG := some (legOf .low 3000 16 (foreignDC r .rg) 120) }
    tg = ⟨-1000, 1831, false⟩ ∧ rg = ⟨2001, 1831, false⟩ ∧ full.ohms .tr = some 8427743 ∧
    full.ohms .tg = some 1093078 ∧ full.ohms .rg = some 525086 ∧ (classified copied full).cls = some .lowInsulation ∧
    (classified copied full).deciding = some ⟨.leg .rg none, 525086⟩ ∧ (classified copied full).distance = none := by
  decide +kernel

/-- Station 6 with block 12 over trunks 7, 3 and 11; station 4 holds line 12,700 on trunk 7 (1.5). -/
def station6 : State :=
  { (desk.setBlock 12 (some ⟨[7, 3, 11], 137, 52, 1, 4, 1, 0, 25⟩)) with
    roster := [⟨4, 0, false, [⟨12700, 7, .operator⟩], []⟩, ⟨9, 0, false, [], []⟩] }

/-- A trunk that fails (1.5): trunk 7 held, trunk 3 chosen; SUSPECT, trunk 11 chosen; both, none. -/
theorem test_route_choice_of_a_failing_trunk :
    let suspect := station6.setTrunk 3 ⟨.suspect, 1, none, 0, 0⟩
    let onA := suspect.updSession .a fun x => { x with state := .connected, line := 12400, block := 12, trunk := 11 }
    chooseRoute station6 12400 = .trunk 3 ∧ chooseRoute suspect 12400 = .trunk 11 ∧ chooseRoute onA 13000 = .trunk 3 ∧
    chooseRoute (onA.setTrunk 3 ⟨.out, 3, some .self, 0, 0⟩) 13000 = .noTrunk ∧
    afterTimeout ⟨.suspect, 2, none, 0, 0⟩ = ⟨.out, 3, some .self, 0, 0⟩ := by decide +kernel

/-- ACCESS for line 12,400 answers trunk 3, queues its CLAIM and sets BUSY (1.5). -/
theorem test_access_step :
    let t := after (exec (.access (some .a) 12400 false) station6)
    t.port.answer = some (.accepted (.trunk 3)) ∧ (t.chan .a).session.state = .claiming ∧ t.busy .a = true ∧
    t.link.queue.map (·.body) = [.built (.claim 12400 3 .operator .a)] := by decide +kernel

/-- Station 6's channel A CLAIMED or later on line 12,400 over trunk 11, its claim held. -/
def onTrunk11 (st : SessionState) (k : Option Nat) (s : State := station6) : State :=
  (s.updSession .a fun x => { x with state := st, relayStep := k, line := 12400, block := 12, trunk := 11 }).updClaim .a
    fun q => { q with stage := .held }

/-- An ACCESS on a quieted block (chapter 2): station 9's QUIET-END lets the session go on with step 1. -/
theorem test_quiet_end_step :
    let quieted : State := { station6 with roster := [⟨9, 0, false, [], [⟨12, 10500⟩]⟩] }
    let s := (onTrunk11 .deferred none quieted).updSession .a fun x => { x with deferredBy := some (.station 9) }
    let t := after (exec (.quietEndTaken 9 12) s)
    (t.chan .a).session.state = .connecting ∧ (t.chan .a).session.relayStep = some 1 ∧
    (t.chan .a).session.deferredBy = none ∧ (t.chan .a).seq.drives.selector = true ∧
    (t.chan .a).seq.waitEnd = some 5 := by decide +kernel

/-- A confirm under hold (chapter 2): the hold clears with the confirm still shown, and step 5 ends in CONNECTED. -/
theorem test_hold_clear_step :
    let s := ((onTrunk11 .connecting (some 5)).updSeq .a fun q =>
      { q with operateElapsed := true, confirmHeldBack := true }).updPins .a fun p =>
        { p with confirm := true, hold := true }
    let t := after (exec (.holdClear .a) (commanded .access s))
    (t.chan .a).session.state = .connected ∧ t.busy .a = false ∧ t.done .a = true ∧
    t.port.events.map (fun e => (e.kind, e.outcome)) = [(.accessDone, some (.channel .connected))] := by decide +kernel

/-- A timeout at step 3 (chapter 2): the test relay is released; a late confirm then drives it once more. -/
theorem test_timeout_and_late_confirm_steps :
    let t := after (exec (.confirmTimeout .a) (onTrunk11 .connecting (some 3)))
    let u := after (exec (.confirmShown .a) ((onTrunk11 .guard (some 3)).updSeq .a fun q =>
      { q with abandoned := some ⟨3, 12400, 11⟩ }))
    (t.chan .a).session.state = .releasing ∧ (t.chan .a).seq.drives.released = [.testRelay] ∧
    (t.chan .a).seq.waitEnd = some 20 ∧ (t.trunkEntry 11).condition = .suspect ∧
    (u.chan .a).session.state = .guard ∧ (u.chan .a).seq.drives.released = [.testRelay] ∧
    u.port.events.map (fun e => (e.kind, e.line, e.trunk)) = [(.lateConfirm, some 12400, some 11)] := by decide +kernel

/-- A conflict folded into a pending completion (chapter 2): the RELEASE's taking writes CONFLICT into the
ACCESS-DONE. -/
theorem test_folded_conflict_step :
    let s := (onTrunk11 .closing (some 5)).updSeq .a fun q => { q with outcome := some .conflict }
    let t := after (exec (.ownAttemptEnd (.slots true false)) (sent (.release 12400 11) (completed s)))
    (t.chan .a).session.state = .idle ∧ t.done .a = true ∧
    t.port.events.map (fun e => (e.kind, e.sessionEnd)) = [(.accessDone, some .conflict)] := by decide +kernel

/-- Queue occupancy (4.5): with 8 frames of urgency 1–3, a notice waits in the holding area, a QUIET is not queued,
and a RELEASE enters and goes first. -/
theorem test_queue_occupancy_steps :
    let eight := queued (quiets 8) office
    let t := offerNotice (.trunkNotice 3 true) eight
    let u := offerUrgent (.release 2048 3) (some .a) eight
    t.link.queue.length = 8 ∧ t.link.holding.map (·.body) = [.built (.trunkNotice 3 true)] ∧
    after (exec (.quietRequestQueued .a) (quiet .pending [] eight)) = quiet .pending [] eight ∧
    u.link.queue.length = 9 ∧
    (after (exec .frameAttemptStart u)).link.wire.map (·.body) = some (.release 2048 3) := by decide +kernel

/-- Arbitration (4.6): of urgencies 10, 01 and 00 the line reads 0, and a station that sends 1 has lost. -/
theorem test_arbitration_bits :
    lineLevel [true, false, false] = false ∧ losesBit true false = true ∧ losesBit false false = false ∧
    bitsOf (arbitrationField 2 3 7) = [true, false, false, false, true, true, false, true, true, true] := by decide

/-- Two desks after the same trunk (chapter 6): station 4's CLAIM on trunk 7 moves the queued claim to trunk 3. -/
theorem test_reroute_step :
    let free : State := { station6 with roster := [⟨4, 0, false, [], []⟩] }
    let s := after (exec (.access (some .a) 12400 false) free)
    let t := after (exec (.claimTaken 4 12500 7 .sweep .b) s)
    (s.chan .a).session.trunk = 7 ∧ (t.chan .a).session.trunk = 3 ∧
    t.link.queue.map (fun f => (f.body, f.entry)) = [(.built (.claim 12400 3 .operator .a), 1)] ∧
    t.roster.map (·.holdings) = [[⟨12500, 7, .sweep⟩]] := by decide +kernel

/-- A settle with answers (chapter 7): station 9's QUIET-BUSY joins the wait list, its QUIET-CLEAR leaves it. -/
theorem test_wait_list_steps :
    let s := (onTrunk11 .measuring (some 5)).updQuiet .a fun q =>
      { q with phase := .settling, block := some 12, waitList := [.own] }
    let t := after (exec (.quietBusyTaken 9 12 6) s)
    (t.chan .a).quiet.waitList = [.own, .station 9] ∧
    ((after (exec (.quietClearTaken 9 12 6) t)).chan .a).quiet.waitList = [.own] := by decide +kernel

/-- Two desks find one short (chapter 8): station 4's note makes station 6 merge its ticket 412. -/
theorem test_merge_step :
    let mine : Ticket := { ticket 412 12400 .opened with
      announcePending := true, observations := [⟨0, .ownOperator, .short, some ⟨.leg .tr none, 5735⟩, false⟩] }
    let t := after (exec (.ticketNoteTaken 4 [⟨12400, 88, true, .short⟩]) (stored [mine] station6))
    t.ticketStore.tickets = [] ∧ t.ticketStore.index = [⟨12400, 4, 88, .short⟩] ∧
    t.link.queue.map (·.body) = [.built (.ticketAdd 4 88 12400 ⟨.short, some ⟨.leg .tr none, 5735⟩⟩)] ∧
    t.port.events.map (fun e => (e.kind, e.ticket, e.station)) = [(.ticketMerged, some 412, some 4)] := by
  decide +kernel

/-- A handover that times out and is accepted late (chapter 8). -/
theorem test_late_handover_steps :
    let offered : Ticket := { ticket 415 13050 .handover with
      plan := some ⟨30, 4, 52000⟩, handover := some ⟨9, 0, true, false⟩ }
    let t := after (exec (.handoverTimeout 415) (stored [offered] station6))
    let u := after (exec (.handAcceptTaken 9 6 415 1207) t)
    t.ticketStore.tickets.map (fun k => (k.state, k.handover.map (·.lapsed))) = [(.retest, some true)] ∧
    t.port.events.map (·.kind) = [.handoverFailed] ∧ u.ticketStore.tickets = [] ∧
    u.port.events.map (fun e => (e.kind, e.ticket, e.station)) =
      [(.handoverFailed, some 415, some 9), (.handoverLate, some 415, some 9)] := by decide +kernel

/-- A measurement starts when the last entry of its wait list leaves after the 100 ms (R137). -/
theorem test_settle_with_the_last_entry_leaving_later :
    let s := (quiet .settling [.station 9] (running .quietWait none fvOnly (held .measuring (some 5))))
    let t := after (exec (.quietSettleEnd .a) s)
    let u := after (exec (.quietClearTaken 9 2 6) t)
    (t.chan .a).engine.phase = .quietWait ∧ (t.chan .a).quiet.settled = true ∧
    (u.chan .a).quiet.phase = .held ∧ (u.chan .a).engine.request = some ⟨.fv .tg, 20, 40, 0⟩ := by decide

/-- A cancel pending on an unheard claim ends the ACCESS CANCELLED, and then the line is lost (R81, R117). -/
theorem test_cancel_pending_on_an_unheard_claim :
    let s := commanded .access ((claiming true).updSession .a fun x => { x with cancelPending := true })
    let t := after (exec (.ownAttemptEnd (.slots false false)) s)
    t.link.state = .lost ∧
    t.port.events.map (fun e => (e.kind, e.outcome)) =
      [(.accessDone, some (.channel .cancelled)), (.linkState, some (.link .lost))] := by decide +kernel

/-- A station heard 3,499 ms ago stays; one heard 3,500 ms ago is dropped (R106). -/
theorem test_silence_counts_from_the_last_frame :
    (after (exec (.peerSilent 9) { office with now := 3499 })).roster = office.roster ∧
    (after (exec (.peerSilent 9) { office with now := 3500 })).roster.map (·.station) = [3] := by decide

/-- An own QUIET-END taken serves channel B's record PENDING on the block before channel A's noted request (R139). -/
theorem test_quiet_end_serves_the_other_channel_first :
    let s := sent (.quietEnd 2) (((quiet .ending [] (held .connected (some 5))).updQuiet .a fun q =>
      { q with requestNoted := true, notedBlock := some 2 }).updQuiet .b fun q =>
        { q with phase := .pending, block := some 2 })
    let t := after (exec (.ownAttemptEnd (.slots true false)) s)
    (t.chan .a).quiet.phase = .pending ∧ (t.chan .b).quiet.phase = .requested ∧
    t.link.queue.map (fun f => (f.body, f.origin)) = [(.built (.quiet 2), some .b)] ∧
    (after (exec (.quietRequestQueued .a) t)).link = t.link := by decide +kernel

/-- A full queue of 12 makes an urgent frame displace the newest notice, though others wait (R83). -/
theorem test_displacement_past_waiting_frames :
    let s := queued (releases 11 ++ [frame (.trunkNotice 3 true) 2 11]) waiting
    let t := offerUrgent (.release 2048 3) none s
    s.link.waiting.length = 1 ∧ t.link.queue.length = 12 ∧ t.link.waiting.length = 1 ∧ t.link.holding.length = 1 := by
  decide +kernel

/-- A frame with the own number is a clash in a farewell, and during an own attempt (R79, R93, R95). -/
theorem test_own_number_frames_end_a_farewell :
    let s : State := inPhase .starting { queued (releases 1) office with softReset := some ⟨true, true⟩ }
    let t := after (exec (.claimTaken 6 2048 3 .operator .a) s)
    let u := after (exec (.presenceTaken 6 false [] []) (sent (.quietEnd 2) office))
    s.inFarewell = true ∧ t.inFarewell = false ∧ t.link.queue = [] ∧ t.port = s.port ∧
    u.link.state = .mute ∧ u.link.wire = none := by decide +kernel

end Sys2Proof.Tests
end

section
/-! The lock and the thresholds of the Configuration Store: UNLOCK (R19) and SET THRESHOLDS (R15). -/

namespace Sys2Proof.Machine

/-! ### A command in EXPECT-COMMAND -/

/-- In EXPECT-COMMAND a command's row holds the answer its command gives on the state its command leaves (R196). -/
theorem answers_of_take {i : Instr} {take : State → Answer × State} {s u : State} {a : Answer}
    (hphase : s.port.phase = .expectCommand) (hrow : exec i s = .next (commandPhase take s))
    (htake : take s = (a, u)) : Answers i s a u := by
  rw [Answers, hrow, commandPhase, if_pos hphase, htake]

theorem exec_unlock (s : State) : exec .unlock s = .next (commandPhase takeUnlock s) := rfl

theorem exec_setThresholds (t : Thresholds) (s : State) :
    exec (.setThresholds t) s = .next (commandPhase (takeSetThresholds t) s) := rfl

/-! ### UNLOCK -/

theorem State.noSession_iff (s : State) : s.noSession = true ↔ ∀ c, (s.chan c).session.state = .idle := by
  rw [State.noSession, Bool.and_eq_true, beq_iff_eq, beq_iff_eq]
  constructor
  · rintro ⟨ha, hb⟩ c
    cases c with
    | a => exact ha
    | b => exact hb
  · exact fun h => ⟨h .a, h .b⟩

/-- The test of UNLOCK is R19's two conditions. -/
theorem unlock_test_iff (s : State) : (s.noSession && s.auto.run == .halted) = true ↔
    (∀ c, (s.chan c).session.state = .idle) ∧ s.auto.run = .halted := by
  rw [Bool.and_eq_true, State.noSession_iff, beq_iff_eq]

theorem takeUnlock_accepted {s : State} (hidle : ∀ c, (s.chan c).session.state = .idle)
    (hhalted : s.auto.run = .halted) :
    takeUnlock s = (.accepted .nothing, { s with store := { s.store with lock := false } }) :=
  if_pos ((unlock_test_iff s).2 ⟨hidle, hhalted⟩)

theorem takeUnlock_refused {s : State} (h : (∃ c, (s.chan c).session.state ≠ .idle) ∨ s.auto.run ≠ .halted) :
    takeUnlock s = (.wrongState, s) := by
  refine if_neg fun htest => ?_
  obtain ⟨hidle, hhalted⟩ := (unlock_test_iff s).1 htest
  rcases h with ⟨c, hc⟩ | hrun
  · exact hc (hidle c)
  · exact hrun hhalted

/-- Settles O12: the two cases of `takeUnlock`, accepted and refused. -/
theorem unlockClearsTheLockOnly : Obligations.UnlockClearsTheLockOnly := by
  constructor
  · intro s hphase hidle hhalted
    exact answers_of_take hphase (exec_unlock s) (takeUnlock_accepted hidle hhalted)
  · intro s hphase hfails
    exact answers_of_take hphase (exec_unlock s) (takeUnlock_refused hfails)

/-! ### SET THRESHOLDS -/

theorem takeSetThresholds_locked (t : Thresholds) {s : State} (hlock : s.store.lock = true) :
    takeSetThresholds t s = (.locked, s) := if_pos hlock

/-- While the lock is clear, the thresholds answered are those stored, all seven clamped (R15). -/
theorem takeSetThresholds_unlocked (t : Thresholds) {s : State} (hlock : s.store.lock = false) :
    takeSetThresholds t s = (.accepted (.thresholds (clampThresholds t)),
      { s with store := { s.store with thresholds := clampThresholds t } }) :=
  if_neg (Bool.not_eq_true _ ▸ hlock)

/-- The ranges of R14, one per threshold. -/
theorem clampThresholds_eq (t : Thresholds) : clampThresholds t =
    ⟨max 1000 (min 200000 t.rshort), max 1000 (min 200000 t.rground), max 100000 (min 20000000 t.rinsul),
      max 1000 (min 60000 t.vdcLimit), max 1000 (min 60000 t.vacLimit), max 0 (min 30000 t.longLoop),
      max 4 (min 64 t.sampleCount)⟩ := rfl

/-- Settles O14: the lock decides between the two cases, and the value stored is the clamp of `clampThresholds_eq`. -/
theorem setThresholdsClampsAllSeven : Obligations.SetThresholdsClampsAllSeven := by
  intro s t hphase
  constructor
  · intro hlock
    exact answers_of_take hphase (exec_setThresholds t s) (takeSetThresholds_locked t hlock)
  · intro hlock
    dsimp only
    rw [← clampThresholds_eq]
    exact answers_of_take hphase (exec_setThresholds t s) (takeSetThresholds_unlocked t hlock)

end Sys2Proof.Machine
end

section
/-! The arithmetic of a reading: an answer's limited numbers (R45), foreign voltage (R57) and a leg's resistance
(R59). -/

namespace Sys2Proof.Machine

/-! ### The root of a variance -/

/-- Each bit keeps the root below the value and the next root above it, so that after bit 0 both stand one apart. -/
theorem sqrtBits_brackets (k : Nat) {r v : Nat} (hlow : r * r ≤ v) (hhigh : v < (r + 2 ^ k) * (r + 2 ^ k)) :
    sqrtBits k r v * sqrtBits k r v ≤ v ∧ v < (sqrtBits k r v + 1) * (sqrtBits k r v + 1) := by
  induction k generalizing r with
  | zero => exact ⟨hlow, hhigh⟩
  | succ k ih =>
    rw [sqrtBits]
    split
    · next hbit => exact ih hbit (by rwa [Nat.add_assoc, ← Nat.two_mul, ← Nat.pow_succ'])
    · next hbit => exact ih hlow (Nat.lt_of_not_le hbit)

/-- `rootDown` is the square root rounded down of every value of 24 bits. -/
theorem rootDown_brackets {v : Nat} (h : v < 4096 * 4096) :
    rootDown v * rootDown v ≤ v ∧ v < (rootDown v + 1) * (rootDown v + 1) :=
  sqrtBits_brackets 12 (Nat.zero_le v) (by rw [Nat.zero_add]; exact h)

/-- The rms of a variance that a head can report is at most full scale (R57). -/
theorem rootDown_le_fullScale {v : Nat} (h : v ≤ 2048 * 2048) : rootDown v ≤ 2048 :=
  Nat.mul_self_le_mul_self_iff.1 ((rootDown_brackets (by omega)).1.trans h)

/-! ### Limited numbers -/

theorem limitAnswer_sum (n : Nat) (a : HeadAnswer) :
    (limitAnswer n a).sum = max (-(2048 * (n : Int))) (min (2047 * (n : Int)) a.sum) := rfl

theorem limitAnswer_sumSquares (n : Nat) (a : HeadAnswer) :
    (limitAnswer n a).sumSquares = min (4194304 * n) a.sumSquares := rfl

theorem limitAnswer_peak (n : Nat) (a : HeadAnswer) : (limitAnswer n a).peak = min 2048 a.peak := rfl

theorem limitAnswer_sum_natAbs_le (n : Nat) (a : HeadAnswer) : (limitAnswer n a).sum.natAbs ≤ 2048 * n := by
  rw [limitAnswer_sum]
  omega

theorem limitAnswer_sumSquares_le (n : Nat) (a : HeadAnswer) : (limitAnswer n a).sumSquares ≤ 4194304 * n :=
  Nat.min_le_left ..

/-- The mean of the squares bounds the variance, as the square of the sum is never negative. -/
theorem variance_le {n q m : Nat} {sum : Int} (hq : q ≤ m * n) : variance n sum q ≤ m := by
  have hsquare : 0 ≤ sum * sum := mul_self_nonneg sum
  have hless : ((n * q : Int) - sum * sum).toNat ≤ n * q := by
    have hcast : ((n * q : Nat) : Int) = n * q := Int.natCast_mul n q
    omega
  refine Nat.div_le_of_le_mul (hless.trans ?_)
  calc n * q ≤ n * (m * n) := Nat.mul_le_mul_left n hq
    _ = n * n * m := by ring

/-! ### Foreign voltage -/

/-- A sum within ±2,048 over each of the 40 samples gives a DC within ±250,000 mV. -/
theorem fvOf_dc_natAbs_le {b : HeadAnswer} (h : b.sum.natAbs ≤ 2048 * 40) : (fvOf b).dc.natAbs ≤ 250000 := by
  have habs : (fvOf b).dc.natAbs = b.sum.natAbs * 250000 / (2048 * 40) := by
    rw [fvOf, Int.natAbs_tdiv, Int.natAbs_mul]
    rfl
  omega

theorem fvOf_ac (b : HeadAnswer) : (fvOf b).ac = rootDown (variance 40 b.sum b.sumSquares) * 250000 / 2048 := rfl

theorem fvOf_ac_le {b : HeadAnswer} (h : b.sumSquares ≤ 4194304 * 40) : (fvOf b).ac ≤ 250000 := by
  have hrms : rootDown (variance 40 b.sum b.sumSquares) ≤ 2048 :=
    rootDown_le_fullScale (variance_le h)
  rw [fvOf_ac]
  omega

theorem fvOf_saturated_iff (b : HeadAnswer) : (fvOf b).saturated = true ↔ 2040 ≤ b.peak := decide_eq_true_iff

theorem afterReading_fv_tg_fvTG (k : Copies) (b : HeadAnswer) (r : MeasureRecord) :
    (afterReading k (.fv .tg) b r).1.fvTG = some (fvOf b) := rfl

/-- The R-G value is written whether or not it cuts the measurement short (R53). -/
theorem afterReading_fv_rg_fvRG (k : Copies) (b : HeadAnswer) (r : MeasureRecord) :
    (afterReading k (.fv .rg) b r).1.fvRG = some (fvOf b) := by
  rw [afterReading]
  · dsimp only
    split
    · rfl
    · rfl
  · exact nofun

/-- Settles O33: the root's brackets hold for the variance that the limited numbers bound, and the bounds of DC and AC
follow from those of the sum and of the sum of squares. -/
theorem foreignVoltageIsTruncatedDcAndRms : Obligations.ForeignVoltageIsTruncatedDcAndRms := by
  intro a k r b v
  have hsum : b.sum.natAbs ≤ 2048 * 40 := limitAnswer_sum_natAbs_le 40 a
  have hsquares : b.sumSquares ≤ 4194304 * 40 := limitAnswer_sumSquares_le 40 a
  have hvariance : variance 40 b.sum b.sumSquares ≤ 4194304 := variance_le hsquares
  obtain ⟨hrootLow, hrootHigh⟩ := rootDown_brackets (v := variance 40 b.sum b.sumSquares) (by omega)
  have hdc : v.dc.natAbs ≤ 250000 := fvOf_dc_natAbs_le hsum
  exact ⟨limitAnswer_sum 40 a, limitAnswer_sumSquares 40 a, limitAnswer_peak 40 a, rfl,
    ⟨rootDown (variance 40 b.sum b.sumSquares), hrootLow, hrootHigh, fvOf_ac b⟩, fvOf_saturated_iff b,
    afterReading_fv_tg_fvTG k b r, afterReading_fv_rg_fvRG k b r, by omega, by omega, fvOf_ac_le hsquares⟩

/-! ### Resistance -/

/-- A sum of at least N counts carries at least 976 nA: one count of the smaller full scale, truncated. -/
theorem le_legCurrent_natAbs (g : Range) {sum : Int} {n : Nat} (hn : 0 < n) (h : n ≤ sum.natAbs) :
    976 ≤ (legCurrent g sum n).natAbs := by
  have hifs : 2000 ≤ Config.ifs g := by cases g <;> decide
  have habs : (legCurrent g sum n).natAbs = sum.natAbs * Config.ifs g * 1000 / (2048 * n) := by
    rw [legCurrent, Int.natAbs_tdiv, Int.natAbs_mul, Int.natAbs_mul, Int.natAbs_mul]
    rfl
  rw [habs, Nat.le_div_iff_mul_le (by omega)]
  have hfull : n * 2000 ≤ sum.natAbs * Config.ifs g := Nat.mul_le_mul h hifs
  omega

/-- What R59's fourth case makes of the resistance it computes. -/
def legOfOhms (g : Range) (rx : Int) : LegValue :=
  if rx < 0 then ⟨g, some 0, false, true, false⟩
  else if 50000000 < rx then ⟨g, some 50000000, true, false, false⟩
  else ⟨g, some rx.toNat, false, false, false⟩

theorem legOfOhms_negative {g : Range} {rx : Int} (h : rx < 0) : legOfOhms g rx = ⟨g, some 0, false, true, false⟩ :=
  if_pos h

theorem legOfOhms_tooLarge {g : Range} {rx : Int} (h : 50000000 < rx) :
    legOfOhms g rx = ⟨g, some 50000000, true, false, false⟩ := by
  rw [legOfOhms, if_neg (by omega), if_pos h]

theorem legOfOhms_within {g : Range} {rx : Int} (hlow : 0 ≤ rx) (hhigh : rx ≤ 50000000) :
    legOfOhms g rx = ⟨g, some rx.toNat, false, false, false⟩ := by
  rw [legOfOhms, if_neg (by omega), if_neg (by omega)]

theorem legOfOhms_ohms_le {g : Range} {rx : Int} {v : Nat} (h : (legOfOhms g rx).ohms = some v) : v ≤ 50000000 := by
  rcases lt_or_ge rx 0 with hneg | hpos
  · rw [legOfOhms_negative hneg] at h
    cases h
    decide
  rcases lt_or_ge 50000000 rx with hlarge | hsmall
  · rw [legOfOhms_tooLarge hlarge] at h
    cases h
    exact le_rfl
  · rw [legOfOhms_within hpos hsmall] at h
    cases h
    omega

section Cases
variable {g : Range} {sum dc : Int} {n : Nat} (rtrunk : Nat)

/-- R59's first case. -/
theorem legOf_reversed (h : Config.vsrc g - dc ≤ 0 ∨ legCurrent g sum n < 0) :
    legOf g sum n dc rtrunk = ⟨g, none, false, false, true⟩ := if_pos h

variable (hnet : 0 < Config.vsrc g - dc) (hcurrent : 0 ≤ legCurrent g sum n)
include hnet hcurrent

/-- R59's second case: the first does not apply and the sum is below one count per sample. -/
theorem legOf_sumBelowCount (hsum : sum.natAbs < n) :
    legOf g sum n dc rtrunk = ⟨g, some 50000000, true, false, false⟩ := by
  rw [legOf, if_neg (by omega), if_pos hsum]

/-- R59's third case: at HIGH the sum is at full scale. -/
theorem legOf_fullScale (hn : 0 < n) (hhigh : g = .high) (hsum : 2040 * n ≤ sum.natAbs) :
    legOf g sum n dc rtrunk = ⟨g, some 0, false, true, false⟩ := by
  rw [legOf, if_neg (by omega), if_neg (by omega), if_pos ⟨hhigh, hsum⟩]

/-- R59's fourth case: none of the first three applies. -/
theorem legOf_computed (hsum : n ≤ sum.natAbs) (hscale : ¬(g = .high ∧ 2040 * n ≤ sum.natAbs)) :
    legOf g sum n dc rtrunk =
      legOfOhms g (((Config.vsrc g - dc) * 1000000).tdiv (legCurrent g sum n) - Config.rs g - rtrunk) := by
  rw [legOf, if_neg (by omega), if_neg (by omega), if_neg hscale, legOfOhms]

end Cases

/-- Each of R59's cases reports at most 50,000,000 ohms. -/
theorem legOf_ohms_le {g : Range} {sum dc : Int} {n rtrunk v : Nat}
    (h : (legOf g sum n dc rtrunk).ohms = some v) : v ≤ 50000000 := by
  rw [legOf] at h
  dsimp only at h
  split at h
  · cases h
  split at h
  · cases h
    exact le_rfl
  split at h
  · cases h
    decide
  · exact legOfOhms_ohms_le h

/-- Settles O34: R59's four cases in their order, the fourth by the three sizes of the resistance computed. -/
theorem resistanceTakesTheFirstCaseThatApplies : Obligations.ResistanceTakesTheFirstCaseThatApplies := by
  intro g sum n dc rtrunk hn vsrc rs ifs i vnet rx
  have hi : i = legCurrent g sum n := by cases g <;> rfl
  have hvnet : vnet = Config.vsrc g - dc := by cases g <;> rfl
  have hrx : rx = (vnet * 1000000).tdiv i - Config.rs g - rtrunk := by cases g <;> rfl
  clear_value rx vnet i
  subst hvnet hi
  refine ⟨legOf_reversed rtrunk, fun hnet hcurrent => ⟨legOf_sumBelowCount rtrunk hnet hcurrent, fun hsum => ?_⟩,
    fun v => legOf_ohms_le⟩
  have hnano : 976 ≤ (legCurrent g sum n).natAbs := le_legCurrent_natAbs g hn hsum
  refine ⟨by omega, legOf_fullScale rtrunk hnet hcurrent hn, fun hscale => ?_⟩
  have hfourth : legOf g sum n dc rtrunk = legOfOhms g rx := by
    rw [hrx]
    refine legOf_computed rtrunk hnet hcurrent hsum ?_
    rintro ⟨rfl, hfull⟩
    rcases hscale with hlow | hbelow
    · cases hlow
    · omega
  rw [hfourth]
  exact ⟨legOfOhms_negative, legOfOhms_tooLarge, legOfOhms_within⟩

end Sys2Proof.Machine
end

section
/-! The port clear (R199). -/

namespace Sys2Proof.Machine

/-- STARTING is the one phase in which a port clear is discarded. -/
theorem exec_portClear_starting (b : Byte) {s : State} (hphase : s.port.phase = .starting) :
    exec (.portClear b) s = .next s := by
  change execPortClear b s = .next s
  unfold execPortClear
  rw [hphase]

/-- A port clear acts on the port alone, whatever its byte and in each of the five phases after start-up. -/
theorem exec_portClear_started (b : Byte) {s : State} (hphase : s.port.phase ≠ .starting) :
    exec (.portClear b) s = .next (s.updPort portFree) := by
  change execPortClear b s = .next (s.updPort portFree)
  unfold execPortClear
  cases hcase : s.port.phase with
  | starting => exact absurd hcase hphase
  | expectCommand | expectCount | expectArgument | working | result => rfl

/-- Settles O9: STARTING against every other phase, in which `portFree` sets the six fields named and no other. -/
theorem portClearReturnsThePortToExpectCommand : Obligations.PortClearReturnsThePortToExpectCommand := by
  constructor
  · intro b s hphase
    exact exec_portClear_started b hphase
  · intro b s hphase
    exact exec_portClear_starting b hphase

end Sys2Proof.Machine
end

section
/-! The invariant: it holds at reset (O59), and every row and the idle step keep it (O60). -/

namespace Sys2Proof.Machine

/-! ### The reset state -/

theorem portInitial_ok : PortOk Port.initial where
  general := Nat.zero_le _
  completions _ := Nat.zero_le _
  named _ he := absurd he List.not_mem_nil
  lost := Nat.zero_le _

theorem rosterEmpty_ok : RosterOk [] := ⟨List.Pairwise.nil, fun _ hp => absurd hp List.not_mem_nil⟩

theorem rosterEmpty_fits (own : Option Station) (st : LinkState) : RosterFits own st [] :=
  ⟨fun _ hp => absurd hp List.not_mem_nil, fun _ => rfl⟩

theorem ticketsInitial_ok : TicketsOk TicketStore.initial where
  size := Nat.zero_le _
  numbers := List.nodup_nil
  lines := List.nodup_nil
  tickets _ ht := absurd ht List.not_mem_nil
  index := Nat.zero_le _
  indexLines := List.nodup_nil
  apart _ ht := absurd ht List.not_mem_nil
  closedNotes := Nat.zero_le _
  next := by decide

/-- Settles O59: every store and queue is empty at reset, and the configuration holds its defaults. -/
theorem theInvariantHoldsAtReset : Obligations.TheInvariantHoldsAtReset where
  port := portInitial_ok
  store := storeOk_initial
  link := linkOk_initial 0 .off
  roster := rosterEmpty_ok
  fits := rosterEmpty_fits none .off
  tickets := ticketsInitial_ok
  sweep w hw := absurd hw (Option.some_ne_none w).symm
  hits := Nat.zero_le _

/-! ### Every row -/

/-- A hardware reset leaves the stores and queues as `State.reset` has them, whatever they held (R210). -/
theorem inv_execHardwareReset {s t : State} (ht : execHardwareReset s = .next t) : Inv t := by
  injection ht with ht
  subst ht
  exact inv_of_fields (s := State.reset) rfl rfl rfl rfl rfl rfl rfl theInvariantHoldsAtReset

/-- Each row keeps the invariant, by the lemma of its meaning. -/
theorem exec_keeps_inv {s t : State} (i : Instr) (h : Inv s) (ht : exec i s = .next t) : Inv t := by
  cases i with
  | portByteWrite => exact inv_execPortByteWrite h ht
  | resultByteRead => exact inv_execResultByteRead h ht
  | portClear => exact inv_execPortClear h ht
  | configure => exact inv_execConfigure h ht
  | unlock => exact inv_execUnlock h ht
  | loadBlock => exact inv_execLoadBlock h ht
  | loadTrunk => exact inv_execLoadTrunk h ht
  | setThresholds => exact inv_execSetThresholds h ht
  | setClock => exact inv_execSetClock h ht
  | trunkRestore => exact inv_execTrunkRestore h ht
  | access => exact inv_execAccess h ht
  | release => exact inv_execRelease h ht
  | cancel => exact inv_execCancel h ht
  | sessionRead => exact inv_execSessionRead h ht
  | measure => exact inv_execMeasure h ht
  | resultRead => exact inv_execResultRead h ht
  | clearLinkStatus => exact inv_execClearLinkStatus h ht
  | rejoin => exact inv_execRejoin h ht
  | ticketOpen => exact inv_execTicketOpen h ht
  | ticketClose => exact inv_execTicketClose h ht
  | ticketRetest => exact inv_execTicketRetest h ht
  | ticketRead => exact inv_execTicketRead h ht
  | ticketList => exact inv_execTicketList h ht
  | ticketHandover => exact inv_execTicketHandover h ht
  | sweepStart => exact inv_execSweepStart h ht
  | run => exact inv_execRun h ht
  | stop => exact inv_execStop h ht
  | step => exact inv_execStep h ht
  | continueRun => exact inv_execContinueRun h ht
  | abort => exact inv_execAbort h ht
  | watchSet => exact inv_execWatchSet h ht
  | watchRead => exact inv_execWatchRead h ht
  | takeEvent => exact inv_execTakeEvent h ht
  | statusDetail => exact inv_execStatusDetail h ht
  | setMask => exact inv_execSetMask h ht
  | softReset => exact inv_execSoftReset h ht
  | farewellLimit => exact inv_execFarewellLimit h ht
  | softResetEnd => exact inv_execSoftResetEnd h ht
  | hardwareReset => exact inv_execHardwareReset ht
  | startupEnd => exact inv_execStartupEnd h ht
  | officeClockTick => exact inv_execOfficeClockTick h ht
  | arbiterChoose => exact inv_execArbiterChoose h ht
  | frameAttemptStart => exact inv_execFrameAttemptStart h ht
  | arbitrationLoss => exact inv_execArbitrationLoss h ht
  | ownAttemptEnd => exact inv_execOwnAttemptEnd h ht
  | urgentFrameEnters => exact inv_execUrgentFrameEnters h ht
  | holdingAreaEnter => exact inv_execHoldingAreaEnter h ht
  | markEntersQueue => exact inv_execMarkEntersQueue h ht
  | quietRequestQueued => exact inv_execQuietRequestQueued h ht
  | claimTaken => exact inv_execClaimTaken h ht
  | releaseFrameTaken => exact inv_execReleaseFrameTaken h ht
  | presenceTaken => exact inv_execPresenceTaken h ht
  | quietTaken => exact inv_execQuietTaken h ht
  | quietEndTaken => exact inv_execQuietEndTaken h ht
  | quietBusyTaken => exact inv_execQuietBusyTaken h ht
  | quietClearTaken => exact inv_execQuietClearTaken h ht
  | ticketNoteTaken => exact inv_execTicketNoteTaken h ht
  | ticketAddTaken => exact inv_execTicketAddTaken h ht
  | handOfferTaken => exact inv_execHandOfferTaken h ht
  | handAcceptTaken => exact inv_execHandAcceptTaken h ht
  | handRefuseTaken => exact inv_execHandRefuseTaken h ht
  | trunkNoticeTaken => exact inv_execTrunkNoticeTaken h ht
  | ownNumberFrame => exact inv_execOwnNumberFrame h ht
  | clashFound => exact inv_execClashFound h ht
  | stuckLine => exact inv_execStuckLine h ht
  | stuckCleared => exact inv_execStuckCleared h ht
  | lostFrameHeard => exact inv_execLostFrameHeard h ht
  | joinSettleEnd => exact inv_execJoinSettleEnd h ht
  | presenceTimer => exact inv_execPresenceTimer h ht
  | peerSilent => exact inv_execPeerSilent h ht
  | foreignQuietLapse => exact inv_execForeignQuietLapse h ht
  | ownQuietLapse => exact inv_execOwnQuietLapse h ht
  | quietLimit => exact inv_execQuietLimit h ht
  | quietSettleEnd => exact inv_execQuietSettleEnd h ht
  | handoverTimeout => exact inv_execHandoverTimeout h ht
  | headAnswer => exact inv_execHeadAnswer h ht
  | headTimeout => exact inv_execHeadTimeout h ht
  | step1End => exact inv_execStep1End h ht
  | setupWaitEnd => exact inv_execSetupWaitEnd h ht
  | operateWaitEnd => exact inv_execOperateWaitEnd h ht
  | confirmShown => exact inv_execConfirmShown h ht
  | holdClear => exact inv_execHoldClear h ht
  | confirmTimeout => exact inv_execConfirmTimeout h ht
  | busyTestEnd => exact inv_execBusyTestEnd h ht
  | loopClosureChange => exact inv_execLoopClosureChange h ht
  | releaseWaitEnd => exact inv_execReleaseWaitEnd h ht
  | guardEnd => exact inv_execGuardEnd h ht
  | holdSet => exact inv_execHoldSet h ht
  | confirmNoLongerShown => exact inv_execConfirmNoLongerShown h ht

/-- Taking a row off the queue leaves what the invariant reads. -/
theorem inv_pending {s : State} {q : List Instr} (h : Inv s) : Inv { s with pending := q } :=
  inv_of_fields (s := s) rfl rfl rfl rfl rfl rfl rfl h

/-- Settles O60: by `exec_keeps_inv` where a row is at the front of the queue, by `inv_idle` where none is. -/
theorem everyStepKeepsTheInvariant : Obligations.EveryStepKeepsTheInvariant := by
  intro s t h hstep
  unfold step at hstep
  split at hstep
  case h_1 =>
    injection hstep with hstep
    subst hstep
    exact inv_idle h
  case h_2 i rest _ => exact exec_keeps_inv i (inv_pending h) hstep

end Sys2Proof.Machine
end

section
/-! What a row leaves aside, and the outside lines under every row (O2). -/

namespace Sys2Proof.Machine

/-! ### The part's own rows -/

variable {r s : State}

/-- A step that leaves aside what it should, taken under a condition. -/
theorem aside_ite {p : Prop} [Decidable p] {t : State} (h : Aside r s → Aside r t) :
    Aside r s → Aside r (if p then t else s) := by
  intro hs
  split
  · exact h hs
  · exact hs

theorem aside_execUrgentFrameEnters {t : State} (ht : execUrgentFrameEnters s = .next t) : Aside s t := by
  injection ht with ht
  subst ht
  split
  · exact Aside.refl s
  · split
    · simpa using Aside.refl s
    · exact Aside.refl s

theorem aside_execHoldingAreaEnter {t : State} (ht : execHoldingAreaEnter s = .next t) : Aside s t := by
  injection ht with ht
  subst ht
  split
  · exact Aside.refl s
  · split
    · simpa using Aside.refl s
    · exact Aside.refl s

theorem aside_execMarkEntersQueue {t : State} (ht : execMarkEntersQueue s = .next t) : Aside s t := by
  injection ht with ht
  subst ht
  split
  · exact Aside.refl s
  · split
    · simpa using Aside.refl s
    · exact aside_ite (by simp) (Aside.refl s)

theorem aside_execStuckLine {t : State} (ht : execStuckLine s = .next t) : Aside s t := by
  injection ht with ht
  subst ht
  split
  · simpa using Aside.refl s
  · split
    · simpa using Aside.refl s
    · exact aside_ite (by simp) (Aside.refl s)

theorem aside_execClashFound {t : State} (ht : execClashFound s = .next t) : Aside s t := by
  injection ht with ht
  subst ht
  split
  · simpa using Aside.refl s
  · exact aside_ite (by simp) (Aside.refl s)

theorem aside_execPeerSilent {n : Station} {t : State} (ht : execPeerSilent n s = .next t) : Aside s t := by
  injection ht with ht
  subst ht
  split
  · exact Aside.refl s
  · exact aside_ite (by simp) (Aside.refl s)

theorem aside_execHandoverTimeout {n : TicketNo} {t : State} (ht : execHandoverTimeout n s = .next t) :
    Aside s t := by
  injection ht with ht
  subst ht
  split
  · exact Aside.refl s
  · simpa using Aside.refl s

theorem aside_execOperateWaitEnd {c : Channel} {t : State} (ht : execOperateWaitEnd c s = .next t) : Aside s t := by
  injection ht with ht
  subst ht
  split
  · dsimp only
    split <;> simpa using Aside.refl s
  · exact Aside.refl s

/-! ### The rows of the outside lines -/

theorem aside_confirmShows (c : Channel) :
    Aside (s.updPins c fun p => { p with confirm := true }) (confirmShows c s) := by
  unfold confirmShows
  dsimp only
  split
  · split <;> simpa using Aside.refl _
  · split
    · simpa using Aside.refl _
    · exact Aside.refl _

theorem aside_holdClears (c : Channel) :
    Aside (s.updPins c fun p => { p with hold := false }) (holdClears c s) := by
  unfold holdClears
  dsimp only
  split
  · split
    · simpa using Aside.refl _
    · split <;> simpa using Aside.refl _
  · exact Aside.refl _

theorem aside_loopChanges (c : Channel) (closed : Bool) :
    Aside (s.updPins c fun p => { p with loopClosed := closed }) (loopChanges c closed s) := by
  unfold loopChanges
  dsimp only
  split
  · simpa using Aside.refl _
  · split
    · split
      · exact aside_ite (by simp) (Aside.refl _)
      · simpa using Aside.refl _
    · exact Aside.refl _

/-- A row that the outside, the line or the part itself sends leaves aside what is the console's, the resets' and the
clocks', the outside line it reports apart. -/
theorem exec_aside {t : State} (i : Instr) (hi : eventRow i = true) (ht : exec i s = .next t) :
    Aside (linesAfter i s) t := by
  cases i with
  | arbiterChoose => exact Host.Outcome.next.inj ht ▸ aside_arbiterChooses.2 (Aside.refl s)
  | frameAttemptStart => exact Host.Outcome.next.inj ht ▸ aside_attemptStarts.2 (Aside.refl s)
  | arbitrationLoss => exact Host.Outcome.next.inj ht ▸ aside_ite (by simp) (Aside.refl s)
  | ownAttemptEnd => exact Host.Outcome.next.inj ht ▸ aside_attemptEnds.2 (Aside.refl s)
  | urgentFrameEnters => exact aside_execUrgentFrameEnters ht
  | holdingAreaEnter => exact aside_execHoldingAreaEnter ht
  | markEntersQueue => exact aside_execMarkEntersQueue ht
  | quietRequestQueued => exact Host.Outcome.next.inj ht ▸ aside_serveQuiet.2 (Aside.refl s)
  | claimTaken => exact Host.Outcome.next.inj ht ▸ aside_frameTaken.2 (Aside.refl s)
  | releaseFrameTaken => exact Host.Outcome.next.inj ht ▸ aside_frameTaken.2 (Aside.refl s)
  | presenceTaken => exact Host.Outcome.next.inj ht ▸ aside_frameTaken.2 (Aside.refl s)
  | quietTaken => exact Host.Outcome.next.inj ht ▸ aside_frameTaken.2 (Aside.refl s)
  | quietEndTaken => exact Host.Outcome.next.inj ht ▸ aside_frameTaken.2 (Aside.refl s)
  | quietBusyTaken => exact Host.Outcome.next.inj ht ▸ aside_frameTaken.2 (Aside.refl s)
  | quietClearTaken => exact Host.Outcome.next.inj ht ▸ aside_frameTaken.2 (Aside.refl s)
  | ticketNoteTaken => exact Host.Outcome.next.inj ht ▸ aside_frameTaken.2 (Aside.refl s)
  | ticketAddTaken => exact Host.Outcome.next.inj ht ▸ aside_frameTaken.2 (Aside.refl s)
  | handOfferTaken => exact Host.Outcome.next.inj ht ▸ aside_frameTaken.2 (Aside.refl s)
  | handAcceptTaken => exact Host.Outcome.next.inj ht ▸ aside_frameTaken.2 (Aside.refl s)
  | handRefuseTaken => exact Host.Outcome.next.inj ht ▸ aside_frameTaken.2 (Aside.refl s)
  | trunkNoticeTaken => exact Host.Outcome.next.inj ht ▸ aside_frameTaken.2 (Aside.refl s)
  | ownNumberFrame => exact Host.Outcome.next.inj ht ▸ aside_ownNumberHeard.2 (aside_driveSlot.2 (Aside.refl s))
  | clashFound => exact aside_execClashFound ht
  | stuckLine => exact aside_execStuckLine ht
  | stuckCleared => exact Host.Outcome.next.inj ht ▸ aside_ite (by simp) (Aside.refl s)
  | lostFrameHeard => exact Host.Outcome.next.inj ht ▸ aside_lostFrame.2 (Aside.refl s)
  | joinSettleEnd => exact Host.Outcome.next.inj ht ▸ aside_ite (by simp) (Aside.refl s)
  | presenceTimer => exact Host.Outcome.next.inj ht ▸ aside_ite (by simp) (Aside.refl s)
  | peerSilent => exact aside_execPeerSilent ht
  | foreignQuietLapse => exact Host.Outcome.next.inj ht ▸ aside_ite (by simp) (Aside.refl s)
  | ownQuietLapse => exact Host.Outcome.next.inj ht ▸ aside_quietLapses.2 (Aside.refl s)
  | quietLimit => exact Host.Outcome.next.inj ht ▸ aside_limitReached.2 (Aside.refl s)
  | quietSettleEnd => exact Host.Outcome.next.inj ht ▸ aside_settleEnds.2 (Aside.refl s)
  | handoverTimeout => exact aside_execHandoverTimeout ht
  | headAnswer => exact Host.Outcome.next.inj ht ▸ aside_takeAnswer.2 (Aside.refl s)
  | headTimeout => exact Host.Outcome.next.inj ht ▸ aside_ite (by simp) (Aside.refl s)
  | step1End => exact Host.Outcome.next.inj ht ▸ aside_ite (by simp) (Aside.refl s)
  | setupWaitEnd => exact Host.Outcome.next.inj ht ▸ aside_ite (by simp) (Aside.refl s)
  | operateWaitEnd => exact aside_execOperateWaitEnd ht
  | confirmShown c => exact Host.Outcome.next.inj ht ▸ aside_confirmShows c
  | holdClear c => exact Host.Outcome.next.inj ht ▸ aside_holdClears c
  | confirmTimeout => exact Host.Outcome.next.inj ht ▸ aside_ite (by simp) (Aside.refl s)
  | busyTestEnd => exact Host.Outcome.next.inj ht ▸ aside_ite (by simp) (Aside.refl s)
  | loopClosureChange c closed => exact Host.Outcome.next.inj ht ▸ aside_loopChanges c closed
  | releaseWaitEnd => exact Host.Outcome.next.inj ht ▸ aside_releaseWaitEnds.2 (Aside.refl s)
  | guardEnd => exact Host.Outcome.next.inj ht ▸ aside_ite (by simp) (Aside.refl s)
  | holdSet => exact Host.Outcome.next.inj ht ▸ Aside.refl _
  | confirmNoLongerShown => exact Host.Outcome.next.inj ht ▸ aside_updSeq.2 (Aside.refl _)
  | _ => exact absurd hi Bool.false_ne_true

/-! ### The outside lines -/

/-- The outside lines of `t` are those of `s`. -/
def SamePins (s t : State) : Prop := ∀ c, (t.chan c).pins = (s.chan c).pins

theorem SamePins.refl (s : State) : SamePins s s := fun _ => rfl

theorem SamePins.trans {s t u : State} (hst : SamePins s t) (htu : SamePins t u) : SamePins s u :=
  fun c => (htu c).trans (hst c)

/-- A state that shares a state's channels shares its outside lines. -/
theorem samePins_of_chans {s t : State} (ha : t.chanA = s.chanA) (hb : t.chanB = s.chanB) : SamePins s t
  | .a => congrArg ChannelRecord.pins ha
  | .b => congrArg ChannelRecord.pins hb

/-- The operations that leave aside what is the console's leave the outside lines. -/
theorem samePins_of_aside {s t : State} (h : ∀ r, Aside r s → Aside r t) : SamePins s t :=
  (h s (Aside.refl s)).pins

theorem samePins_restoreTrunk (t : Trunk) (s : State) : SamePins s (restoreTrunk t s) :=
  samePins_of_aside fun _ => aside_restoreTrunk.2

theorem samePins_configureLink (k : Bool) (s : State) : SamePins s (configureLink k s) := by
  refine samePins_of_aside fun r h => ?_
  unfold configureLink
  split
  · simpa using h
  · exact aside_ite (by simp) h
  · simpa using h
  · simpa using h
  · simpa using h

theorem samePins_takeConfigure (n : Nat) (a : AutoChannelArg) (l : Bool) (s : State) :
    SamePins s (takeConfigure n a l s).2 := by
  unfold takeConfigure
  split
  · exact SamePins.refl s
  · split
    · exact SamePins.refl s
    · split
      · exact SamePins.refl s
      · split
        · exact SamePins.refl s
        · dsimp only
          refine SamePins.trans ?_ (samePins_configureLink _ _)
          exact samePins_of_chans rfl rfl

theorem samePins_takeUnlock (s : State) : SamePins s (takeUnlock s).2 := by
  unfold takeUnlock
  split <;> exact samePins_of_chans rfl rfl

theorem samePins_takeLoadBlock (b : Nat) (f : LoadBlockForm) (s : State) :
    SamePins s (takeLoadBlock b f s).2 := by
  unfold takeLoadBlock
  split
  · exact SamePins.refl s
  · split
    · split
      · exact SamePins.refl s
      · split <;> exact samePins_of_chans rfl rfl
    · exact SamePins.refl s

theorem samePins_takeLoadTrunk (t r k : Nat) (s : State) : SamePins s (takeLoadTrunk t r k s).2 := by
  unfold takeLoadTrunk
  split
  · exact SamePins.refl s
  · split <;> exact samePins_of_chans rfl rfl

theorem samePins_takeSetThresholds (t : Thresholds) (s : State) : SamePins s (takeSetThresholds t s).2 := by
  unfold takeSetThresholds
  split <;> exact samePins_of_chans rfl rfl

theorem samePins_takeTrunkRestore (t : Nat) (s : State) : SamePins s (takeTrunkRestore t s).2 := by
  unfold takeTrunkRestore
  split
  · exact samePins_restoreTrunk _ s
  · exact SamePins.refl s

theorem samePins_takeAccessOn (c : Channel) (l : Line) (f : Bool) (s : State) :
    SamePins s (takeAccessOn c l f s).2 := by
  unfold takeAccessOn
  split
  · exact SamePins.refl s
  · split
    · exact SamePins.refl s
    · split
      · exact SamePins.refl s
      · split
        · exact SamePins.refl s
        · split
          · exact samePins_of_aside fun _ => by simp
          · exact SamePins.refl s

theorem samePins_takeAccess (c : Option Channel) (l : Line) (f : Bool) (s : State) :
    SamePins s (takeAccess c l f s).2 := by
  unfold takeAccess
  split
  · exact SamePins.refl s
  · exact samePins_takeAccessOn _ l f s

theorem samePins_takeReleaseCommand (c : Option Channel) (s : State) : SamePins s (takeReleaseCommand c s).2 := by
  unfold takeReleaseCommand
  dsimp only
  repeat' split
  case h_2.isFalse.isFalse.isFalse.isFalse => exact samePins_of_aside fun _ => by simp [accepted]
  all_goals exact SamePins.refl s

theorem samePins_cancelCommand (c : Channel) (k : ChannelCommand) (s : State) :
    SamePins s (cancelCommand c k s) := by
  unfold cancelCommand
  split
  · split
    · exact SamePins.refl s
    · exact samePins_of_aside fun _ => by simp
  · split
    · exact samePins_of_aside fun _ => by simp
    · exact SamePins.refl s
  · exact SamePins.refl s

theorem samePins_takeCancel (c : Option Channel) (s : State) : SamePins s (takeCancel c s).2 := by
  unfold takeCancel
  split
  · exact SamePins.refl s
  · split
    · exact SamePins.refl s
    · split
      · exact SamePins.refl s
      · exact samePins_cancelCommand _ _ s

theorem samePins_takeMeasure (c : Option Channel) (g : StageSet) (n : SampleArg) (t : Bool) (s : State) :
    SamePins s (takeMeasure c g n t s).2 := by
  unfold takeMeasure
  dsimp only
  repeat' split
  case h_2.isFalse.isFalse.isFalse.isFalse.isFalse => exact samePins_of_aside fun _ => by simp
  all_goals exact SamePins.refl s

theorem samePins_takeRejoin (s : State) : SamePins s (takeRejoin s).2 := by
  unfold takeRejoin
  split
  · exact samePins_of_aside fun _ => by simp [accepted]
  · exact SamePins.refl s

theorem samePins_takeTicketOpen (l : Line) (k : Option FaultClass) (s : State) :
    SamePins s (takeTicketOpen l k s).2 := by
  unfold takeTicketOpen
  repeat' split
  all_goals exact samePins_of_chans rfl rfl

theorem samePins_takeTicketClose (n : TicketNo) (s : State) : SamePins s (takeTicketClose n s).2 := by
  unfold takeTicketClose
  repeat' split
  all_goals exact samePins_of_chans rfl rfl

theorem samePins_takeTicketRetest (n : TicketNo) (i k : Nat) (s : State) :
    SamePins s (takeTicketRetest n i k s).2 := by
  unfold takeTicketRetest
  repeat' split
  all_goals exact samePins_of_chans rfl rfl

theorem samePins_takeTicketHandover (n : TicketNo) (m : Nat) (s : State) :
    SamePins s (takeTicketHandover n m s).2 := by
  unfold takeTicketHandover
  repeat' split
  case h_2.isFalse.isFalse.isFalse.isFalse => exact samePins_of_aside fun _ => by simp [accepted]
  all_goals exact SamePins.refl s

theorem samePins_startEngine (x : RunState) (s : State) : SamePins s (startEngine x s).2 := by
  unfold startEngine
  repeat' split
  all_goals exact samePins_of_chans rfl rfl

theorem samePins_takeSweepStart (f l : Line) (g : StageSet) (n : SampleArg) (s : State) :
    SamePins s (takeSweepStart f l g n s).2 := by
  unfold takeSweepStart
  repeat' split
  all_goals exact samePins_of_chans rfl rfl

theorem samePins_takeRun (s : State) : SamePins s (takeRun s).2 := by
  unfold takeRun
  split
  · exact SamePins.refl s
  · split
    · exact SamePins.refl s
    · exact samePins_startEngine _ s

theorem samePins_stopFrozen (s : State) : SamePins s (stopFrozen s) := by
  unfold stopFrozen
  split <;> exact samePins_of_aside fun _ => by simp

theorem samePins_takeStop (s : State) : SamePins s (takeStop s).2 := by
  unfold takeStop
  split
  · split <;> exact samePins_of_chans rfl rfl
  · exact samePins_stopFrozen s
  · exact SamePins.refl s

theorem samePins_takeStep (s : State) : SamePins s (takeStep s).2 := by
  unfold takeStep
  split
  · split
    · exact SamePins.refl s
    · exact samePins_startEngine _ s
  · exact samePins_of_aside fun _ => by simp [accepted]
  · exact SamePins.refl s

theorem samePins_takeContinue (s : State) : SamePins s (takeContinue s).2 := by
  unfold takeContinue
  split
  · exact samePins_of_aside fun _ => by simp [accepted]
  · exact SamePins.refl s

theorem samePins_abortItem (s : State) : SamePins s (abortItem s) := by
  unfold abortItem
  repeat' split
  all_goals exact samePins_of_aside fun _ => by simp

theorem samePins_takeAbort (s : State) : SamePins s (takeAbort s).2 := by
  unfold takeAbort
  split
  · exact SamePins.refl s
  · exact SamePins.trans (samePins_of_chans rfl rfl) (samePins_abortItem _)

theorem samePins_takeWatchSet (o : Option WatchOp) (l : Line) (f : FilterArg) (s : State) :
    SamePins s (takeWatchSet o l f s).2 := by
  unfold takeWatchSet
  split <;> exact samePins_of_chans rfl rfl

theorem samePins_takeTakeEvent (s : State) : SamePins s (takeTakeEvent s).2 := by
  unfold takeTakeEvent
  split <;> exact samePins_of_chans rfl rfl

theorem samePins_takeTicketRead (n : TicketNo) (s : State) : SamePins s (takeTicketRead n s).2 := by
  unfold takeTicketRead
  split <;> exact SamePins.refl s

theorem samePins_takeTicketList (n : TicketNo) (s : State) : SamePins s (takeTicketList n s).2 := by
  unfold takeTicketList
  split
  · exact SamePins.refl s
  · split <;> exact SamePins.refl s

theorem samePins_takeSessionRead (c : Option Channel) (s : State) : SamePins s (takeSessionRead c s).2 := by
  unfold takeSessionRead
  split <;> exact SamePins.refl s

theorem samePins_takeResultRead (c : Option Channel) (s : State) : SamePins s (takeResultRead c s).2 := by
  unfold takeResultRead
  split <;> exact SamePins.refl s

/-- No command moves an outside line. -/
theorem samePins_takeRequest (x : Request) (s : State) : SamePins s (takeRequest x s).2 := by
  cases x with
  | configure => exact samePins_takeConfigure _ _ _ s
  | unlock => exact samePins_takeUnlock s
  | loadBlock => exact samePins_takeLoadBlock _ _ s
  | loadTrunk => exact samePins_takeLoadTrunk _ _ _ s
  | setThresholds => exact samePins_takeSetThresholds _ s
  | setClock => exact samePins_of_chans rfl rfl
  | trunkRestore => exact samePins_takeTrunkRestore _ s
  | access => exact samePins_takeAccess _ _ _ s
  | release => exact samePins_takeReleaseCommand _ s
  | cancel => exact samePins_takeCancel _ s
  | sessionRead => exact samePins_takeSessionRead _ s
  | measure => exact samePins_takeMeasure _ _ _ _ s
  | resultRead => exact samePins_takeResultRead _ s
  | clearLinkStatus => exact samePins_of_chans rfl rfl
  | rejoin => exact samePins_takeRejoin s
  | ticketOpen => exact samePins_takeTicketOpen _ _ s
  | ticketClose => exact samePins_takeTicketClose _ s
  | ticketRetest => exact samePins_takeTicketRetest _ _ _ s
  | ticketRead => exact samePins_takeTicketRead _ s
  | ticketList => exact samePins_takeTicketList _ s
  | ticketHandover => exact samePins_takeTicketHandover _ _ s
  | sweepStart => exact samePins_takeSweepStart _ _ _ _ s
  | run => exact samePins_takeRun s
  | stop => exact samePins_takeStop s
  | step => exact samePins_takeStep s
  | continueRun => exact samePins_takeContinue s
  | abort => exact samePins_takeAbort s
  | watchSet => exact samePins_takeWatchSet _ _ _ s
  | watchRead => exact SamePins.refl s
  | takeEvent => exact samePins_takeTakeEvent s
  | statusDetail => exact SamePins.refl s
  | setMask => exact samePins_of_chans rfl rfl
  | softReset => exact SamePins.refl s

/-- Holding a result moves no outside line. -/
theorem samePins_holdResult {s t : State} (p : PortPhase) (k : Option CommandName) (a : Answer) (h : SamePins s t) :
    SamePins s (holdResult p k a t) := h.trans (samePins_of_chans rfl rfl)

theorem samePins_takeSoftReset (s : State) : SamePins s (takeSoftReset s) := by
  unfold takeSoftReset
  dsimp only
  refine SamePins.trans ?_ (samePins_of_aside fun _ => (aside_foldl (fun _ _ => aside_offerUrgent) _ _).2)
  intro c
  cases c <;> rfl

theorem samePins_lastByteWritten (k : CommandName) (args : List Byte) (s : State) :
    SamePins s (lastByteWritten k args s) := by
  unfold lastByteWritten
  split
  · unfold takeInWorking
    split
    · exact samePins_takeSoftReset s
    · exact samePins_holdResult _ _ _ (samePins_takeRequest _ s)
  · exact samePins_holdResult _ _ _ (SamePins.refl s)
  · exact samePins_holdResult _ _ _ (SamePins.refl s)

theorem samePins_execPortByteWrite {b : Byte} {s t : State} (ht : execPortByteWrite b s = .next t) :
    SamePins s t := by
  injection ht with ht
  subst ht
  split
  · exact SamePins.refl s
  · unfold commandByte
    split <;> exact samePins_of_chans rfl rfl
  · unfold countByte
    split
    · exact SamePins.refl s
    · split
      · exact samePins_lastByteWritten _ _ s
      · exact samePins_of_chans rfl rfl
  · unfold argumentByte
    split
    · exact SamePins.refl s
    · split
      · exact samePins_lastByteWritten _ _ s
      · exact samePins_of_chans rfl rfl
  · exact SamePins.refl s
  · exact SamePins.refl s

theorem samePins_readByte (s : State) : SamePins s (readByte s) := by
  unfold readByte
  split
  · split <;> exact samePins_of_chans rfl rfl
  · exact samePins_of_chans rfl rfl

theorem samePins_execPortClear {b : Byte} {s t : State} (ht : execPortClear b s = .next t) : SamePins s t := by
  injection ht with ht
  subst ht
  split <;> exact samePins_of_chans rfl rfl

theorem samePins_softResetEnds (k : Bool) (s : State) : SamePins s (softResetEnds k s) := by
  have hvalues : SamePins s (softResetValues k s) := samePins_of_chans rfl rfl
  unfold softResetEnds
  dsimp only
  split
  · exact hvalues.trans (samePins_of_aside fun _ => by simp)
  · exact hvalues.trans (samePins_of_aside fun _ => by simp)

theorem samePins_execSoftResetEnd {s t : State} (ht : execSoftResetEnd s = .next t) : SamePins s t := by
  injection ht with ht
  subst ht
  split
  · exact SamePins.refl s
  · split
    · exact SamePins.refl s
    · exact samePins_softResetEnds _ s

theorem samePins_execSoftReset {s t : State} (ht : execSoftReset s = .next t) : SamePins s t := by
  injection ht with ht
  subst ht
  split
  · exact samePins_takeSoftReset s
  · exact SamePins.refl s

theorem samePins_execFarewellLimit {s t : State} (ht : execFarewellLimit s = .next t) : SamePins s t := by
  injection ht with ht
  subst ht
  split
  · exact samePins_of_aside fun _ => by simp
  · exact SamePins.refl s

theorem samePins_execHardwareReset {s t : State} (ht : execHardwareReset s = .next t) : SamePins s t := by
  injection ht with ht
  subst ht
  intro c
  cases c <;> rfl

theorem samePins_execStartupEnd {s t : State} (ht : execStartupEnd s = .next t) : SamePins s t := by
  injection ht with ht
  subst ht
  split <;> exact samePins_of_chans rfl rfl

theorem samePins_execOfficeClockTick {s t : State} (ht : execOfficeClockTick s = .next t) : SamePins s t := by
  injection ht with ht
  subst ht
  split <;> exact samePins_of_chans rfl rfl

/-! ### The command rows -/

/-- The row of a command given whole is its command phase (R196; log entry 2). -/
theorem exec_rowOf {x : Request} (hx : x ≠ .softReset) (s : State) :
    exec (rowOf x) s = .next (commandPhase (takeRequest x) s) := by
  cases x with
  | softReset => exact absurd rfl hx
  | _ => rfl

theorem samePins_commandPhase {x : Request} {s t : State} (ht : exec (rowOf x) s = .next t) : SamePins s t := by
  by_cases hx : x = .softReset
  · subst hx
    exact samePins_execSoftReset ht
  · rw [exec_rowOf hx] at ht
    injection ht with ht
    subst ht
    unfold commandPhase
    split
    · exact samePins_holdResult _ _ _ (samePins_takeRequest x s)
    · exact SamePins.refl s

/-- A row that is none of the part's own moves no outside line. -/
theorem exec_samePins {s t : State} (i : Instr) (hi : eventRow i = false) (ht : exec i s = .next t) :
    SamePins s t := by
  cases i with
  | portByteWrite => exact samePins_execPortByteWrite ht
  | resultByteRead => exact Host.Outcome.next.inj ht ▸ samePins_readByte s
  | portClear => exact samePins_execPortClear ht
  | configure n a l => exact samePins_commandPhase (x := .configure n a l) ht
  | unlock => exact samePins_commandPhase (x := .unlock) ht
  | loadBlock b f => exact samePins_commandPhase (x := .loadBlock b f) ht
  | loadTrunk n r k => exact samePins_commandPhase (x := .loadTrunk n r k) ht
  | setThresholds k => exact samePins_commandPhase (x := .setThresholds k) ht
  | setClock v => exact samePins_commandPhase (x := .setClock v) ht
  | trunkRestore n => exact samePins_commandPhase (x := .trunkRestore n) ht
  | access c l f => exact samePins_commandPhase (x := .access c l f) ht
  | release c => exact samePins_commandPhase (x := .release c) ht
  | cancel c => exact samePins_commandPhase (x := .cancel c) ht
  | sessionRead c => exact samePins_commandPhase (x := .sessionRead c) ht
  | measure c g n k => exact samePins_commandPhase (x := .measure c g n k) ht
  | resultRead c => exact samePins_commandPhase (x := .resultRead c) ht
  | clearLinkStatus => exact samePins_commandPhase (x := .clearLinkStatus) ht
  | rejoin => exact samePins_commandPhase (x := .rejoin) ht
  | ticketOpen l c => exact samePins_commandPhase (x := .ticketOpen l c) ht
  | ticketClose n => exact samePins_commandPhase (x := .ticketClose n) ht
  | ticketRetest n i k => exact samePins_commandPhase (x := .ticketRetest n i k) ht
  | ticketRead n => exact samePins_commandPhase (x := .ticketRead n) ht
  | ticketList n => exact samePins_commandPhase (x := .ticketList n) ht
  | ticketHandover n m => exact samePins_commandPhase (x := .ticketHandover n m) ht
  | sweepStart f l g n => exact samePins_commandPhase (x := .sweepStart f l g n) ht
  | run => exact samePins_commandPhase (x := .run) ht
  | stop => exact samePins_commandPhase (x := .stop) ht
  | step => exact samePins_commandPhase (x := .step) ht
  | continueRun => exact samePins_commandPhase (x := .continueRun) ht
  | abort => exact samePins_commandPhase (x := .abort) ht
  | watchSet o l f => exact samePins_commandPhase (x := .watchSet o l f) ht
  | watchRead => exact samePins_commandPhase (x := .watchRead) ht
  | takeEvent => exact samePins_commandPhase (x := .takeEvent) ht
  | statusDetail => exact samePins_commandPhase (x := .statusDetail) ht
  | setMask m => exact samePins_commandPhase (x := .setMask m) ht
  | softReset => exact samePins_commandPhase (x := .softReset) ht
  | farewellLimit => exact samePins_execFarewellLimit ht
  | softResetEnd => exact samePins_execSoftResetEnd ht
  | hardwareReset => exact samePins_execHardwareReset ht
  | startupEnd => exact samePins_execStartupEnd ht
  | officeClockTick => exact samePins_execOfficeClockTick ht
  | _ => exact absurd hi.symm Bool.false_ne_true

theorem linesAfter_of_console (i : Instr) (hi : eventRow i = false) (s : State) : linesAfter i s = s := by
  cases i with
  | confirmShown | confirmNoLongerShown | holdSet | holdClear | loopClosureChange =>
    exact absurd hi.symm Bool.false_ne_true
  | _ => rfl

/-- No row faults and none is refused. -/
theorem exec_answers (i : Instr) (s : State) : ∃ t, exec i s = .next t := by
  cases i <;> exact ⟨_, rfl⟩

/-- Settles O2: `exec_aside` for the rows of the outside, the line and the part, `exec_samePins` for the others. -/
theorem everyRowAnswersAndEventsKeepTheSettings : Obligations.EveryRowAnswersAndEventsKeepTheSettings := by
  refine ⟨exec_answers, fun i s t => exec_aside i, fun i s t ht => ?_⟩
  cases hi : eventRow i with
  | true => exact (exec_aside i hi ht).pins
  | false =>
    rw [linesAfter_of_console i hi]
    exact exec_samePins i hi ht

/-! ### The console's rows and the byte path -/

theorem exec_rowOf_elsewhere {x : Request} {s : State} (hphase : s.port.phase ≠ .expectCommand) :
    exec (rowOf x) s = .next s := by
  by_cases hx : x = .softReset
  · subst hx
    exact congrArg Host.Outcome.next (if_neg hphase)
  · exact (exec_rowOf hx s).trans (congrArg Host.Outcome.next (if_neg hphase))

/-- Settles O7: a row is its command phase, which tests for EXPECT-COMMAND. -/
theorem commandRowsAreTakenInExpectCommandOnly : Obligations.CommandRowsAreTakenInExpectCommandOnly := by
  refine ⟨fun x s hx hphase => ?_, fun x s hphase => exec_rowOf_elsewhere hphase⟩
  exact (exec_rowOf hx s).trans (congrArg Host.Outcome.next (if_pos hphase))

end Sys2Proof.Machine
end

section
/-! The step (O1), the resets (O3), the status byte (O4), the port's bytes (O5), its events (O10), the reading commands
(O11) and the office clock (O15). -/

namespace Sys2Proof.Machine

/-! ### The step -/

/-- Settles O1: the two cases of `step`. -/
theorem stepRunsTheRowAtTheFront : Obligations.StepRunsTheRowAtTheFront := by
  constructor
  · intro c rest s hpending
    rw [step, hpending]
  · intro s hpending
    have hidle : step s = .next (idle s) := by rw [step, hpending]
    exact hidle

/-! ### The resets -/

/-- The state a hardware reset leaves (R210). -/
def resetOf (s : State) : State :=
  { State.reset with
    chanA := { ChannelRecord.initial with pins := s.chanA.pins }
    chanB := { ChannelRecord.initial with pins := s.chanB.pins }
    pending := s.pending }

theorem exec_hardwareReset (s : State) : exec .hardwareReset s = .next (resetOf s) := rfl

theorem blockEntry_resetOf (s : State) (b : Block) : (resetOf s).blockEntry b = none :=
  Vector.getElem_replicate ..

theorem trunkEntry_resetOf (s : State) (t : Trunk) : (resetOf s).trunkEntry t = ⟨.inService, 0, none, 0, 0⟩ :=
  Vector.getElem_replicate ..

theorem exec_startupEnd {s : State} (hphase : s.port.phase = .starting) (hreset : s.softReset = none) :
    exec .startupEnd s = .next { s with port := { s.port with phase := .expectCommand } } :=
  congrArg Host.Outcome.next (if_pos ⟨hphase, hreset⟩)

/-- Settles O3: `resetOf` field by field. -/
theorem hardwareResetLeavesEveryBlockAtItsResetValues :
    Obligations.HardwareResetLeavesEveryBlockAtItsResetValues := by
  refine ⟨fun s => ⟨resetOf s, exec_hardwareReset s, ?_⟩, fun s => exec_startupEnd, fun t ht => ?_⟩
  · refine ⟨rfl, rfl, rfl, rfl, rfl, rfl, rfl, rfl, rfl, rfl, rfl, rfl, blockEntry_resetOf s, trunkEntry_resetOf s,
      rfl, rfl, rfl, rfl, rfl, rfl, rfl, rfl, rfl, rfl, rfl, rfl, rfl, rfl, rfl, rfl, fun c => ?_, rfl⟩
    cases c with
    | a => exact ⟨rfl, rfl, rfl, rfl, rfl, rfl, rfl, rfl, rfl, rfl⟩
    | b => exact ⟨rfl, rfl, rfl, rfl, rfl, rfl, rfl, rfl, rfl, rfl⟩
  · rw [exec_startupEnd rfl rfl] at ht
    injection ht with ht
    subst ht
    rfl

/-! ### The status byte -/

/-- The bits of a byte made of eight flags, the highest first. -/
theorem getLsbD_eightBits : ∀ a b c d e f g h : Bool,
    let w : Byte := BitVec.ofBool a ++ BitVec.ofBool b ++ BitVec.ofBool c ++ BitVec.ofBool d ++ BitVec.ofBool e ++
      BitVec.ofBool f ++ BitVec.ofBool g ++ BitVec.ofBool h
    w.getLsbD 7 = a ∧ w.getLsbD 6 = b ∧ w.getLsbD 5 = c ∧ w.getLsbD 4 = d ∧ w.getLsbD 3 = e ∧ w.getLsbD 2 = f ∧
      w.getLsbD 1 = g ∧ w.getLsbD 0 = h := by
  decide

theorem PortPhase.ready_iff {p : PortPhase} (h : p ≠ .starting) : p.ready = true ↔ p ≠ .working := by
  cases p <;> simp_all [PortPhase.ready]

theorem PortPhase.toConsole_iff (p : PortPhase) : p.toConsole = true ↔ p = .result := by
  cases p <;> simp [PortPhase.toConsole]

theorem PortPhase.commandActive_iff {p : PortPhase} (h : p ≠ .starting) :
    p.commandActive = true ↔ p ≠ .expectCommand := by
  cases p <;> simp_all [PortPhase.commandActive]

/-- INT outside STARTING: an event whose class the mask shows (R206). -/
theorem State.interrupt_iff {s : State} (h : s.port.phase ≠ .starting) :
    s.interrupt = true ↔ ∃ e ∈ s.port.events, maskHides s.port.mask e.kind.cls = false := by
  simp [State.interrupt, h]

/-- Settles O4: the byte's bits by `getLsbD_eightBits`, each flag by its own lemma. -/
theorem statusByteShowsPhaseEventsBusyAndDone : Obligations.StatusByteShowsPhaseEventsBusyAndDone := by
  intro s
  constructor
  · intro hphase
    exact ⟨if_pos hphase, by simp [State.interrupt, hphase]⟩
  · intro hphase
    rw [State.statusByte, if_neg hphase]
    obtain ⟨h7, h6, h5, h4, h3, h2, h1, h0⟩ := getLsbD_eightBits s.port.phase.ready s.port.phase.toConsole
      s.port.phase.commandActive (!s.port.events.isEmpty) (s.busy .a) (s.done .a) (s.busy .b) (s.done .b)
    rw [h7, h6, h5, h4, h3, h2, h1, h0]
    exact ⟨PortPhase.ready_iff hphase, PortPhase.toConsole_iff _, PortPhase.commandActive_iff hphase, by simp,
      Iff.rfl, Iff.rfl, Iff.rfl, Iff.rfl, State.interrupt_iff hphase⟩

/-! ### A byte written -/

/-- What a write to the data register leaves, by the port's phase (R196, R198). -/
def byteWritten (b : Byte) (s : State) : State :=
  match s.port.phase with
  | .starting => s
  | .expectCommand => commandByte b s
  | .expectCount => countByte b s
  | .expectArgument => argumentByte b s
  | .working => s
  | .result => s

theorem exec_portByteWrite (b : Byte) (s : State) : exec (.portByteWrite b) s = .next (byteWritten b s) := rfl

theorem countByte_zero {s : State} {k : CommandName} (hk : s.port.command = some k) :
    countByte 0 s = lastByteWritten k [] s := by
  rw [countByte, hk]
  rfl

theorem countByte_pos {s : State} {k : CommandName} {b : Byte} (hk : s.port.command = some k) (hb : b ≠ 0) :
    countByte b s = { s with port := { s.port with phase := .expectArgument, remaining := b.toNat } } := by
  rw [countByte, hk]
  exact if_neg hb

theorem argumentByte_more {s : State} {k : CommandName} {b : Byte} (hk : s.port.command = some k)
    (hr : 2 ≤ s.port.remaining) :
    argumentByte b s =
      { s with port := { s.port with remaining := s.port.remaining - 1, args := s.port.args ++ [b] } } := by
  rw [argumentByte, hk]
  exact if_neg (by omega)

theorem argumentByte_last {s : State} {k : CommandName} {b : Byte} (hk : s.port.command = some k)
    (hr : s.port.remaining = 1) : argumentByte b s = lastByteWritten k (s.port.args ++ [b]) s := by
  rw [argumentByte, hk]
  exact if_pos (Nat.le_of_eq hr)

/-- Settles O5: `byteWritten` at each phase. -/
theorem byteWritesFollowThePhases : Obligations.ByteWritesFollowThePhases := by
  intro b s
  rw [exec_portByteWrite]
  refine ⟨fun hphase => ?_, fun k hphase hk => ⟨fun hb => ?_, fun hb => ?_⟩,
    fun k hphase hk => ⟨fun hr => ?_, fun hr => ?_⟩, fun hphase => ?_⟩
  · rw [byteWritten, hphase]
    dsimp only
    unfold commandByte
    cases Config.commandOfByte b with
    | none => rfl
    | some k => rfl
  · rw [byteWritten, hphase]
    exact congrArg Host.Outcome.next (countByte_pos hk hb)
  · rw [byteWritten, hphase, hb]
    exact congrArg Host.Outcome.next (countByte_zero hk)
  · rw [byteWritten, hphase]
    exact congrArg Host.Outcome.next (argumentByte_more hk hr)
  · rw [byteWritten, hphase]
    exact congrArg Host.Outcome.next (argumentByte_last hk hr)
  · rcases hphase with hphase | hphase | hphase <;> rw [byteWritten, hphase]

/-! ### Events -/

/-- An event that is no completion enters while a general slot is free (R204). -/
theorem emit_of_room {e : Event} {s : State} (h : generalCount s.port.events < 30) : emit e s = enterEvent e s :=
  if_pos h

theorem emit_of_full {e : Event} {s : State} (h : 30 ≤ generalCount s.port.events) :
    emit e s = { s with port := { s.port with lost := min 255 (s.port.lost + 1) } } :=
  if_neg (Nat.not_lt.2 h)

/-- A completion enters its channel's free slot (R203). -/
theorem complete_of_free {c : Channel} {e : Event} {s : State} (h : s.done c = false) :
    complete c e s = (enterEvent { e with channel := some c } s).setCommand c none := by
  rw [complete, h]
  rfl

theorem done_setCommand (c d : Channel) (k : Option ChannelCommand) (s : State) :
    (s.setCommand d k).done c = s.done c := by
  rw [State.done, port_setCommand, State.done]

theorem done_complete {c : Channel} {e : Event} {s : State} (he : e.kind.isCompletion = true)
    (h : s.done c = false) : (complete c e s).done c = true := by
  rw [complete_of_free h, done_setCommand]
  simp [State.done, enterEvent, Event.completes, he]

theorem exec_takeEvent (s : State) : exec .takeEvent s = .next (commandPhase takeTakeEvent s) := rfl

theorem takeTakeEvent_none {s : State} (h : s.port.events = []) : takeTakeEvent s = (.noEvent, s) := by
  rw [takeTakeEvent, h]
  rfl

theorem takeTakeEvent_oldest {s : State} {e : Event} {rest : List Event} (h : s.port.events = e :: rest) :
    takeTakeEvent s = (.accepted (.event e), { s with port := { s.port with events := rest } }) := by
  rw [takeTakeEvent, h]
  rfl

/-- Settles O10: `emit` and `complete` by the room each finds, TAKE EVENT by the queue's first record. -/
theorem eventsEnterOrAreCountedAsLost : Obligations.EventsEnterOrAreCountedAsLost := by
  refine ⟨fun e s => emit_of_room, fun e s => emit_of_full,
    fun c e s h => ⟨complete_of_free h, fun he => done_complete he h⟩, fun s hphase h => ?_,
    fun s e rest hphase h => ?_⟩
  · exact answers_of_take hphase (exec_takeEvent s) (takeTakeEvent_none h)
  · exact answers_of_take hphase (exec_takeEvent s) (takeTakeEvent_oldest h)

/-! ### Reading commands -/

theorem takeTicketRead_found {s : State} {n : TicketNo} {t : Ticket} (h : s.ticketStore.byNumber n = some t) :
    takeTicketRead n s = (.accepted (.ticket t), s) := by
  rw [takeTicketRead, h]

theorem takeTicketRead_none {s : State} {n : TicketNo} (h : s.ticketStore.byNumber n = none) :
    takeTicketRead n s = (.noTicket n, s) := by
  rw [takeTicketRead, h]
  rfl

/-- TICKET LIST goes on behind the first ticket of its number (R159). -/
theorem ticketsAfter_append {n : TicketNo} {l r : List Ticket} {t : Ticket} (hl : ∀ u ∈ l, u.number ≠ n)
    (ht : t.number = n) : ticketsAfter n (l ++ t :: r) = r := by
  induction l with
  | nil => exact if_pos ht
  | cons u l ih =>
    rw [List.forall_mem_cons] at hl
    exact (if_neg hl.1).trans (ih hl.2)

theorem takeTicketList_after {s : State} {n : TicketNo} {l r : List Ticket} {t : Ticket}
    (hs : s.ticketStore.tickets = l ++ t :: r) (hn : n ≠ 0) (hl : ∀ u ∈ l, u.number ≠ n) (ht : t.number = n) :
    takeTicketList n s = (listAnswer r, s) := by
  have hfound : (s.ticketStore.byNumber n).isSome = true := by
    simp [TicketStore.byNumber, hs, ht]
  obtain ⟨u, hu⟩ := Option.isSome_iff_exists.1 hfound
  rw [takeTicketList, if_neg hn, hu, hs]
  dsimp only
  rw [ticketsAfter_append hl ht]

theorem takeTicketList_none {s : State} {n : TicketNo} (hn : n ≠ 0) (h : s.ticketStore.byNumber n = none) :
    takeTicketList n s = (.noTicket n, s) := by
  rw [takeTicketList, if_neg hn, h]
  rfl

/-- Settles O11: each command's answer names the fields of the state it was given and leaves that state. -/
theorem readingCommandsChangeNothing : Obligations.ReadingCommandsChangeNothing := by
  intro s hphase
  refine ⟨fun m => ?_, ?_, fun c => ?_, ?_, fun c => ?_, ?_, ?_, fun n t h => ?_, fun n h => ?_, ?_,
    fun l t r hs hn hl => ?_, fun n hn h => ?_⟩
  · exact answers_of_take (take := takeSetMask m) hphase rfl rfl
  · exact answers_of_take (take := takeStatusDetail) hphase rfl rfl
  · exact answers_of_take (take := takeSessionRead (some c)) hphase rfl rfl
  · exact answers_of_take (take := takeSessionRead none) hphase rfl rfl
  · exact answers_of_take (take := takeResultRead (some c)) hphase rfl rfl
  · exact answers_of_take (take := takeResultRead none) hphase rfl rfl
  · exact answers_of_take (take := takeWatchRead) hphase rfl rfl
  · exact answers_of_take hphase rfl (takeTicketRead_found h)
  · exact answers_of_take hphase rfl (takeTicketRead_none h)
  · exact answers_of_take (take := takeTicketList 0) hphase rfl rfl
  · exact answers_of_take hphase rfl (takeTicketList_after hs hn hl rfl)
  · exact answers_of_take hphase rfl (takeTicketList_none hn h)

/-! ### The office clock -/

theorem clock_of_aside {s t : State} (h : Aside s t) : t.store.clock = s.store.clock := by
  have hstore := h.store
  exact (congrArg Store.clock hstore :)

theorem clock_takeSoftReset (s : State) : (takeSoftReset s).store.clock = s.store.clock := by
  unfold takeSoftReset
  dsimp only
  exact Eq.trans (clock_of_aside ((aside_foldl (fun _ _ => aside_offerUrgent) _ _).2 (Aside.refl _))) rfl

theorem clock_softResetEnds (k : Bool) (s : State) : (softResetEnds k s).store.clock = s.store.clock := by
  have hvalues : (softResetValues k s).store.clock = s.store.clock := by cases k <;> rfl
  unfold softResetEnds
  dsimp only
  split
  · exact (clock_of_aside (aside_enterJoining.2 (Aside.refl _))).trans hvalues
  · exact (clock_of_aside (aside_emitIfChanged.2 (aside_updLink.2 (Aside.refl _)))).trans hvalues

theorem clock_execSoftReset {s t : State} (ht : exec .softReset s = .next t) : t.store.clock = s.store.clock := by
  injection ht with ht
  subst ht
  split
  · exact clock_takeSoftReset s
  · rfl

theorem clock_execSoftResetEnd {s t : State} (ht : exec .softResetEnd s = .next t) :
    t.store.clock = s.store.clock := by
  injection ht with ht
  subst ht
  split
  · rfl
  · split
    · rfl
    · exact clock_softResetEnds _ s

theorem exec_officeClockTick_runs {s : State} (h : s.port.phase ≠ .starting ∨ s.softReset.isSome = true) :
    exec .officeClockTick s =
      .next { s with store := { s.store with clock := min 4294967295 (s.store.clock + 1) } } := by
  refine congrArg Host.Outcome.next (if_neg ?_)
  rintro ⟨hphase, hreset⟩
  rcases h with h | h
  · exact h hphase
  · rw [hreset] at h
    exact Bool.false_ne_true h

theorem exec_officeClockTick_stands {s : State} (hphase : s.port.phase = .starting) (hreset : s.softReset = none) :
    exec .officeClockTick s = .next s := congrArg Host.Outcome.next (if_pos ⟨hphase, hreset⟩)

/-- Settles O15: the tick by its condition, the two rows of a soft reset by what they leave aside. -/
theorem officeClockCountsAndIsSet : Obligations.OfficeClockCountsAndIsSet :=
  ⟨rfl, fun _ => exec_officeClockTick_runs, fun _ => exec_officeClockTick_stands,
    fun _ v hphase => answers_of_take (take := takeSetClock v) hphase rfl rfl,
    fun _ _ => clock_execSoftReset, fun _ _ => clock_execSoftResetEnd⟩

end Sys2Proof.Machine
end

section
/-! Lengths (O35), classes (O36), the loads of blocks and trunks (O13) and route choice (O17). -/

namespace Sys2Proof.Machine

/-! ### Lengths -/

/-- `roundDiv` is within half the divisor of the quotient, halves up. -/
theorem roundDiv_nearest {a b : Nat} (hb : 0 < b) :
    2 * a < (2 * roundDiv a b + 1) * b ∧ 2 * roundDiv a b * b ≤ 2 * a + b := by
  have hdiv := Nat.div_add_mod (2 * a + b) (2 * b)
  have hmod := Nat.mod_lt (2 * a + b) (show 0 < 2 * b by omega)
  have hround : 2 * b * roundDiv a b = 2 * roundDiv a b * b := by ring
  have hsum : (2 * roundDiv a b + 1) * b = 2 * roundDiv a b * b + b := by ring
  rw [← roundDiv, hround] at hdiv
  omega

theorem lengthOf_charged {t nf cpk : Nat} (hlow : 10 ≤ t) (hhigh : t < 65535) :
    lengthOf t nf cpk = min 30000 (roundDiv (nf * 1000) cpk) := by
  rw [lengthOf, if_neg (Nat.not_le.2 hhigh), if_neg (Nat.not_lt.2 hlow), clampNat, Nat.zero_max]

theorem lengthOf_fast {t nf cpk : Nat} (h : t < 10) : lengthOf t nf cpk = 0 := by
  rw [lengthOf, if_neg (by omega), if_pos h]

/-- Settles O35: `roundDiv_nearest` for the rounding, then each quantity by its cases. -/
theorem lengthsRoundToNearestAndAreClamped : Obligations.LengthsRoundToNearestAndAreClamped :=
  ⟨fun _ _ => roundDiv_nearest, fun _ _ => rfl,
    fun _ _ _ => ⟨fun h => if_pos h, lengthOf_fast, lengthOf_charged⟩,
    fun _ _ _ => ⟨fun h => if_pos h, fun h => if_neg (Nat.not_le.2 h)⟩, fun _ _ => Nat.zero_max ..⟩

/-! ### Offers of FOREIGN-VOLTAGE (R63) -/

section Offers

variable (t : Thresholds) (r : MeasureRecord) (l : Leg) (v : Option FvValue)

theorem offerDC_ne_nil : offerDC t l v ≠ [] ↔ ∃ f, v = some f ∧ t.vdcLimit < f.dc.natAbs := by
  cases v <;> simp [offerDC]

theorem offerAC_ne_nil : offerAC t l v ≠ [] ↔ ∃ f, v = some f ∧ t.vacLimit < f.ac := by
  cases v <;> simp [offerAC]

theorem offerSaturated_ne_nil : offerSaturated l v ≠ [] ↔ ∃ f, v = some f ∧ f.saturated = true := by
  cases v <;> simp [offerSaturated]

theorem offerReversed_ne_nil : offerReversed r l ≠ [] ↔ ∃ v, r.leg l = some v ∧ v.reversed = true := by
  rw [← Option.any_eq_true, offerReversed, MeasureRecord.isReversed]
  split <;> simp_all

/-- What FOREIGN-VOLTAGE asks for: an FV value above a limit or SATURATED, or a REVERSED leg (R62). -/
def foreignVoltageHolds : Prop :=
  (∃ f, (r.fvTG = some f ∨ r.fvRG = some f) ∧
    (t.vdcLimit < f.dc.natAbs ∨ t.vacLimit < f.ac ∨ f.saturated = true)) ∨
  ∃ l v, r.leg l = some v ∧ v.reversed = true

/-- There is a value to offer exactly when the condition of FOREIGN-VOLTAGE holds (R62, R63). -/
theorem fvOffers_ne_nil : fvOffers t r ≠ [] ↔ foreignVoltageHolds t r := by
  have happend : ∀ a b : List FvOffer, a ++ b ≠ [] ↔ a ≠ [] ∨ b ≠ [] := by
    intro a b
    rw [Ne, List.append_eq_nil_iff, not_and_or]
  simp only [fvOffers, happend, offerDC_ne_nil, offerAC_ne_nil, offerSaturated_ne_nil, offerReversed_ne_nil]
  constructor
  · rintro ((((((((⟨f, hf, h⟩ | ⟨f, hf, h⟩) | ⟨f, hf, h⟩) | ⟨f, hf, h⟩) | ⟨f, hf, h⟩) | ⟨f, hf, h⟩) | h) | h) | h)
    · exact .inl ⟨f, .inl hf, .inl h⟩
    · exact .inl ⟨f, .inr hf, .inl h⟩
    · exact .inl ⟨f, .inl hf, .inr (.inl h)⟩
    · exact .inl ⟨f, .inr hf, .inr (.inl h)⟩
    · exact .inl ⟨f, .inl hf, .inr (.inr h)⟩
    · exact .inl ⟨f, .inr hf, .inr (.inr h)⟩
    · exact .inr ⟨.tr, h⟩
    · exact .inr ⟨.tg, h⟩
    · exact .inr ⟨.rg, h⟩
  · rw [or_assoc, or_assoc, or_assoc, or_assoc, or_assoc, or_assoc, or_assoc]
    rintro (⟨f, hf | hf, h | h | h⟩ | ⟨l, h⟩)
    · exact .inl ⟨f, hf, h⟩
    · exact .inr (.inr (.inl ⟨f, hf, h⟩))
    · exact .inr (.inr (.inr (.inr (.inl ⟨f, hf, h⟩))))
    · exact .inr (.inl ⟨f, hf, h⟩)
    · exact .inr (.inr (.inr (.inl ⟨f, hf, h⟩)))
    · exact .inr (.inr (.inr (.inr (.inr (.inl ⟨f, hf, h⟩)))))
    · cases l with
      | tr => exact .inr (.inr (.inr (.inr (.inr (.inr (.inl h))))))
      | tg => exact .inr (.inr (.inr (.inr (.inr (.inr (.inr (.inl h)))))))
      | rg => exact .inr (.inr (.inr (.inr (.inr (.inr (.inr (.inr h)))))))

end Offers

/-- The offer taken is one of the largest. -/
theorem largestOffer_spec {l : List FvOffer} (h : l ≠ []) :
    ∃ o ∈ l, largestOffer l = some o ∧ ∀ p ∈ l, p.value ≤ o.value := by
  induction l with
  | nil => exact absurd rfl h
  | cons a l ih =>
    rw [largestOffer]
    cases l with
    | nil => exact ⟨a, List.mem_cons_self, rfl, fun p hp => by rw [List.mem_singleton.1 hp]⟩
    | cons b l =>
      obtain ⟨o, hmem, ho, hmax⟩ := ih (List.cons_ne_nil b l)
      rw [ho]
      dsimp only
      split
      · next hlt => exact ⟨o, List.mem_cons_of_mem a hmem, rfl, List.forall_mem_cons.2 ⟨hlt.le, hmax⟩⟩
      · next hle =>
        refine ⟨a, List.mem_cons_self, rfl, List.forall_mem_cons.2 ⟨le_rfl, fun p hp => ?_⟩⟩
        exact (hmax p hp).trans (Nat.le_of_not_lt hle)

/-! ### The lowest leg (R64) -/

section Lowest

variable {r : MeasureRecord} {l : Leg} {ls : List Leg}

theorem lowestLeg_value {k : Leg} {w : Nat} (h : lowestLeg r ls = some (k, w)) : k ∈ ls ∧ r.ohms k = some w := by
  induction ls generalizing k w with
  | nil => exact absurd h.symm (Option.some_ne_none _)
  | cons l ls ih =>
    rw [lowestLeg] at h
    split at h
    · obtain ⟨hmem, hval⟩ := ih h
      exact ⟨List.mem_cons_of_mem l hmem, hval⟩
    · next v hv _ =>
      cases h
      exact ⟨List.mem_cons_self, hv⟩
    · next v k' w' hv hrest =>
      split at h
      · cases h
        obtain ⟨hmem, hval⟩ := ih hrest
        exact ⟨List.mem_cons_of_mem l hmem, hval⟩
      · cases h
        exact ⟨List.mem_cons_self, hv⟩

/-- The first leg is taken where it has a value and no later one has a lower one. -/
theorem lowestLeg_first {v : Nat} (hv : r.ohms l = some v) (hle : ∀ k ∈ ls, ∀ w, r.ohms k = some w → v ≤ w) :
    lowestLeg r (l :: ls) = some (l, v) := by
  rw [lowestLeg, hv]
  cases hrest : lowestLeg r ls with
  | none => rfl
  | some p =>
    obtain ⟨k, w⟩ := p
    obtain ⟨hmem, hval⟩ := lowestLeg_value hrest
    exact if_neg (Nat.not_lt.2 (hle k hmem w hval))

/-- The first leg is passed over where it has no value or a later one has a lower one. -/
theorem lowestLeg_later {k : Leg} {w : Nat} (hrest : lowestLeg r ls = some (k, w))
    (hlt : ∀ v, r.ohms l = some v → w < v) : lowestLeg r (l :: ls) = some (k, w) := by
  rw [lowestLeg, hrest]
  cases hv : r.ohms l with
  | none => rfl
  | some v => exact if_pos (hlt v hv)

theorem legBelow_iff {lim : Nat} : r.legBelow l lim = true ↔ ∃ v, r.ohms l = some v ∧ v < lim := by
  rw [MeasureRecord.legBelow, Option.any_eq_true]
  simp only [decide_eq_true_eq]

end Lowest

/-! ### Classes (R62) -/

theorem lowInsulation_iff (r : MeasureRecord) (lim : Nat) :
    (r.legBelow .tr lim || r.legBelow .tg lim || r.legBelow .rg lim) = true ↔
      ∃ l, ∃ v, r.ohms l = some v ∧ v < lim := by
  rw [Bool.or_eq_true, Bool.or_eq_true, legBelow_iff, legBelow_iff, legBelow_iff]
  constructor
  · rintro ((h | h) | h)
    · exact ⟨.tr, h⟩
    · exact ⟨.tg, h⟩
    · exact ⟨.rg, h⟩
  · rintro ⟨l, h⟩
    cases l with
    | tr => exact .inl (.inl h)
    | tg => exact .inl (.inr h)
    | rg => exact .inr h

/-- What follows of a class that is the first of five conditions to hold. -/
theorem firstOfFive {fv short ground opened low : Prop} [Decidable fv] [Decidable short] [Decidable ground]
    [Decidable opened] [Decidable low] {x : FaultClass}
    (h : x = if fv then .foreignVoltage else if short then .short else if ground then .ground
      else if opened then .openLine else if low then .lowInsulation else .pass) :
    (x = .foreignVoltage ↔ fv) ∧ (x = .short ↔ ¬ fv ∧ short) ∧ (x = .ground ↔ ¬ fv ∧ ¬ short ∧ ground) ∧
    (x = .openLine ↔ ¬ fv ∧ ¬ short ∧ ¬ ground ∧ opened) ∧
    (x = .lowInsulation ↔ ¬ fv ∧ ¬ short ∧ ¬ ground ∧ ¬ opened ∧ low) ∧
    (x = .pass ↔ ¬ fv ∧ ¬ short ∧ ¬ ground ∧ ¬ opened ∧ ¬ low) := by
  subst h
  split_ifs <;> simp_all

open Classical in
/-- The class is the first of R62's five conditions that holds, PASS where none does. -/
theorem classOf_eq (k : Copies) (r : MeasureRecord) : classOf k r =
    if foreignVoltageHolds k.thresholds r then .foreignVoltage
    else if ∃ v, r.ohms .tr = some v ∧ v < k.thresholds.rshort then .short
    else if (∃ v, r.ohms .tg = some v ∧ v < k.thresholds.rground) ∨
      ∃ v, r.ohms .rg = some v ∧ v < k.thresholds.rground then .ground
    else if 0 < k.minLength ∧ ∃ v, r.length = some v ∧ v < k.minLength then .openLine
    else if ∃ l, ∃ v, r.ohms l = some v ∧ v < k.thresholds.rinsul then .lowInsulation
    else .pass := by
  have hfv : (!(fvOffers k.thresholds r).isEmpty) = true ↔ foreignVoltageHolds k.thresholds r := by
    rw [← fvOffers_ne_nil]
    simp
  have hground : (r.legBelow .tg k.thresholds.rground || r.legBelow .rg k.thresholds.rground) = true ↔
      (∃ v, r.ohms .tg = some v ∧ v < k.thresholds.rground) ∨
        ∃ v, r.ohms .rg = some v ∧ v < k.thresholds.rground := by
    rw [Bool.or_eq_true, legBelow_iff, legBelow_iff]
  have hopen : (0 < k.minLength && r.length.any (· < k.minLength)) = true ↔
      0 < k.minLength ∧ ∃ v, r.length = some v ∧ v < k.minLength := by
    rw [Bool.and_eq_true, Option.any_eq_true]
    simp only [decide_eq_true_eq]
  unfold classOf
  simp only [hfv, legBelow_iff, hground, hopen, lowInsulation_iff]

theorem decidingOf_foreignVoltage {k : Copies} {r : MeasureRecord} (h : foreignVoltageHolds k.thresholds r) :
    ∃ o ∈ fvOffers k.thresholds r, (∀ p ∈ fvOffers k.thresholds r, p.value ≤ o.value) ∧
      decidingOf k r .foreignVoltage = some ⟨.leg o.leg (some o.component), o.value⟩ := by
  obtain ⟨o, hmem, ho, hmax⟩ := largestOffer_spec ((fvOffers_ne_nil _ _).2 h)
  refine ⟨o, hmem, hmax, ?_⟩
  rw [decidingOf, ho]
  rfl

/-- The deciding value of GROUND and LOW-INSULATION is the lowest leg's. -/
theorem decidingOf_ground {k : Copies} {r : MeasureRecord} {l : Leg} {v : Nat}
    (h : lowestLeg r [.tg, .rg] = some (l, v)) : decidingOf k r .ground = some ⟨.leg l none, v⟩ := by
  rw [decidingOf, h]
  rfl

theorem decidingOf_lowInsulation {k : Copies} {r : MeasureRecord} {l : Leg} {v : Nat}
    (h : lowestLeg r [.tr, .tg, .rg] = some (l, v)) : decidingOf k r .lowInsulation = some ⟨.leg l none, v⟩ := by
  rw [decidingOf, h]
  rfl

theorem decidingOf_short {k : Copies} {r : MeasureRecord} {v : Nat} (h : r.ohms .tr = some v) :
    decidingOf k r .short = some ⟨.leg .tr none, v⟩ := by
  rw [decidingOf, h]
  rfl

theorem decidingOf_openLine {k : Copies} {r : MeasureRecord} {v : Nat} (h : r.length = some v) :
    decidingOf k r .openLine = some ⟨.length, v⟩ := by
  rw [decidingOf, h]
  rfl

/-- No leg is left to compare with. -/
theorem lowestLeg_last {r : MeasureRecord} {l : Leg} {v : Nat} (h : r.ohms l = some v) :
    lowestLeg r [l] = some (l, v) := lowestLeg_first h (fun _ hk => absurd hk List.not_mem_nil)

/-- Settles O36: the class by `classOf_eq`, the deciding value by `largestOffer_spec` and by where the lowest leg
stands. -/
theorem classIsTheFirstConditionThatHolds : Obligations.ClassIsTheFirstConditionThatHolds := by
  intro k r
  classical
  obtain ⟨hfv, hshort, hground, hopen, hlow, hpass⟩ := firstOfFive (classOf_eq k r)
  refine ⟨hfv, hshort, hground, hopen, hlow, hpass, fun h => decidingOf_foreignVoltage (hfv.1 h),
    fun v hv => decidingOf_short hv, fun v hv hle => ?_, fun w hw hlt => ?_,
    fun v hv => decidingOf_openLine hv, fun v hv hle => ?_, fun v hv htr hrg => ?_, fun v hv hlt => ?_, rfl⟩
  · exact decidingOf_ground (lowestLeg_first hv (by simpa using hle))
  · exact decidingOf_ground (lowestLeg_later (lowestLeg_last hw) hlt)
  · exact decidingOf_lowInsulation (lowestLeg_first hv (by
      simp only [List.mem_cons, List.not_mem_nil, or_false]
      rintro l (rfl | rfl) w hw
      · exact hle w (.inl hw)
      · exact hle w (.inr hw)))
  · exact decidingOf_lowInsulation (lowestLeg_later (lowestLeg_first hv (by simpa using hrg)) htr)
  · refine decidingOf_lowInsulation (lowestLeg_later (lowestLeg_later (lowestLeg_last hv) ?_) ?_)
    · exact fun w hw => hlt w (.inr hw)
    · exact fun w hw => hlt w (.inl hw)

/-! ### Lists of trunks (R3) -/

theorem trunksOf_map (l : List Trunk) : trunksOf (l.map (·.val)) = some l := by
  induction l with
  | nil => rfl
  | cons t l ih =>
    rw [List.map_cons, trunksOf, dif_pos t.isLt, ih]
    rfl

theorem trunksOf_length {l : List Nat} {m : List Trunk} (h : trunksOf l = some m) : m.length = l.length := by
  induction l generalizing m with
  | nil =>
    cases h
    rfl
  | cons n l ih =>
    rw [trunksOf] at h
    split at h
    · obtain ⟨m', hm', rfl⟩ := Option.map_eq_some_iff.1 h
      exact congrArg (· + 1) (ih hm')
    · cases h

theorem trunksOf_none {l : List Nat} (h : ∃ n ∈ l, 16 ≤ n) : trunksOf l = none := by
  induction l with
  | nil =>
    obtain ⟨n, hn, _⟩ := h
    exact absurd hn List.not_mem_nil
  | cons m l ih =>
    rw [trunksOf]
    split
    · next hm =>
      obtain ⟨n, hn, hge⟩ := h
      rcases List.mem_cons.1 hn with rfl | hn
      · omega
      · rw [ih ⟨n, hn, hge⟩]
        rfl
    · rfl

/-- A list that R3 refuses: a number that names no trunk, no trunk at all, or more than four. -/
theorem trunksOf_refused {l : List Nat} (h : (∃ n ∈ l, 16 ≤ n) ∨ l = [] ∨ 4 < l.length) {m : List Trunk}
    (hm : trunksOf l = some m) : ¬(1 ≤ m.length ∧ m.length ≤ 4) := by
  rcases h with h | h | h
  · rw [trunksOf_none h] at hm
    cases hm
  · have hlength := trunksOf_length hm
    rw [h] at hlength
    rw [hlength]
    exact fun hbad => absurd hbad.1 (by decide)
  · have hlength := trunksOf_length hm
    omega

theorem loadedEntry_full_refused {l : List Nat} (k : BlockConstants)
    (h : (∃ n ∈ l, 16 ≤ n) ∨ l = [] ∨ 4 < l.length) : loadedEntry (.full l k) = none := by
  unfold loadedEntry
  dsimp only
  split
  · next m hm => exact if_neg (trunksOf_refused h hm)
  · rfl

theorem loadedEntry_short_refused {l : List Nat} (h : (∃ n ∈ l, 16 ≤ n) ∨ l = [] ∨ 4 < l.length) :
    loadedEntry (.short l) = none := by
  unfold loadedEntry
  dsimp only
  split
  · next m hm => exact if_neg (trunksOf_refused h hm)
  · rfl

theorem loadedEntry_full {l : List Trunk} (k : BlockConstants) (hsome : 1 ≤ l.length) (hfour : l.length ≤ 4) :
    loadedEntry (.full (l.map (·.val)) k) = some (some (makeBlockEntry l k)) := by
  unfold loadedEntry
  dsimp only
  rw [trunksOf_map]
  exact if_pos ⟨hsome, hfour⟩

theorem loadedEntry_short {l : List Trunk} (hsome : 1 ≤ l.length) (hfour : l.length ≤ 4) :
    loadedEntry (.short (l.map (·.val))) = some (some (makeBlockEntry l Config.blockDefaults)) := by
  unfold loadedEntry
  dsimp only
  rw [trunksOf_map]
  exact if_pos ⟨hsome, hfour⟩

theorem firstCopies_cons (t : Trunk) (l : List Trunk) :
    firstCopies (t :: l) = t :: (firstCopies l).filter (· != t) := rfl

theorem mem_firstCopies (l : List Trunk) (t : Trunk) : t ∈ firstCopies l ↔ t ∈ l := by
  induction l with
  | nil => exact Iff.rfl
  | cons u l ih =>
    rw [firstCopies_cons, List.mem_cons, List.mem_cons, List.mem_filter, ih, bne_iff_ne]
    tauto

theorem firstCopies_sublist (l : List Trunk) : (firstCopies l).Sublist l := by
  induction l with
  | nil => exact List.Sublist.refl []
  | cons u l ih =>
    rw [firstCopies_cons]
    exact (List.filter_sublist.trans ih).cons_cons u

/-- A trunk stands behind the first copies of the list before its own first copy. -/
theorem firstCopies_append {l : List Trunk} (r : List Trunk) {t : Trunk} (ht : t ∉ l) :
    firstCopies (l ++ t :: r) = firstCopies l ++ t :: (firstCopies r).filter fun x => x ≠ t ∧ x ∉ l := by
  induction l with
  | nil =>
    rw [List.nil_append, firstCopies_cons]
    refine congrArg (t :: ·) (List.filter_congr fun x _ => ?_)
    by_cases hx : x = t <;> simp [hx]
  | cons u l ih =>
    rw [List.mem_cons, not_or] at ht
    obtain ⟨htu, htl⟩ := ht
    rw [List.cons_append, firstCopies_cons, firstCopies_cons, ih htl, List.filter_append, List.filter_cons,
      if_pos (bne_iff_ne.2 htu), List.filter_filter, List.cons_append]
    congr 4
    funext x
    simp only [List.mem_cons, not_or, ne_eq, bne, Bool.decide_and]
    by_cases hxu : x = u <;> simp [hxu]

/-! ### LOAD BLOCK -/

section LoadBlock

variable {s : State} {f : LoadBlockForm}

theorem takeLoadBlock_locked {n : Nat} (h : s.store.lock = true) : takeLoadBlock n f s = (.locked, s) := if_pos h

theorem takeLoadBlock_noBlock {n : Nat} (h : s.store.lock = false) (hn : 64 ≤ n) :
    takeLoadBlock n f s = (.badArgument 1, s) := by
  rw [takeLoadBlock, h, dif_neg (Nat.not_lt.2 hn)]
  rfl

theorem takeLoadBlock_refused (b : Block) (h : s.store.lock = false) (hf : loadedEntry f = none) :
    takeLoadBlock b.val f s = (.badArgument 2, s) := by
  rw [takeLoadBlock, h, dif_pos b.isLt, hf]
  rfl

theorem takeLoadBlock_busy {b : Block} {e : Option BlockEntry} (h : s.store.lock = false)
    (hf : loadedEntry f = some e) (hb : sessionOnBlock s b = true) : takeLoadBlock b.val f s = (.busy none, s) := by
  rw [takeLoadBlock, h, dif_pos b.isLt, hf]
  exact if_pos hb

theorem takeLoadBlock_stored {b : Block} {e : Option BlockEntry} (h : s.store.lock = false)
    (hf : loadedEntry f = some e) (hb : sessionOnBlock s b = false) : takeLoadBlock b.val f s =
      (.accepted (.blockEntry e), { s with store := { s.store with blocks := s.store.blocks.set b.val e } }) := by
  rw [takeLoadBlock, h, dif_pos b.isLt, hf]
  exact if_neg (Bool.not_eq_true _ ▸ hb)

end LoadBlock

/-! ### LOAD TRUNK -/

theorem takeLoadTrunk_locked {s : State} {n r k : Nat} (h : s.store.lock = true) :
    takeLoadTrunk n r k s = (.locked, s) := if_pos h

theorem takeLoadTrunk_noTrunk {s : State} {n r k : Nat} (h : s.store.lock = false) (hn : 16 ≤ n) :
    takeLoadTrunk n r k s = (.badArgument 1, s) := by
  rw [takeLoadTrunk, h, dif_neg (Nat.not_lt.2 hn)]
  rfl

theorem takeLoadTrunk_stored {s : State} (t : Trunk) (r k : Nat) (h : s.store.lock = false) :
    takeLoadTrunk t.val r k s =
      (.accepted (.trunkValues (clampNat 0 400 r) (clampNat 0 100 k)),
        s.setTrunk t { s.trunkEntry t with rtrunk := clampNat 0 400 r, ctrunk := clampNat 0 100 k }) := by
  rw [takeLoadTrunk, h, dif_pos t.isLt]
  rfl

/-- Settles O13: the checks of each load in order, then what it stores; the facts of `firstCopies` one by one. -/
theorem loadsStoreTheClampedValues : Obligations.LoadsStoreTheClampedValues := by
  refine ⟨fun s hphase => ⟨fun n f hlock => ?_, fun hlock => ⟨fun n f hn => ?_, fun b l k hl => ⟨?_, ?_⟩,
    fun b l k hsome hfour => ?_⟩⟩, firstCopies_nodup, mem_firstCopies, firstCopies_sublist,
    fun l r t ht => firstCopies_append r ht,
    fun s n r k hphase => ⟨fun hlock => ?_, fun hlock hn => ?_, fun t hn hlock => ?_⟩⟩
  · exact answers_of_take hphase rfl (takeLoadBlock_locked hlock)
  · exact answers_of_take hphase rfl (takeLoadBlock_noBlock hlock hn)
  · exact answers_of_take hphase rfl (takeLoadBlock_refused b hlock (loadedEntry_full_refused k hl))
  · exact answers_of_take hphase rfl (takeLoadBlock_refused b hlock (loadedEntry_short_refused hl))
  · refine ⟨fun hbusy => ⟨?_, ?_, ?_⟩, fun hfree => ⟨?_, ?_, ?_⟩⟩
    · exact answers_of_take hphase rfl (takeLoadBlock_busy hlock (loadedEntry_full k hsome hfour) hbusy)
    · exact answers_of_take hphase rfl (takeLoadBlock_busy hlock (loadedEntry_short hsome hfour) hbusy)
    · exact answers_of_take hphase rfl (takeLoadBlock_busy hlock rfl hbusy)
    · exact answers_of_take hphase rfl (takeLoadBlock_stored hlock (loadedEntry_full k hsome hfour) hfree)
    · exact answers_of_take hphase rfl (takeLoadBlock_stored hlock (loadedEntry_short hsome hfour) hfree)
    · exact answers_of_take hphase rfl (takeLoadBlock_stored hlock rfl hfree)
  · exact answers_of_take hphase rfl (takeLoadTrunk_locked hlock)
  · exact answers_of_take hphase rfl (takeLoadTrunk_noTrunk hlock hn)
  · subst hn
    exact answers_of_take hphase rfl (takeLoadTrunk_stored t r k hlock)

/-! ### Route choice -/

section Routes

variable {s : State} {l : Line}

theorem trunkHeldInView_false_iff (s : State) (t : Trunk) :
    trunkHeldInView s t = false ↔ ∀ p ∈ s.roster, ∀ h ∈ p.holdings, h.trunk ≠ t := by
  simp [trunkHeldInView]

theorem ownHoldsTrunk_false_iff (s : State) (t : Trunk) :
    ownHoldsTrunk s t = false ↔ ∀ c, (s.chan c).session.state ≠ .idle → (s.chan c).session.trunk ≠ t := by
  have hchan : ∀ x : Session, (x.state != .idle && x.trunk == t) = false ↔ (x.state ≠ .idle → x.trunk ≠ t) := by
    intro x
    simp
  rw [ownHoldsTrunk, Bool.or_eq_false_iff, hchan, hchan]
  constructor
  · rintro ⟨ha, hb⟩ c
    cases c with
    | a => exact ha
    | b => exact hb
  · exact fun h => ⟨h .a, h .b⟩

/-- A trunk that route choice may take: of the condition, held by no station in the view and by no own session. -/
theorem trunkFree_iff (s : State) (k : TrunkCondition) (t : Trunk) : trunkFree s k t = true ↔
    (s.trunkEntry t).condition = k ∧ (∀ p ∈ s.roster, ∀ h ∈ p.holdings, h.trunk ≠ t) ∧
      ∀ c, (s.chan c).session.state ≠ .idle → (s.chan c).session.trunk ≠ t := by
  rw [trunkFree, Bool.and_eq_true, Bool.and_eq_true, Bool.not_eq_true', Bool.not_eq_true', beq_iff_eq,
    trunkHeldInView_false_iff, ownHoldsTrunk_false_iff, and_assoc]

theorem chooseRoute_noBlock (h : s.blockEntry (blockOf l) = none) : chooseRoute s l = .noRoute := by
  rw [chooseRoute, h]

/-- The walk over a present block's list: IN-SERVICE first, then SUSPECT. -/
theorem chooseRoute_block {e : BlockEntry} (h : s.blockEntry (blockOf l) = some e) : chooseRoute s l =
    match e.trunks.find? (trunkFree s .inService), e.trunks.find? (trunkFree s .suspect) with
    | some t, _ => .trunk t
    | none, some t => .trunk t
    | none, none => .noTrunk := by
  rw [chooseRoute, h]
  dsimp only
  cases e.trunks.find? (trunkFree s .inService) with
  | some t => rfl
  | none => cases e.trunks.find? (trunkFree s .suspect) <;> rfl

theorem chooseRoute_noRoute_iff : chooseRoute s l = .noRoute ↔ s.blockEntry (blockOf l) = none := by
  constructor
  · intro h
    cases he : s.blockEntry (blockOf l) with
    | none => rfl
    | some e =>
      rw [chooseRoute_block he] at h
      split at h <;> cases h
  · exact chooseRoute_noBlock

theorem chooseRoute_trunk {e : BlockEntry} {t : Trunk} (he : s.blockEntry (blockOf l) = some e)
    (h : chooseRoute s l = .trunk t) :
    e.trunks.find? (trunkFree s .inService) = some t ∨
      e.trunks.find? (trunkFree s .inService) = none ∧ e.trunks.find? (trunkFree s .suspect) = some t := by
  rw [chooseRoute_block he] at h
  split at h
  · next hfirst =>
    cases h
    exact .inl hfirst
  · next hnone hsecond =>
    cases h
    exact .inr ⟨hnone, hsecond⟩
  · cases h

theorem chooseRoute_noTrunk_iff {e : BlockEntry} (he : s.blockEntry (blockOf l) = some e) :
    chooseRoute s l = .noTrunk ↔
      e.trunks.find? (trunkFree s .inService) = none ∧ e.trunks.find? (trunkFree s .suspect) = none := by
  rw [chooseRoute_block he]
  split <;> simp_all

/-- The first element that a search finds, over a predicate given as a proposition. -/
theorem find?_first {p : Trunk → Bool} {free : Trunk → Prop} (hp : ∀ t, p t = true ↔ free t) {ts : List Trunk}
    {t : Trunk} (h : ts.find? p = some t) :
    ∃ pre post, ts = pre ++ t :: post ∧ free t ∧ ∀ u ∈ pre, ¬ free u := by
  obtain ⟨hfound, pre, post, hsplit, hpre⟩ := List.find?_eq_some_iff_append.1 h
  refine ⟨pre, post, hsplit, (hp t).1 hfound, fun u hu hfree => ?_⟩
  have hnot := hpre u hu
  rw [(hp u).2 hfree] at hnot
  exact absurd hnot (by decide)

theorem find?_none {p : Trunk → Bool} {free : Trunk → Prop} (hp : ∀ t, p t = true ↔ free t) {ts : List Trunk} :
    ts.find? p = none ↔ ∀ u ∈ ts, ¬ free u := by
  rw [List.find?_eq_none]
  exact forall₂_congr fun u _ => not_congr (hp u)

end Routes

/-- Settles O17: `chooseRoute` walks the list twice, and `trunkFree_iff` says what each walk looks for. -/
theorem routeChoiceTakesTheFirstFreeTrunk : Obligations.RouteChoiceTakesTheFirstFreeTrunk := by
  intro s l
  refine ⟨rfl, chooseRoute_noRoute_iff, fun e he => ?_⟩
  refine ⟨fun t ht => ?_, ?_⟩
  · rcases chooseRoute_trunk he ht with h | ⟨hnone, h⟩
    · exact .inl (find?_first (trunkFree_iff s .inService) h)
    · exact .inr ⟨(find?_none (trunkFree_iff s .inService)).1 hnone, find?_first (trunkFree_iff s .suspect) h⟩
  · rw [chooseRoute_noTrunk_iff he, find?_none (trunkFree_iff s .inService), find?_none (trunkFree_iff s .suspect)]
    exact ⟨fun h u hu => ⟨h.1 u hu, h.2 u hu⟩, fun h => ⟨fun u hu => (h u hu).1, fun u hu => (h u hu).2⟩⟩

end Sys2Proof.Machine
end

section
/-! Results (O8) and the form check (O6). -/

namespace Sys2Proof.Machine

/-! ### Fields of a record -/

/-- A map that undoes an indexed map gives the list back. -/
theorem map_mapIdx_cancel {α β : Type} {f : Nat → α → β} {g : β → α} (h : ∀ i a, g (f i a) = a) (l : List α) :
    (l.mapIdx f).map g = l :=
  List.ext_getElem (by simp) (by simp [h])

/-- The values of a table's rows, row after row. -/
theorem map_value_fieldsFrom (t : RecordTable) (n : Nat) (rs : List Row) :
    (fieldsFrom t n rs).map (·.value) = rs.flatten := by
  rw [fieldsFrom, List.map_flatten, map_mapIdx_cancel]
  exact fun i r => map_mapIdx_cancel (fun _ _ => rfl) r

theorem map_value_fields (t : RecordTable) (rs : List Row) : (fields t rs).map (·.value) = rs.flatten :=
  map_value_fieldsFrom t 0 rs

/-- A plain event's values, in the order of R202's table. -/
theorem eventFields_values {e : Event} (h : e.deciding = none) : (answerFields (.event e)).map (·.value) =
    [some (.eventKind e.kind), some (.number e.time), e.channel.map .channel, e.line.map fun n => .number n,
      e.trunk.map fun n => .number n.val, e.ticket.map fun n => .number n, e.station.map fun n => .number n,
      e.outcome.map .eventOutcome, e.linkCause.map .lostCause] ++
    (match e.counts with
      | none => [none]
      | some k => [some (.number k.1), some (.number k.2.1), some (.number k.2.2)]) ++
    [e.sessionEnd.map .sessionEnd, some (.number e.lostBefore)] := by
  rw [answerFields, eventFields, map_value_fields, h]
  cases e.counts <;> simp [orAbsent, num, numOr, Function.comp_def]

/-- A session's values without a last result, in the order of R21's table. -/
theorem sessionFields_values {r : SessionReport} (h : r.lastResult = none) :
    (answerFields (.session r)).map (·.value) =
      [some (.sessionState r.state), some (.purpose r.purpose), some (.number r.line.val), some (.number r.block.val),
        some (.number r.trunk.val), some (.flag r.forced), r.relayStep.map fun n => .number n,
        r.quietHeld.map fun n => .number n.val, r.deferredBy.map .holder, some (.flag r.cancelPending),
        r.linkedTicket.map fun n => .number n, some (.flag r.frozenAtClaim), none, some (.flag r.offHook)] := by
  rw [answerFields, sessionFields, map_value_fields, h]
  simp [num, numOr, yesNo, Function.comp_def]

/-- A ticket's values with nothing recorded beside its fields, in the order of R142's table. -/
theorem ticketFields_values {t : Ticket} (hobs : t.observations = []) (hplan : t.plan = none)
    (hhand : t.handover = none) (hprev : t.previousOwner = none) : (answerFields (.ticket t)).map (·.value) =
      [some (.number t.number), some (.number t.line.val), some (.ticketState t.state), some (.cls t.cls),
        some (.number t.openedAt), some (.origin t.origin), some (.entries 0), none, some (.number t.streak),
        some (.flag t.announcePending), some (.flag t.noteTaken), some (.flag t.noteHeldBack), none, none] := by
  rw [answerFields, ticketFields, List.map_append, List.map_append, map_value_fields, map_value_fieldsFrom, hobs,
    hplan, hhand, hprev]
  simp [orAbsent, num, yesNo]

theorem payloadBytes_accepted {v : AnswerValues} (h : ∀ t, v ≠ .trunk t) :
    payloadBytes (.accepted v) = (answerFields v).flatMap Field.bytes := by
  cases v with
  | trunk t => exact absurd rfl (h t)
  | _ => rfl

/-! ### Results -/

theorem countIsWide_iff (k : Option CommandName) (a : Answer) :
    countIsWide k a = true ↔ k = some .statusDetail ∨ ∃ r, a = .accepted (.status r) := by
  unfold countIsWide
  rw [Bool.or_eq_true, beq_iff_eq]
  refine or_congr Iff.rfl ?_
  cases a with
  | accepted v => cases v <;> simp
  | _ => simp

/-- A result's code, count and bytes, the count wide for STATUS DETAIL's results alone (R197). -/
theorem resultBytes_parts (k : Option CommandName) (a : Answer) : ∃ count body : List Byte,
    resultBytes k a = Config.resultCodeByte a.code :: (count ++ body) ∧
    (k = some .statusDetail ∨ (∃ r, a = .accepted (.status r)) →
      body = (payloadBytes a).take 65535 ∧
      count = [BitVec.ofNat 8 (body.length / 256), BitVec.ofNat 8 body.length]) ∧
    (k ≠ some .statusDetail → (∀ r, a ≠ .accepted (.status r)) →
      body = (payloadBytes a).take 255 ∧ count = [BitVec.ofNat 8 body.length]) := by
  refine ⟨_, _, rfl, fun hwide => ?_, fun hk ha => ?_⟩
  · rw [(countIsWide_iff k a).2 hwide]
    exact ⟨rfl, rfl⟩
  · have hnarrow : countIsWide k a = false := by
      rw [← Bool.not_eq_true, countIsWide_iff]
      rintro (h | ⟨r, h⟩)
      · exact hk h
      · exact ha r h
    rw [hnarrow]
    exact ⟨rfl, rfl⟩

theorem exec_resultByteRead (s : State) : exec .resultByteRead s = .next (readByte s) := rfl

theorem readByte_more {s : State} {b c : Byte} {rest : List Byte} (hphase : s.port.phase = .result)
    (h : s.port.result = b :: c :: rest) :
    readByte s = { s with port := { s.port with dataRegister := b, result := c :: rest } } := by
  rw [readByte, if_pos hphase, h]
  rfl

theorem readByte_last {s : State} {b : Byte} (hphase : s.port.phase = .result) (h : s.port.result = [b]) :
    readByte s = { s with port := { s.port with
      dataRegister := b, phase := .expectCommand, command := none, remaining := 0, args := [], answer := none,
      result := [] } } := by
  rw [readByte, if_pos hphase, h]
  rfl

theorem readByte_elsewhere {s : State} (hphase : s.port.phase ≠ .result) :
    readByte s = { s with port := { s.port with dataRegister := 0 } } := if_neg hphase

/-- Settles O8: `resultBytes_parts` for the shape, the values of each record by its lemma, the reads by `readByte`. -/
theorem resultIsCodeCountAndBytes : Obligations.ResultIsCodeCountAndBytes := by
  refine ⟨resultBytes_parts, fun _ => rfl, fun _ => payloadBytes_accepted,
    fun t i j => ⟨fun _ => rfl, absentMark_ne_zero t i j⟩, fun _ => eventFields_values,
    fun _ => sessionFields_values, fun _ => ticketFields_values, ⟨rfl, rfl⟩, ⟨?_, ?_⟩, fun _ => rfl,
    fun _ => ⟨rfl, rfl⟩, fun _ => ⟨rfl, rfl⟩, ?_, fun s b c rest hphase h => ?_, fun s b hphase h => ?_,
    fun s hphase => ?_⟩
  · exact List.append_nil _
  · exact List.append_nil _
  · simp only [List.forall_mem_cons, List.not_mem_nil, false_imp_iff, implies_true, and_true]
    exact ⟨rfl, rfl, rfl, rfl, rfl, rfl, rfl, rfl⟩
  · rw [exec_resultByteRead, readByte_more hphase h]
  · rw [exec_resultByteRead, readByte_last hphase h]
  · rw [exec_resultByteRead, readByte_elsewhere hphase]

/-! ### Argument bytes -/

theorem flagCheck_good {f : Byte} (h : f = 0 ∨ f = 1) : flagCheck f = .good := if_pos h

theorem flagCheck_formless {f : Byte} (h : ¬(f = 0 ∨ f = 1)) : flagCheck f = .formless := if_neg h

theorem stationCheck_good {n : Byte} (h : 1 ≤ n.toNat ∧ n.toNat ≤ 15) : stationCheck n = .good := by
  rw [stationCheck, stationOk, decide_eq_true h.1, decide_eq_true h.2]
  rfl

theorem stationCheck_wrong {n : Byte} (h : ¬(1 ≤ n.toNat ∧ n.toNat ≤ 15)) : stationCheck n = .wrong := by
  refine if_neg fun hok => h ?_
  rw [stationOk, Bool.and_eq_true, decide_eq_true_eq, decide_eq_true_eq] at hok
  exact hok

/-- A station byte always holds a value: one the command takes or one it refuses. -/
theorem stationCheck_value (n : Byte) : stationCheck n = .good ∨ stationCheck n = .wrong := by
  rw [stationCheck]
  split
  · exact .inl rfl
  · exact .inr rfl

theorem autoCheck_good {a : AutoChannelArg} (h : a ≠ .other) : autoCheck a = .good := if_neg h

theorem autoCheck_formless {a : AutoChannelArg} (h : a = .other) : autoCheck a = .formless := if_pos h

theorem hasStrayBit_iff (g : Byte) :
    hasStrayBit g = true ↔ ∃ i : Fin 8, g.getLsbD i.val = true ∧ ∀ j, Config.stageBit j ≠ i := by
  simp [hasStrayBit]

theorem stagesOf_isEmpty_iff (g : Byte) :
    (stagesOf g).isEmpty = true ↔ ¬∃ j, g.getLsbD (Config.stageBit j).val = true := by
  rw [not_exists]
  simp only [StageSet.isEmpty, stagesOf, stageIn, Bool.and_eq_true, Bool.not_eq_true', Bool.not_eq_true]
  constructor
  · rintro ⟨⟨⟨⟨h0, h1⟩, h2⟩, h3⟩, h4⟩ j
    fin_cases j
    · exact h0
    · exact h1
    · exact h2
    · exact h3
    · exact h4
  · exact fun h => ⟨⟨⟨⟨h 0, h 1⟩, h 2⟩, h 3⟩, h 4⟩

theorem stagesCheck_formless {g : Byte} (h : ∃ i : Fin 8, g.getLsbD i.val = true ∧ ∀ j, Config.stageBit j ≠ i) :
    stagesCheck g = .formless := if_pos ((hasStrayBit_iff g).2 h)

theorem stagesCheck_good {g : Byte} (h : ¬∃ i : Fin 8, g.getLsbD i.val = true ∧ ∀ j, Config.stageBit j ≠ i)
    (hn : ∃ j, g.getLsbD (Config.stageBit j).val = true) : stagesCheck g = .good := by
  rw [stagesCheck, if_neg (mt (hasStrayBit_iff g).1 h), if_neg (mt (stagesOf_isEmpty_iff g).1 (not_not_intro hn))]

/-- A stage set byte that names no stage is not good, stray bit or none. -/
theorem stagesCheck_empty {g : Byte} (hn : ¬∃ j, g.getLsbD (Config.stageBit j).val = true) :
    stagesCheck g = .formless ∨ stagesCheck g = .wrong := by
  rw [stagesCheck]
  split
  · exact .inl rfl
  · exact .inr (if_pos ((stagesOf_isEmpty_iff g).2 hn))

/-! ### The command that a form gives -/

theorem checkedForm_fits {args : List ArgCheck} {r x : Request} (h : checkedForm args r = .fits x) : r = x := by
  unfold checkedForm at h
  split at h
  · cases h
  · exact FormResult.fits.inj h

theorem nullaryRequest_name {k : CommandName} {r : Request} (h : nullaryRequest k = some r) : r.name = k := by
  cases k <;> first | cases h; rfl | cases h

theorem freeForm_name {k : CommandName} {n : Nat} {args : List Byte} {r : Request}
    (h : freeForm k n args = .fits r) : r.name = k := by
  unfold freeForm at h
  split at h
  · cases h
  · split at h
    · split at h
      · next hname =>
        cases h
        exact hname
      · cases h
    · next hno => exact absurd h (hno r)

theorem watchForm_name {o f : Byte} {l : Line} {n : Option Byte} {r : Request} (h : watchForm o l f n = .fits r) :
    r.name = .watchSet := by
  unfold watchForm at h
  dsimp only at h
  split at h
  · exact checkedForm_fits h ▸ rfl
  · exact checkedForm_fits h ▸ rfl
  · cases h
  · cases h
  · exact checkedForm_fits h ▸ rfl

theorem fixedForm_name {k : CommandName} {args : List Byte} {r : Request} (h : fixedForm k args = .fits r) :
    r.name = k := by
  unfold fixedForm at h
  split at h
  case h_2 =>
    cases h
    rfl
  case h_11 => exact watchForm_name h
  case h_12 => exact watchForm_name h
  case h_14 => cases h
  all_goals exact checkedForm_fits h ▸ rfl

/-- A form that fits is its command's (R200). -/
theorem formCheck_name {k : CommandName} {args : List Byte} {r : Request} (h : formCheck k args = .fits r) :
    r.name = k := by
  unfold formCheck at h
  split at h
  · next q hq =>
    split at h
    · cases h
      exact nullaryRequest_name hq
    · cases h
  · split at h
    · exact freeForm_name h
    · exact fixedForm_name h

/-! ### The taking of a command -/

theorem takeInWorking_eq (r : Request) (s : State) : takeInWorking r s =
    if r = .softReset then takeSoftReset s
    else holdResult .working (some r.name) (takeRequest r s).1 (takeRequest r s).2 := by
  by_cases h : r = .softReset
  · subst h
    rfl
  · rw [if_neg h, takeInWorking]
    exact h

/-- The last byte's command is taken as its form check says, with the count bytes of its command (R197, R200). -/
theorem lastByteWritten_eq (k : CommandName) (args : List Byte) (s : State) :
    lastByteWritten k args s = (match formCheck k args with
      | .fits r => if r = .softReset then takeSoftReset s
          else holdResult .working (some k) (takeRequest r s).1 (takeRequest r s).2
      | .badCount => holdResult .working (some k) (.badArgument 0) s
      | .badArgument n => holdResult .working (some k) (.badArgument n) s) := by
  unfold lastByteWritten
  cases hform : formCheck k args with
  | fits r => simp only [takeInWorking_eq, formCheck_name hform]
  | badCount => rfl
  | badArgument n => rfl

/-! ### Counts of bytes -/

theorem formCheck_nullary {k : CommandName} {r : Request} (h : nullaryRequest k = some r) (args : List Byte) :
    formCheck k args = if args.isEmpty then .fits r else .badCount := by
  rw [formCheck, h]

theorem formCheck_free {k : CommandName} {n : Nat} (hnull : nullaryRequest k = none) (h : leastBytes k = some n)
    (args : List Byte) : formCheck k args = freeForm k n args := by
  rw [formCheck, hnull, h]

theorem formCheck_fixed {k : CommandName} (hnull : nullaryRequest k = none) (h : leastBytes k = none)
    (args : List Byte) : formCheck k args = fixedForm k args := by
  rw [formCheck, hnull, h]

theorem leastBytes_pos {k : CommandName} {n : Nat} (h : leastBytes k = some n) : 0 < n := by
  cases k <;> cases h <;> decide

theorem formCheck_noBytes {k : CommandName} (hnull : nullaryRequest k = none) : formCheck k [] = .badCount := by
  cases hleast : leastBytes k with
  | some n =>
    rw [formCheck_free hnull hleast]
    exact if_pos (leastBytes_pos hleast)
  | none =>
    rw [formCheck_fixed hnull hleast]
    cases k <;> rfl

theorem formCheck_fewBytes {k : CommandName} {n : Nat} (hnull : nullaryRequest k = none)
    (h : leastBytes k = some n) {args : List Byte} (hfew : args.length < n) : formCheck k args = .badCount := by
  rw [formCheck_free hnull h]
  exact if_pos hfew

/-- The commands whose arguments' sizes are known, WATCH SET apart, with their counts (log entry 4). -/
def fixedCounts : List (CommandName × Nat) :=
  [(.configure, 3), (.trunkRestore, 1), (.access, 4), (.release, 1), (.cancel, 1), (.sessionRead, 1),
    (.resultRead, 1), (.measure, 4), (.ticketOpen, 3), (.sweepStart, 6), (.setMask, 4)]

/-- A count fits a form of fixed size only where it is its command's. -/
theorem fixedForm_count (k : CommandName) (args : List Byte) : fixedForm k args = .badCount ∨
    (k, args.length) ∈ fixedCounts ∨ k = .watchSet ∧ (args.length = 4 ∨ args.length = 5) := by
  unfold fixedForm
  split
  case h_11 => exact .inr (.inr ⟨rfl, .inl rfl⟩)
  case h_12 => exact .inr (.inr ⟨rfl, .inr rfl⟩)
  case h_14 => exact .inl rfl
  all_goals exact .inr (.inl (by simp [fixedCounts]))

theorem fixedCounts_fixed {k : CommandName} {n : Nat} (h : (k, n) ∈ fixedCounts) :
    nullaryRequest k = none ∧ leastBytes k = none ∧ k ≠ .watchSet ∧ ∀ m, (k, m) ∈ fixedCounts → m = n := by
  cases k <;> simp_all [fixedCounts, nullaryRequest, leastBytes]

theorem formCheck_wrongCount {k : CommandName} {n : Nat} (h : (k, n) ∈ fixedCounts) {args : List Byte}
    (hlength : args.length ≠ n) : formCheck k args = .badCount := by
  obtain ⟨hnull, hleast, hwatch, honly⟩ := fixedCounts_fixed h
  rw [formCheck_fixed hnull hleast]
  rcases fixedForm_count k args with hbad | hcount | ⟨hk, _⟩
  · exact hbad
  · exact absurd (honly _ hcount) hlength
  · exact absurd hk hwatch

theorem formCheck_watchCount {args : List Byte} (h4 : args.length ≠ 4) (h5 : args.length ≠ 5) :
    formCheck .watchSet args = .badCount := by
  rw [formCheck_fixed rfl rfl]
  rcases fixedForm_count .watchSet args with hbad | hcount | ⟨_, h | h⟩
  · exact hbad
  · simp [fixedCounts] at hcount
  · exact absurd h h4
  · exact absurd h h5

/-! ### The forms of each command -/

/-- Every argument holds a value: the form fits. -/
theorem checkedForm_of_values {args : List ArgCheck} (r : Request) (h : args.contains .formless = false) :
    checkedForm args r = .fits r := by
  rw [checkedForm, h]
  rfl

theorem formCheck_configure (n a f : Byte) : formCheck .configure [n, a, f] =
    checkedForm [stationCheck n, autoCheck (Config.autoChannelOfByte a), flagCheck f]
      (.configure n.toNat (Config.autoChannelOfByte a) (flagOf f)) := rfl

theorem formCheck_access (c h l f : Byte) : formCheck .access [c, h, l, f] =
    checkedForm [namedCheck (Config.channelOfByte c), .good, flagCheck f]
      (.access (Config.channelOfByte c) (Config.lineOfBytes h l) (flagOf f)) := rfl

theorem formCheck_measure (c g n f : Byte) : formCheck .measure [c, g, n, f] =
    checkedForm [namedCheck (Config.channelOfByte c), stagesCheck g, .good, flagCheck f]
      (.measure (Config.channelOfByte c) (stagesOf g) n.toFin (flagOf f)) := rfl

theorem formCheck_sweepStart (h l i m g n : Byte) : formCheck .sweepStart [h, l, i, m, g, n] =
    checkedForm [if Config.lineOfBytes i m < Config.lineOfBytes h l then .wrong else .good, .good, stagesCheck g, .good]
      (.sweepStart (Config.lineOfBytes h l) (Config.lineOfBytes i m) (stagesOf g) n.toFin) := rfl

theorem formCheck_watchSet_plain (o h l f : Byte) :
    formCheck .watchSet [o, h, l, f] = watchForm o (Config.lineOfBytes h l) f none := rfl

theorem formCheck_watchSet_station (o h l f n : Byte) :
    formCheck .watchSet [o, h, l, f, n] = watchForm o (Config.lineOfBytes h l) f (some n) := rfl

theorem formCheck_setMask (a b c d : Byte) : formCheck .setMask [a, b, c, d] =
    checkedForm [flagCheck a, flagCheck b, flagCheck c, flagCheck d]
      (.setMask ⟨flagOf a, flagOf b, flagOf c, flagOf d⟩) := rfl

/-- CONFIGURE's three arguments, the first wrong one named (R201). -/
theorem configure_form (n a f : Byte) :
    (¬(1 ≤ n.toNat ∧ n.toNat ≤ 15) → Config.autoChannelOfByte a = .other ∨ ¬(f = 0 ∨ f = 1) →
      formCheck .configure [n, a, f] = .badArgument 1) ∧
    (1 ≤ n.toNat ∧ n.toNat ≤ 15 → Config.autoChannelOfByte a = .other →
      formCheck .configure [n, a, f] = .badArgument 2) ∧
    (1 ≤ n.toNat ∧ n.toNat ≤ 15 → Config.autoChannelOfByte a ≠ .other → ¬(f = 0 ∨ f = 1) →
      formCheck .configure [n, a, f] = .badArgument 3) ∧
    (Config.autoChannelOfByte a ≠ .other → f = 0 ∨ f = 1 → formCheck .configure [n, a, f] =
      .fits (.configure n.toNat (Config.autoChannelOfByte a) (decide (f = 1)))) := by
  rw [formCheck_configure]
  refine ⟨fun hn h => ?_, fun hn ha => ?_, fun hn ha hf => ?_, fun ha hf => ?_⟩
  · rw [stationCheck_wrong hn]
    rcases h with ha | hf
    · rw [autoCheck_formless ha]
      rfl
    · rw [flagCheck_formless hf]
      unfold autoCheck
      split <;> rfl
  · rw [stationCheck_good hn, autoCheck_formless ha]
    rfl
  · rw [stationCheck_good hn, autoCheck_good ha, flagCheck_formless hf]
    rfl
  · rw [autoCheck_good ha, flagCheck_good hf]
    rcases stationCheck_value n with hn | hn <;> rw [hn] <;> rfl

theorem access_form (c h l f : Byte) :
    (Config.channelOfByte c = none → formCheck .access [c, h, l, f] = .badArgument 1) ∧
    ∀ d : Channel, Config.channelOfByte c = some d →
      (¬(f = 0 ∨ f = 1) → formCheck .access [c, h, l, f] = .badArgument 3) ∧
      (f = 0 ∨ f = 1 →
        formCheck .access [c, h, l, f] = .fits (.access (some d) (Config.lineOfBytes h l) (decide (f = 1)))) := by
  rw [formCheck_access]
  refine ⟨fun hc => ?_, fun d hc => ⟨fun hf => ?_, fun hf => ?_⟩⟩
  · rw [hc]
    rfl
  · rw [hc, flagCheck_formless hf]
    rfl
  · rw [hc, flagCheck_good hf]
    rfl

theorem measure_form (c g n f : Byte) (hc : (Config.channelOfByte c).isSome = true) :
    ((∃ i : Fin 8, g.getLsbD i.val = true ∧ ∀ j, Config.stageBit j ≠ i) ∨
        (¬(∃ j, g.getLsbD (Config.stageBit j).val = true) ∧ ¬(f = 0 ∨ f = 1)) →
      formCheck .measure [c, g, n, f] = .badArgument 2) ∧
    (¬(∃ i : Fin 8, g.getLsbD i.val = true ∧ ∀ j, Config.stageBit j ≠ i) →
      (∃ j, g.getLsbD (Config.stageBit j).val = true) → ¬(f = 0 ∨ f = 1) →
      formCheck .measure [c, g, n, f] = .badArgument 4) := by
  have hchannel : namedCheck (Config.channelOfByte c) = .good := if_pos hc
  rw [formCheck_measure, hchannel]
  refine ⟨?_, fun hstray hnames hf => ?_⟩
  · rintro (hstray | ⟨hnames, hf⟩)
    · rw [stagesCheck_formless hstray]
      rfl
    · rw [flagCheck_formless hf]
      rcases stagesCheck_empty hnames with hg | hg <;> rw [hg] <;> rfl
  · rw [stagesCheck_good hstray hnames, flagCheck_formless hf]
    rfl

theorem sweepStart_form {h l i m g n : Byte}
    (hg : ∃ i : Fin 8, g.getLsbD i.val = true ∧ ∀ j, Config.stageBit j ≠ i) :
    formCheck .sweepStart [h, l, i, m, g, n] =
      .badArgument (if Config.lineOfBytes i m < Config.lineOfBytes h l then 1 else 3) := by
  rw [formCheck_sweepStart, stagesCheck_formless hg]
  split <;> rfl

theorem ticketOpen_form {h l k : Byte} (hk : Config.classOfByte k = none) :
    formCheck .ticketOpen [h, l, k] = .badArgument 2 := by
  change checkedForm [.good, classCheck (Config.classOfByte k)] _ = _
  rw [hk]
  rfl

/-- WATCH SET with an operation it knows: the count must be its filter's, and the filter one of the five (R193). -/
theorem watchSet_form {o : Byte} (h l f n : Byte) {p : WatchOp} (ho : Config.operationOfByte o = some p) :
    (Config.filterOfByte f = some .station →
      formCheck .watchSet [o, h, l, f] = .badCount ∧
      formCheck .watchSet [o, h, l, f, n] = .fits (.watchSet (some p) (Config.lineOfBytes h l) (.station n.toNat))) ∧
    (∀ k g, (k, g) ∈ [(FilterName.any, FilterArg.any), (.own, .own), (.ownOperator, .ownOperator),
        (.ownAutomatic, .ownAutomatic)] → Config.filterOfByte f = some k →
      formCheck .watchSet [o, h, l, f, n] = .badCount ∧
      formCheck .watchSet [o, h, l, f] = .fits (.watchSet (some p) (Config.lineOfBytes h l) g)) ∧
    (Config.filterOfByte f = none → formCheck .watchSet [o, h, l, f] = .badArgument 3 ∧
      formCheck .watchSet [o, h, l, f, n] = .badArgument 3) := by
  rw [formCheck_watchSet_plain, formCheck_watchSet_station]
  unfold watchForm
  rw [ho]
  refine ⟨fun hf => ?_, fun k g hkg hf => ?_, fun hf => ?_⟩
  · rw [hf]
    refine ⟨rfl, ?_⟩
    rcases stationCheck_value n with hn | hn
    · exact checkedForm_of_values _ (by rw [hn]; rfl)
    · exact checkedForm_of_values _ (by rw [hn]; rfl)
  · rw [hf]
    simp only [List.mem_cons, List.not_mem_nil, or_false, Prod.mk.injEq] at hkg
    rcases hkg with ⟨rfl, rfl⟩ | ⟨rfl, rfl⟩ | ⟨rfl, rfl⟩ | ⟨rfl, rfl⟩
    · exact ⟨rfl, rfl⟩
    · exact ⟨rfl, rfl⟩
    · exact ⟨rfl, rfl⟩
    · exact ⟨rfl, rfl⟩
  · rw [hf]
    exact ⟨rfl, rfl⟩

theorem watchSet_form_noOperation {o h l f : Byte} (ho : Config.operationOfByte o = none)
    (hf : Config.filterOfByte f ≠ some .station) : formCheck .watchSet [o, h, l, f] = .badArgument 1 := by
  rw [formCheck_watchSet_plain]
  unfold watchForm
  rw [ho]
  cases hcase : Config.filterOfByte f with
  | none => rfl
  | some k =>
    cases k with
    | station => exact absurd hcase hf
    | any => rfl
    | own => rfl
    | ownOperator => rfl
    | ownAutomatic => rfl

theorem setMask_form (a b c d : Byte) :
    (¬(a = 0 ∨ a = 1) → formCheck .setMask [a, b, c, d] = .badArgument 1) ∧
    (a = 0 ∨ a = 1 → b = 0 ∨ b = 1 → c = 0 ∨ c = 1 → ¬(d = 0 ∨ d = 1) →
      formCheck .setMask [a, b, c, d] = .badArgument 4) := by
  rw [formCheck_setMask]
  refine ⟨fun ha => ?_, fun ha hb hc hd => ?_⟩
  · rw [flagCheck_formless ha]
    rfl
  · rw [flagCheck_good ha, flagCheck_good hb, flagCheck_good hc, flagCheck_formless hd]
    rfl

theorem release_form {c : Byte} (hc : Config.channelOfByte c = none) :
    formCheck .release [c] = .badArgument 1 := by
  change channelForm c .release = _
  rw [channelForm, hc]
  rfl

/-- The commands of free sizes with the fewest bytes of each. -/
theorem leastBytes_of_mem {k : CommandName} {n : Nat}
    (h : (k, n) ∈ [(CommandName.loadBlock, 1), (.loadTrunk, 4), (.setThresholds, 17), (.setClock, 4),
      (.ticketClose, 2), (.ticketRetest, 4), (.ticketRead, 2), (.ticketList, 2), (.ticketHandover, 3)]) :
    nullaryRequest k = none ∧ leastBytes k = some n := by
  cases k <;> simp_all [nullaryRequest, leastBytes]

/-- Settles O6: the taking by `lastByteWritten_eq`, the counts by the form's kind, each command's arguments by its
form. -/
theorem lastByteTakesTheCommand : Obligations.LastByteTakesTheCommand := by
  refine ⟨fun k args s => ⟨lastByteWritten_eq k args s, fun r => formCheck_name, fun r hr hargs => ?_,
    fun r hr hargs => ?_, fun hnull hargs => ?_, fun p hp hk hlength => ?_, fun hk h4 h5 => ?_,
    fun p hp hk hfew => ?_⟩, configure_form, access_form, fun c g n f => measure_form c g n f,
    fun h l i m g n => sweepStart_form, fun h l k => ticketOpen_form, fun o h l f n p => watchSet_form h l f n,
    fun o h l f => watchSet_form_noOperation, setMask_form, fun c => release_form⟩
  · rw [formCheck_nullary hr]
    exact if_neg (by simpa using hargs)
  · rw [formCheck_nullary hr, hargs]
    rfl
  · rw [hargs]
    exact formCheck_noBytes hnull
  · subst hk
    exact formCheck_wrongCount hp hlength
  · subst hk
    exact formCheck_watchCount h4 h5
  · subst hk
    obtain ⟨hnull, hleast⟩ := leastBytes_of_mem hp
    exact formCheck_fewBytes hnull hleast hfew

end Sys2Proof.Machine
end

section
/-! What an update of one record of a channel leaves of the others, and what the operations on the port, the queue, the
Ticket Store and the Automatic Engine leave (`Beside`). -/

namespace Sys2Proof.Machine

/-! ### The records of the channels -/

section Parts

variable (c d : Channel) (s : State)

@[simp] theorem seq_updSession (f : Session → Session) : ((s.updSession c f).chan d).seq = (s.chan d).seq := by
  cases c <;> cases d <;> rfl
@[simp] theorem claim_updSession (f : Session → Session) : ((s.updSession c f).chan d).claim = (s.chan d).claim := by
  cases c <;> cases d <;> rfl
@[simp] theorem quiet_updSession (f : Session → Session) : ((s.updSession c f).chan d).quiet = (s.chan d).quiet := by
  cases c <;> cases d <;> rfl
@[simp] theorem clears_updSession (f : Session → Session) : ((s.updSession c f).chan d).clears = (s.chan d).clears := by
  cases c <;> cases d <;> rfl
@[simp] theorem engine_updSession (f : Session → Session) : ((s.updSession c f).chan d).engine = (s.chan d).engine := by
  cases c <;> cases d <;> rfl
@[simp] theorem command_updSession (f : Session → Session) : ((s.updSession c f).chan d).command = (s.chan d).command := by
  cases c <;> cases d <;> rfl
@[simp] theorem pins_updSession (f : Session → Session) : ((s.updSession c f).chan d).pins = (s.chan d).pins := by
  cases c <;> cases d <;> rfl

@[simp] theorem session_updSeq (f : Sequencer → Sequencer) : ((s.updSeq c f).chan d).session = (s.chan d).session := by
  cases c <;> cases d <;> rfl
@[simp] theorem claim_updSeq (f : Sequencer → Sequencer) : ((s.updSeq c f).chan d).claim = (s.chan d).claim := by
  cases c <;> cases d <;> rfl
@[simp] theorem quiet_updSeq (f : Sequencer → Sequencer) : ((s.updSeq c f).chan d).quiet = (s.chan d).quiet := by
  cases c <;> cases d <;> rfl
@[simp] theorem clears_updSeq (f : Sequencer → Sequencer) : ((s.updSeq c f).chan d).clears = (s.chan d).clears := by
  cases c <;> cases d <;> rfl
@[simp] theorem engine_updSeq (f : Sequencer → Sequencer) : ((s.updSeq c f).chan d).engine = (s.chan d).engine := by
  cases c <;> cases d <;> rfl
@[simp] theorem command_updSeq (f : Sequencer → Sequencer) : ((s.updSeq c f).chan d).command = (s.chan d).command := by
  cases c <;> cases d <;> rfl
@[simp] theorem pins_updSeq (f : Sequencer → Sequencer) : ((s.updSeq c f).chan d).pins = (s.chan d).pins := by
  cases c <;> cases d <;> rfl

@[simp] theorem session_updClaim (f : ClaimRecord → ClaimRecord) : ((s.updClaim c f).chan d).session = (s.chan d).session := by
  cases c <;> cases d <;> rfl
@[simp] theorem seq_updClaim (f : ClaimRecord → ClaimRecord) : ((s.updClaim c f).chan d).seq = (s.chan d).seq := by
  cases c <;> cases d <;> rfl
@[simp] theorem quiet_updClaim (f : ClaimRecord → ClaimRecord) : ((s.updClaim c f).chan d).quiet = (s.chan d).quiet := by
  cases c <;> cases d <;> rfl
@[simp] theorem clears_updClaim (f : ClaimRecord → ClaimRecord) : ((s.updClaim c f).chan d).clears = (s.chan d).clears := by
  cases c <;> cases d <;> rfl
@[simp] theorem engine_updClaim (f : ClaimRecord → ClaimRecord) : ((s.updClaim c f).chan d).engine = (s.chan d).engine := by
  cases c <;> cases d <;> rfl
@[simp] theorem command_updClaim (f : ClaimRecord → ClaimRecord) : ((s.updClaim c f).chan d).command = (s.chan d).command := by
  cases c <;> cases d <;> rfl
@[simp] theorem pins_updClaim (f : ClaimRecord → ClaimRecord) : ((s.updClaim c f).chan d).pins = (s.chan d).pins := by
  cases c <;> cases d <;> rfl

@[simp] theorem session_updQuiet (f : QuietRecord → QuietRecord) : ((s.updQuiet c f).chan d).session = (s.chan d).session := by
  cases c <;> cases d <;> rfl
@[simp] theorem seq_updQuiet (f : QuietRecord → QuietRecord) : ((s.updQuiet c f).chan d).seq = (s.chan d).seq := by
  cases c <;> cases d <;> rfl
@[simp] theorem claim_updQuiet (f : QuietRecord → QuietRecord) : ((s.updQuiet c f).chan d).claim = (s.chan d).claim := by
  cases c <;> cases d <;> rfl
@[simp] theorem clears_updQuiet (f : QuietRecord → QuietRecord) : ((s.updQuiet c f).chan d).clears = (s.chan d).clears := by
  cases c <;> cases d <;> rfl
@[simp] theorem engine_updQuiet (f : QuietRecord → QuietRecord) : ((s.updQuiet c f).chan d).engine = (s.chan d).engine := by
  cases c <;> cases d <;> rfl
@[simp] theorem command_updQuiet (f : QuietRecord → QuietRecord) : ((s.updQuiet c f).chan d).command = (s.chan d).command := by
  cases c <;> cases d <;> rfl
@[simp] theorem pins_updQuiet (f : QuietRecord → QuietRecord) : ((s.updQuiet c f).chan d).pins = (s.chan d).pins := by
  cases c <;> cases d <;> rfl

@[simp] theorem session_updClears (f : List OwedClear → List OwedClear) : ((s.updClears c f).chan d).session = (s.chan d).session := by
  cases c <;> cases d <;> rfl
@[simp] theorem seq_updClears (f : List OwedClear → List OwedClear) : ((s.updClears c f).chan d).seq = (s.chan d).seq := by
  cases c <;> cases d <;> rfl
@[simp] theorem claim_updClears (f : List OwedClear → List OwedClear) : ((s.updClears c f).chan d).claim = (s.chan d).claim := by
  cases c <;> cases d <;> rfl
@[simp] theorem quiet_updClears (f : List OwedClear → List OwedClear) : ((s.updClears c f).chan d).quiet = (s.chan d).quiet := by
  cases c <;> cases d <;> rfl
@[simp] theorem engine_updClears (f : List OwedClear → List OwedClear) : ((s.updClears c f).chan d).engine = (s.chan d).engine := by
  cases c <;> cases d <;> rfl
@[simp] theorem command_updClears (f : List OwedClear → List OwedClear) : ((s.updClears c f).chan d).command = (s.chan d).command := by
  cases c <;> cases d <;> rfl
@[simp] theorem pins_updClears (f : List OwedClear → List OwedClear) : ((s.updClears c f).chan d).pins = (s.chan d).pins := by
  cases c <;> cases d <;> rfl

@[simp] theorem session_updEngine (f : EngineRecord → EngineRecord) : ((s.updEngine c f).chan d).session = (s.chan d).session := by
  cases c <;> cases d <;> rfl
@[simp] theorem seq_updEngine (f : EngineRecord → EngineRecord) : ((s.updEngine c f).chan d).seq = (s.chan d).seq := by
  cases c <;> cases d <;> rfl
@[simp] theorem claim_updEngine (f : EngineRecord → EngineRecord) : ((s.updEngine c f).chan d).claim = (s.chan d).claim := by
  cases c <;> cases d <;> rfl
@[simp] theorem quiet_updEngine (f : EngineRecord → EngineRecord) : ((s.updEngine c f).chan d).quiet = (s.chan d).quiet := by
  cases c <;> cases d <;> rfl
@[simp] theorem clears_updEngine (f : EngineRecord → EngineRecord) : ((s.updEngine c f).chan d).clears = (s.chan d).clears := by
  cases c <;> cases d <;> rfl
@[simp] theorem command_updEngine (f : EngineRecord → EngineRecord) : ((s.updEngine c f).chan d).command = (s.chan d).command := by
  cases c <;> cases d <;> rfl
@[simp] theorem pins_updEngine (f : EngineRecord → EngineRecord) : ((s.updEngine c f).chan d).pins = (s.chan d).pins := by
  cases c <;> cases d <;> rfl

@[simp] theorem session_setCommand (k : Option ChannelCommand) : ((s.setCommand c k).chan d).session = (s.chan d).session := by
  cases c <;> cases d <;> rfl
@[simp] theorem seq_setCommand (k : Option ChannelCommand) : ((s.setCommand c k).chan d).seq = (s.chan d).seq := by
  cases c <;> cases d <;> rfl
@[simp] theorem claim_setCommand (k : Option ChannelCommand) : ((s.setCommand c k).chan d).claim = (s.chan d).claim := by
  cases c <;> cases d <;> rfl
@[simp] theorem quiet_setCommand (k : Option ChannelCommand) : ((s.setCommand c k).chan d).quiet = (s.chan d).quiet := by
  cases c <;> cases d <;> rfl
@[simp] theorem clears_setCommand (k : Option ChannelCommand) : ((s.setCommand c k).chan d).clears = (s.chan d).clears := by
  cases c <;> cases d <;> rfl
@[simp] theorem engine_setCommand (k : Option ChannelCommand) : ((s.setCommand c k).chan d).engine = (s.chan d).engine := by
  cases c <;> cases d <;> rfl
@[simp] theorem pins_setCommand (k : Option ChannelCommand) : ((s.setCommand c k).chan d).pins = (s.chan d).pins := by
  cases c <;> cases d <;> rfl

@[simp] theorem session_updPins (f : Pins → Pins) : ((s.updPins c f).chan d).session = (s.chan d).session := by
  cases c <;> cases d <;> rfl
@[simp] theorem seq_updPins (f : Pins → Pins) : ((s.updPins c f).chan d).seq = (s.chan d).seq := by
  cases c <;> cases d <;> rfl
@[simp] theorem claim_updPins (f : Pins → Pins) : ((s.updPins c f).chan d).claim = (s.chan d).claim := by
  cases c <;> cases d <;> rfl
@[simp] theorem quiet_updPins (f : Pins → Pins) : ((s.updPins c f).chan d).quiet = (s.chan d).quiet := by
  cases c <;> cases d <;> rfl
@[simp] theorem clears_updPins (f : Pins → Pins) : ((s.updPins c f).chan d).clears = (s.chan d).clears := by
  cases c <;> cases d <;> rfl
@[simp] theorem engine_updPins (f : Pins → Pins) : ((s.updPins c f).chan d).engine = (s.chan d).engine := by
  cases c <;> cases d <;> rfl
@[simp] theorem command_updPins (f : Pins → Pins) : ((s.updPins c f).chan d).command = (s.chan d).command := by
  cases c <;> cases d <;> rfl

end Parts

/-! ### Beside the channels -/

/-- `s` agrees with `r` on the configuration, the roster, the channels, the watch, the soft reset, the timer and the
queue of steps: what lies between them touches the port, the link, the Ticket Store and the Automatic Engine only. -/
structure Beside (r s : State) : Prop where
  store : s.store = r.store
  roster : s.roster = r.roster
  chanA : s.chanA = r.chanA
  chanB : s.chanB = r.chanB
  watch : s.watch = r.watch
  softReset : s.softReset = r.softReset
  now : s.now = r.now
  pending : s.pending = r.pending

namespace Beside

variable {r s t : State}

theorem refl (s : State) : Beside s s := ⟨rfl, rfl, rfl, rfl, rfl, rfl, rfl, rfl⟩

theorem chan (h : Beside r s) : ∀ c, s.chan c = r.chan c
  | .a => h.chanA
  | .b => h.chanB

theorem trans (h : Beside r s) (k : Beside s t) : Beside r t :=
  ⟨k.store.trans h.store, k.roster.trans h.roster, k.chanA.trans h.chanA, k.chanB.trans h.chanB,
    k.watch.trans h.watch, k.softReset.trans h.softReset, k.now.trans h.now, k.pending.trans h.pending⟩

theorem symm (h : Beside r s) : Beside s r :=
  ⟨h.store.symm, h.roster.symm, h.chanA.symm, h.chanB.symm, h.watch.symm, h.softReset.symm, h.now.symm,
    h.pending.symm⟩

/-- An operation that stays beside the channels may be left out. -/
theorem step_iff (h : Beside s t) : Beside r t ↔ Beside r s := ⟨fun k => k.trans h.symm, fun k => k.trans h⟩

end Beside

section Operations

variable {r s : State}

@[simp] theorem beside_updPort {f : Port → Port} : Beside r (s.updPort f) ↔ Beside r s :=
  Beside.step_iff ⟨rfl, rfl, rfl, rfl, rfl, rfl, rfl, rfl⟩

@[simp] theorem beside_updLink {f : Link → Link} : Beside r (s.updLink f) ↔ Beside r s :=
  Beside.step_iff ⟨rfl, rfl, rfl, rfl, rfl, rfl, rfl, rfl⟩

@[simp] theorem beside_updTickets {f : TicketStore → TicketStore} : Beside r (s.updTickets f) ↔ Beside r s :=
  Beside.step_iff ⟨rfl, rfl, rfl, rfl, rfl, rfl, rfl, rfl⟩

@[simp] theorem beside_updAuto {f : AutoEngine → AutoEngine} : Beside r (s.updAuto f) ↔ Beside r s :=
  Beside.step_iff ⟨rfl, rfl, rfl, rfl, rfl, rfl, rfl, rfl⟩

@[simp] theorem beside_enterEvent {e : Event} : Beside r (enterEvent e s) ↔ Beside r s :=
  Beside.step_iff ⟨rfl, rfl, rfl, rfl, rfl, rfl, rfl, rfl⟩

@[simp] theorem beside_writeSessionEnd {c : Channel} {k : SessionEndCause} :
    Beside r (writeSessionEnd c k s) ↔ Beside r s :=
  Beside.step_iff ⟨rfl, rfl, rfl, rfl, rfl, rfl, rfl, rfl⟩

@[simp] theorem beside_emit {e : Event} : Beside r (emit e s) ↔ Beside r s := by
  unfold emit
  split
  · exact beside_enterEvent
  · exact Beside.step_iff ⟨rfl, rfl, rfl, rfl, rfl, rfl, rfl, rfl⟩

/-- An action over a list, each of whose steps stays beside the channels. -/
theorem beside_foldl {α : Type} {f : State → α → State} (hf : ∀ s a, Beside r (f s a) ↔ Beside r s) :
    ∀ (l : List α) (s : State), Beside r (l.foldl f s) ↔ Beside r s
  | [], _ => Iff.rfl
  | a :: l, s => (beside_foldl hf l (f s a)).trans (hf s a)

@[simp] theorem beside_emitLinkState : Beside r (emitLinkState s) ↔ Beside r s := by
  simp [emitLinkState]

@[simp] theorem beside_appendObservation {n : TicketNo} {o : Observation} :
    Beside r (appendObservation n o s) ↔ Beside r s := by
  unfold appendObservation
  repeat' split
  all_goals simp

@[simp] theorem beside_failHandover {t : Ticket} {h : Handover} {x : HandoverReason} :
    Beside r (failHandover t h x s) ↔ Beside r s := by
  simp [failHandover]

@[simp] theorem beside_enqueue {b : QueuedBody} {o : Option Channel} : Beside r (enqueue b o s) ↔ Beside r s := by
  simp [enqueue]

@[simp] theorem beside_setLinkError : Beside r (setLinkError s) ↔ Beside r s := by
  unfold setLinkError
  repeat' split
  all_goals simp

@[simp] theorem beside_tellDropped {b : FrameBody} : Beside r (tellDropped b s) ↔ Beside r s := by
  unfold tellDropped
  repeat' split
  all_goals simp

@[simp] theorem beside_tellDroppedFrame {f : QueuedFrame} : Beside r (tellDroppedFrame f s) ↔ Beside r s := by
  unfold tellDroppedFrame
  repeat' split
  all_goals simp

@[simp] theorem beside_holdFrame {f : QueuedFrame} : Beside r (holdFrame f s) ↔ Beside r s := by
  unfold holdFrame
  repeat' split
  all_goals simp

@[simp] theorem beside_lowFrameLeft : Beside r (lowFrameLeft s) ↔ Beside r s := by
  simp [lowFrameLeft]

@[simp] theorem beside_removeFrame {f : QueuedFrame} : Beside r (removeFrame f s) ↔ Beside r s := by
  unfold removeFrame
  repeat' split
  all_goals simp

@[simp] theorem beside_displaced {f : QueuedFrame} : Beside r (displaced f s) ↔ Beside r s := by
  unfold displaced
  repeat' split
  all_goals simp

@[simp] theorem beside_offerUrgent {b : FrameBody} {o : Option Channel} :
    Beside r (offerUrgent b o s) ↔ Beside r s := by
  unfold offerUrgent
  repeat' split
  all_goals simp

@[simp] theorem beside_offerNotice {b : FrameBody} : Beside r (offerNotice b s) ↔ Beside r s := by
  unfold offerNotice
  repeat' split
  all_goals simp

@[simp] theorem beside_removeIfQueued {f : Option QueuedFrame} : Beside r (removeIfQueued f s) ↔ Beside r s := by
  unfold removeIfQueued
  repeat' split
  all_goals simp

@[simp] theorem beside_queueTrunkNotice {t : Trunk} {out : Bool} :
    Beside r (queueTrunkNotice t out s) ↔ Beside r s := by
  unfold queueTrunkNotice
  repeat' split
  all_goals simp

@[simp] theorem beside_storeFailure {l : Line} {o : Observation} : Beside r (storeFailure l o s).2 ↔ Beside r s := by
  unfold storeFailure
  repeat' split
  all_goals simp

@[simp] theorem beside_storeNoisy {l : Line} {o : Observation} : Beside r (storeNoisy l o s).2 ↔ Beside r s := by
  unfold storeNoisy
  repeat' split
  all_goals simp

@[simp] theorem beside_storeResult {l : Line} {o : Observation} : Beside r (storeResult l o s).2 ↔ Beside r s := by
  unfold storeResult
  repeat' split
  all_goals simp

@[simp] theorem beside_settleRetest {t : Ticket} : Beside r (settleRetest t s) ↔ Beside r s := by
  unfold settleRetest
  repeat' split
  all_goals simp

@[simp] theorem beside_retestResult {n : TicketNo} {l : Line} {o : Observation} :
    Beside r (retestResult n l o s) ↔ Beside r s := by
  unfold retestResult
  repeat' split
  all_goals simp

@[simp] theorem beside_postponeRetest {n : TicketNo} {k : Nat} : Beside r (postponeRetest n k s) ↔ Beside r s := by
  simp [postponeRetest]

@[simp] theorem beside_mergeTicket {n : Station} {e : NoteEntry} {t : Ticket} {k : Bool} :
    Beside r (mergeTicket n e t k s) ↔ Beside r s := by
  unfold mergeTicket
  repeat' split
  all_goals simp

@[simp] theorem beside_takeNoteEntry {n : Station} {e : NoteEntry} : Beside r (takeNoteEntry n e s) ↔ Beside r s := by
  unfold takeNoteEntry
  repeat' split
  all_goals simp

@[simp] theorem beside_takeNote {n : Station} {es : List NoteEntry} : Beside r (takeNote n es s) ↔ Beside r s :=
  beside_foldl (fun _ _ => beside_takeNoteEntry) es s

@[simp] theorem beside_takeAddition {n : Station} {k : TicketNo} {l : Line} {o : ObsData} :
    Beside r (takeAddition n k l o s) ↔ Beside r s := by
  unfold takeAddition
  repeat' split
  all_goals simp

@[simp] theorem beside_takeOffer {n : Station} {o : HandOffer} : Beside r (takeOffer n o s) ↔ Beside r s := by
  unfold takeOffer
  repeat' split
  all_goals simp

@[simp] theorem beside_takeAccept {m : Station} {k : TicketNo} : Beside r (takeAccept m k s) ↔ Beside r s := by
  unfold takeAccept
  repeat' split
  all_goals simp

@[simp] theorem beside_takeRefusal {m : Station} {k : TicketNo} {x : RefuseReason} :
    Beside r (takeRefusal m k x s) ↔ Beside r s := by
  unfold takeRefusal
  repeat' split
  all_goals simp

@[simp] theorem beside_handoverTimesOut {n : TicketNo} : Beside r (handoverTimesOut n s) ↔ Beside r s := by
  unfold handoverTimesOut
  repeat' split
  all_goals simp

@[simp] theorem beside_updSweep {f : Sweep → Sweep} : Beside r (updSweep f s) ↔ Beside r s := by
  simp [updSweep]

@[simp] theorem beside_updItem {f : Item → Item} : Beside r (updItem f s) ↔ Beside r s := by
  simp [updItem]

@[simp] theorem beside_dropItem : Beside r (dropItem s) ↔ Beside r s := by
  simp [dropItem]

@[simp] theorem beside_haltEngine : Beside r (haltEngine s) ↔ Beside r s := by
  simp [haltEngine]

@[simp] theorem beside_completeSweep : Beside r (completeSweep s) ↔ Beside r s := by
  unfold completeSweep
  repeat' split
  all_goals simp

@[simp] theorem beside_skipLine {l : Line} : Beside r (skipLine l s) ↔ Beside r s := by
  simp [skipLine]

@[simp] theorem beside_deferLine {l : Line} : Beside r (deferLine l s) ↔ Beside r s := by
  unfold deferLine
  repeat' split
  all_goals simp

@[simp] theorem beside_sweepOutcome {i : Item} {o : ItemOutcome} : Beside r (sweepOutcome i o s) ↔ Beside r s := by
  unfold sweepOutcome
  repeat' split
  all_goals simp

@[simp] theorem beside_retestOutcome {n : TicketNo} {o : ItemOutcome} :
    Beside r (retestOutcome n o s) ↔ Beside r s := by
  unfold retestOutcome
  repeat' split
  all_goals simp

@[simp] theorem beside_emitItemResult {i : Item} {o : ItemOutcome} {k : Option FaultClass} {a : TicketAnswer} :
    Beside r (emitItemResult i o k a s) ↔ Beside r s := by
  unfold emitItemResult
  repeat' split
  all_goals simp

@[simp] theorem beside_fixOutcome {i : Item} {o : ItemOutcome} {k : Option FaultClass} {a : TicketAnswer} :
    Beside r (fixOutcome i o k a s) ↔ Beside r s := by
  unfold fixOutcome
  repeat' split
  all_goals simp

@[simp] theorem beside_report {o : ItemOutcome} : Beside r (report o s) ↔ Beside r s := by
  unfold report
  repeat' split
  all_goals simp

@[simp] theorem beside_reportMeasured {k : FaultClass} {d : Option Deciding} {n : Bool} :
    Beside r (reportMeasured k d n s) ↔ Beside r s := by
  unfold reportMeasured
  repeat' split
  all_goals simp

@[simp] theorem beside_itemEnds : Beside r (itemEnds s) ↔ Beside r s := by
  unfold itemEnds
  dsimp only
  repeat' split
  all_goals simp

@[simp] theorem beside_freeze {k : FreezeCause} {l : Line} : Beside r (freeze k l s) ↔ Beside r s := by
  simp [freeze]

end Operations

/-! ### What each of them leaves -/

section Fields

variable {s : State} (c : Channel)

@[simp] theorem watch_emit {e : Event} : (emit e s).watch = s.watch := (beside_emit.2 (Beside.refl s)).watch
@[simp] theorem now_emit {e : Event} : (emit e s).now = s.now := (beside_emit.2 (Beside.refl s)).now

@[simp] theorem chan_enterEvent {e : Event} : (enterEvent e s).chan c = s.chan c :=
  (beside_enterEvent.2 (Beside.refl s)).chan c
@[simp] theorem store_enterEvent {e : Event} : (enterEvent e s).store = s.store :=
  (beside_enterEvent.2 (Beside.refl s)).store
@[simp] theorem roster_enterEvent {e : Event} : (enterEvent e s).roster = s.roster :=
  (beside_enterEvent.2 (Beside.refl s)).roster
@[simp] theorem watch_enterEvent {e : Event} : (enterEvent e s).watch = s.watch :=
  (beside_enterEvent.2 (Beside.refl s)).watch
@[simp] theorem now_enterEvent {e : Event} : (enterEvent e s).now = s.now :=
  (beside_enterEvent.2 (Beside.refl s)).now

@[simp] theorem chan_enqueue {b : QueuedBody} {o : Option Channel} : (enqueue b o s).chan c = s.chan c :=
  (beside_enqueue.2 (Beside.refl s)).chan c
@[simp] theorem store_enqueue {b : QueuedBody} {o : Option Channel} : (enqueue b o s).store = s.store :=
  (beside_enqueue.2 (Beside.refl s)).store
@[simp] theorem roster_enqueue {b : QueuedBody} {o : Option Channel} : (enqueue b o s).roster = s.roster :=
  (beside_enqueue.2 (Beside.refl s)).roster
@[simp] theorem watch_enqueue {b : QueuedBody} {o : Option Channel} : (enqueue b o s).watch = s.watch :=
  (beside_enqueue.2 (Beside.refl s)).watch
@[simp] theorem now_enqueue {b : QueuedBody} {o : Option Channel} : (enqueue b o s).now = s.now :=
  (beside_enqueue.2 (Beside.refl s)).now

@[simp] theorem chan_setLinkError : (setLinkError s).chan c = s.chan c :=
  (beside_setLinkError.2 (Beside.refl s)).chan c
@[simp] theorem store_setLinkError : (setLinkError s).store = s.store :=
  (beside_setLinkError.2 (Beside.refl s)).store
@[simp] theorem roster_setLinkError : (setLinkError s).roster = s.roster :=
  (beside_setLinkError.2 (Beside.refl s)).roster
@[simp] theorem watch_setLinkError : (setLinkError s).watch = s.watch :=
  (beside_setLinkError.2 (Beside.refl s)).watch
@[simp] theorem now_setLinkError : (setLinkError s).now = s.now :=
  (beside_setLinkError.2 (Beside.refl s)).now

@[simp] theorem chan_holdFrame {f : QueuedFrame} : (holdFrame f s).chan c = s.chan c :=
  (beside_holdFrame.2 (Beside.refl s)).chan c
@[simp] theorem store_holdFrame {f : QueuedFrame} : (holdFrame f s).store = s.store :=
  (beside_holdFrame.2 (Beside.refl s)).store
@[simp] theorem roster_holdFrame {f : QueuedFrame} : (holdFrame f s).roster = s.roster :=
  (beside_holdFrame.2 (Beside.refl s)).roster
@[simp] theorem watch_holdFrame {f : QueuedFrame} : (holdFrame f s).watch = s.watch :=
  (beside_holdFrame.2 (Beside.refl s)).watch
@[simp] theorem now_holdFrame {f : QueuedFrame} : (holdFrame f s).now = s.now :=
  (beside_holdFrame.2 (Beside.refl s)).now

@[simp] theorem chan_removeFrame {f : QueuedFrame} : (removeFrame f s).chan c = s.chan c :=
  (beside_removeFrame.2 (Beside.refl s)).chan c
@[simp] theorem store_removeFrame {f : QueuedFrame} : (removeFrame f s).store = s.store :=
  (beside_removeFrame.2 (Beside.refl s)).store
@[simp] theorem roster_removeFrame {f : QueuedFrame} : (removeFrame f s).roster = s.roster :=
  (beside_removeFrame.2 (Beside.refl s)).roster
@[simp] theorem watch_removeFrame {f : QueuedFrame} : (removeFrame f s).watch = s.watch :=
  (beside_removeFrame.2 (Beside.refl s)).watch
@[simp] theorem now_removeFrame {f : QueuedFrame} : (removeFrame f s).now = s.now :=
  (beside_removeFrame.2 (Beside.refl s)).now

@[simp] theorem chan_displaced {f : QueuedFrame} : (displaced f s).chan c = s.chan c :=
  (beside_displaced.2 (Beside.refl s)).chan c
@[simp] theorem store_displaced {f : QueuedFrame} : (displaced f s).store = s.store :=
  (beside_displaced.2 (Beside.refl s)).store
@[simp] theorem roster_displaced {f : QueuedFrame} : (displaced f s).roster = s.roster :=
  (beside_displaced.2 (Beside.refl s)).roster
@[simp] theorem watch_displaced {f : QueuedFrame} : (displaced f s).watch = s.watch :=
  (beside_displaced.2 (Beside.refl s)).watch
@[simp] theorem now_displaced {f : QueuedFrame} : (displaced f s).now = s.now :=
  (beside_displaced.2 (Beside.refl s)).now

@[simp] theorem chan_offerUrgent {b : FrameBody} {o : Option Channel} : (offerUrgent b o s).chan c = s.chan c :=
  (beside_offerUrgent.2 (Beside.refl s)).chan c
@[simp] theorem store_offerUrgent {b : FrameBody} {o : Option Channel} : (offerUrgent b o s).store = s.store :=
  (beside_offerUrgent.2 (Beside.refl s)).store
@[simp] theorem roster_offerUrgent {b : FrameBody} {o : Option Channel} : (offerUrgent b o s).roster = s.roster :=
  (beside_offerUrgent.2 (Beside.refl s)).roster
@[simp] theorem watch_offerUrgent {b : FrameBody} {o : Option Channel} : (offerUrgent b o s).watch = s.watch :=
  (beside_offerUrgent.2 (Beside.refl s)).watch
@[simp] theorem now_offerUrgent {b : FrameBody} {o : Option Channel} : (offerUrgent b o s).now = s.now :=
  (beside_offerUrgent.2 (Beside.refl s)).now

@[simp] theorem chan_offerNotice {b : FrameBody} : (offerNotice b s).chan c = s.chan c :=
  (beside_offerNotice.2 (Beside.refl s)).chan c
@[simp] theorem store_offerNotice {b : FrameBody} : (offerNotice b s).store = s.store :=
  (beside_offerNotice.2 (Beside.refl s)).store
@[simp] theorem roster_offerNotice {b : FrameBody} : (offerNotice b s).roster = s.roster :=
  (beside_offerNotice.2 (Beside.refl s)).roster
@[simp] theorem watch_offerNotice {b : FrameBody} : (offerNotice b s).watch = s.watch :=
  (beside_offerNotice.2 (Beside.refl s)).watch
@[simp] theorem now_offerNotice {b : FrameBody} : (offerNotice b s).now = s.now :=
  (beside_offerNotice.2 (Beside.refl s)).now

@[simp] theorem chan_removeIfQueued {f : Option QueuedFrame} : (removeIfQueued f s).chan c = s.chan c :=
  (beside_removeIfQueued.2 (Beside.refl s)).chan c
@[simp] theorem store_removeIfQueued {f : Option QueuedFrame} : (removeIfQueued f s).store = s.store :=
  (beside_removeIfQueued.2 (Beside.refl s)).store
@[simp] theorem roster_removeIfQueued {f : Option QueuedFrame} : (removeIfQueued f s).roster = s.roster :=
  (beside_removeIfQueued.2 (Beside.refl s)).roster
@[simp] theorem watch_removeIfQueued {f : Option QueuedFrame} : (removeIfQueued f s).watch = s.watch :=
  (beside_removeIfQueued.2 (Beside.refl s)).watch
@[simp] theorem now_removeIfQueued {f : Option QueuedFrame} : (removeIfQueued f s).now = s.now :=
  (beside_removeIfQueued.2 (Beside.refl s)).now

@[simp] theorem chan_queueTrunkNotice {t : Trunk} {out : Bool} : (queueTrunkNotice t out s).chan c = s.chan c :=
  (beside_queueTrunkNotice.2 (Beside.refl s)).chan c
@[simp] theorem store_queueTrunkNotice {t : Trunk} {out : Bool} : (queueTrunkNotice t out s).store = s.store :=
  (beside_queueTrunkNotice.2 (Beside.refl s)).store
@[simp] theorem roster_queueTrunkNotice {t : Trunk} {out : Bool} : (queueTrunkNotice t out s).roster = s.roster :=
  (beside_queueTrunkNotice.2 (Beside.refl s)).roster
@[simp] theorem watch_queueTrunkNotice {t : Trunk} {out : Bool} : (queueTrunkNotice t out s).watch = s.watch :=
  (beside_queueTrunkNotice.2 (Beside.refl s)).watch
@[simp] theorem now_queueTrunkNotice {t : Trunk} {out : Bool} : (queueTrunkNotice t out s).now = s.now :=
  (beside_queueTrunkNotice.2 (Beside.refl s)).now

@[simp] theorem chan_writeSessionEnd {d : Channel} {k : SessionEndCause} : (writeSessionEnd d k s).chan c = s.chan c :=
  (beside_writeSessionEnd.2 (Beside.refl s)).chan c
@[simp] theorem store_writeSessionEnd {d : Channel} {k : SessionEndCause} : (writeSessionEnd d k s).store = s.store :=
  (beside_writeSessionEnd.2 (Beside.refl s)).store
@[simp] theorem roster_writeSessionEnd {d : Channel} {k : SessionEndCause} : (writeSessionEnd d k s).roster = s.roster :=
  (beside_writeSessionEnd.2 (Beside.refl s)).roster
@[simp] theorem watch_writeSessionEnd {d : Channel} {k : SessionEndCause} : (writeSessionEnd d k s).watch = s.watch :=
  (beside_writeSessionEnd.2 (Beside.refl s)).watch
@[simp] theorem now_writeSessionEnd {d : Channel} {k : SessionEndCause} : (writeSessionEnd d k s).now = s.now :=
  (beside_writeSessionEnd.2 (Beside.refl s)).now

@[simp] theorem chan_report {o : ItemOutcome} : (report o s).chan c = s.chan c :=
  (beside_report.2 (Beside.refl s)).chan c
@[simp] theorem store_report {o : ItemOutcome} : (report o s).store = s.store :=
  (beside_report.2 (Beside.refl s)).store
@[simp] theorem roster_report {o : ItemOutcome} : (report o s).roster = s.roster :=
  (beside_report.2 (Beside.refl s)).roster
@[simp] theorem watch_report {o : ItemOutcome} : (report o s).watch = s.watch :=
  (beside_report.2 (Beside.refl s)).watch
@[simp] theorem now_report {o : ItemOutcome} : (report o s).now = s.now :=
  (beside_report.2 (Beside.refl s)).now

@[simp] theorem chan_reportMeasured {k : FaultClass} {d : Option Deciding} {n : Bool} : (reportMeasured k d n s).chan c = s.chan c :=
  (beside_reportMeasured.2 (Beside.refl s)).chan c
@[simp] theorem store_reportMeasured {k : FaultClass} {d : Option Deciding} {n : Bool} : (reportMeasured k d n s).store = s.store :=
  (beside_reportMeasured.2 (Beside.refl s)).store
@[simp] theorem roster_reportMeasured {k : FaultClass} {d : Option Deciding} {n : Bool} : (reportMeasured k d n s).roster = s.roster :=
  (beside_reportMeasured.2 (Beside.refl s)).roster
@[simp] theorem watch_reportMeasured {k : FaultClass} {d : Option Deciding} {n : Bool} : (reportMeasured k d n s).watch = s.watch :=
  (beside_reportMeasured.2 (Beside.refl s)).watch
@[simp] theorem now_reportMeasured {k : FaultClass} {d : Option Deciding} {n : Bool} : (reportMeasured k d n s).now = s.now :=
  (beside_reportMeasured.2 (Beside.refl s)).now

@[simp] theorem chan_itemEnds : (itemEnds s).chan c = s.chan c := (beside_itemEnds.2 (Beside.refl s)).chan c
@[simp] theorem store_itemEnds : (itemEnds s).store = s.store := (beside_itemEnds.2 (Beside.refl s)).store
@[simp] theorem roster_itemEnds : (itemEnds s).roster = s.roster :=
  (beside_itemEnds.2 (Beside.refl s)).roster
@[simp] theorem watch_itemEnds : (itemEnds s).watch = s.watch := (beside_itemEnds.2 (Beside.refl s)).watch
@[simp] theorem now_itemEnds : (itemEnds s).now = s.now := (beside_itemEnds.2 (Beside.refl s)).now

@[simp] theorem chan_dropItem : (dropItem s).chan c = s.chan c := (beside_dropItem.2 (Beside.refl s)).chan c
@[simp] theorem store_dropItem : (dropItem s).store = s.store := (beside_dropItem.2 (Beside.refl s)).store
@[simp] theorem roster_dropItem : (dropItem s).roster = s.roster :=
  (beside_dropItem.2 (Beside.refl s)).roster
@[simp] theorem watch_dropItem : (dropItem s).watch = s.watch := (beside_dropItem.2 (Beside.refl s)).watch
@[simp] theorem now_dropItem : (dropItem s).now = s.now := (beside_dropItem.2 (Beside.refl s)).now

@[simp] theorem chan_haltEngine : (haltEngine s).chan c = s.chan c :=
  (beside_haltEngine.2 (Beside.refl s)).chan c
@[simp] theorem store_haltEngine : (haltEngine s).store = s.store :=
  (beside_haltEngine.2 (Beside.refl s)).store
@[simp] theorem roster_haltEngine : (haltEngine s).roster = s.roster :=
  (beside_haltEngine.2 (Beside.refl s)).roster
@[simp] theorem watch_haltEngine : (haltEngine s).watch = s.watch :=
  (beside_haltEngine.2 (Beside.refl s)).watch
@[simp] theorem now_haltEngine : (haltEngine s).now = s.now := (beside_haltEngine.2 (Beside.refl s)).now

@[simp] theorem chan_freeze {k : FreezeCause} {l : Line} : (freeze k l s).chan c = s.chan c :=
  (beside_freeze.2 (Beside.refl s)).chan c
@[simp] theorem store_freeze {k : FreezeCause} {l : Line} : (freeze k l s).store = s.store :=
  (beside_freeze.2 (Beside.refl s)).store
@[simp] theorem roster_freeze {k : FreezeCause} {l : Line} : (freeze k l s).roster = s.roster :=
  (beside_freeze.2 (Beside.refl s)).roster
@[simp] theorem watch_freeze {k : FreezeCause} {l : Line} : (freeze k l s).watch = s.watch :=
  (beside_freeze.2 (Beside.refl s)).watch
@[simp] theorem now_freeze {k : FreezeCause} {l : Line} : (freeze k l s).now = s.now :=
  (beside_freeze.2 (Beside.refl s)).now

@[simp] theorem chan_emitLinkState : (emitLinkState s).chan c = s.chan c :=
  (beside_emitLinkState.2 (Beside.refl s)).chan c
@[simp] theorem store_emitLinkState : (emitLinkState s).store = s.store :=
  (beside_emitLinkState.2 (Beside.refl s)).store
@[simp] theorem roster_emitLinkState : (emitLinkState s).roster = s.roster :=
  (beside_emitLinkState.2 (Beside.refl s)).roster
@[simp] theorem watch_emitLinkState : (emitLinkState s).watch = s.watch :=
  (beside_emitLinkState.2 (Beside.refl s)).watch
@[simp] theorem now_emitLinkState : (emitLinkState s).now = s.now :=
  (beside_emitLinkState.2 (Beside.refl s)).now

@[simp] theorem chan_tellDropped {b : FrameBody} : (tellDropped b s).chan c = s.chan c :=
  (beside_tellDropped.2 (Beside.refl s)).chan c
@[simp] theorem store_tellDropped {b : FrameBody} : (tellDropped b s).store = s.store :=
  (beside_tellDropped.2 (Beside.refl s)).store
@[simp] theorem roster_tellDropped {b : FrameBody} : (tellDropped b s).roster = s.roster :=
  (beside_tellDropped.2 (Beside.refl s)).roster
@[simp] theorem watch_tellDropped {b : FrameBody} : (tellDropped b s).watch = s.watch :=
  (beside_tellDropped.2 (Beside.refl s)).watch
@[simp] theorem now_tellDropped {b : FrameBody} : (tellDropped b s).now = s.now :=
  (beside_tellDropped.2 (Beside.refl s)).now

end Fields

end Sys2Proof.Machine
end

section
/-! What the Quiet Unit leaves of the sessions (`SessionsKept`), and the pieces of the ends of sessions. -/

namespace Sys2Proof.Machine

/-! ### What the Quiet Unit leaves -/

/-- `s` agrees with `r` on the sessions with their relay sides, claims, commands and lines, and on the configuration,
the roster, the watch, the soft reset, the timer and the queue of steps: what lies between them touches quiets, clears
and measurements of the channels, and what lies beside the channels. -/
structure SessionsKept (r s : State) : Prop where
  session : ∀ c, (s.chan c).session = (r.chan c).session
  seq : ∀ c, (s.chan c).seq = (r.chan c).seq
  claim : ∀ c, (s.chan c).claim = (r.chan c).claim
  command : ∀ c, (s.chan c).command = (r.chan c).command
  pins : ∀ c, (s.chan c).pins = (r.chan c).pins
  store : s.store = r.store
  roster : s.roster = r.roster
  watch : s.watch = r.watch
  softReset : s.softReset = r.softReset
  now : s.now = r.now
  pending : s.pending = r.pending

namespace SessionsKept

variable {r s t : State}

theorem refl (s : State) : SessionsKept s s :=
  ⟨fun _ => rfl, fun _ => rfl, fun _ => rfl, fun _ => rfl, fun _ => rfl, rfl, rfl, rfl, rfl, rfl, rfl⟩

theorem trans (h : SessionsKept r s) (k : SessionsKept s t) : SessionsKept r t :=
  ⟨fun c => (k.session c).trans (h.session c), fun c => (k.seq c).trans (h.seq c),
    fun c => (k.claim c).trans (h.claim c), fun c => (k.command c).trans (h.command c),
    fun c => (k.pins c).trans (h.pins c), k.store.trans h.store, k.roster.trans h.roster, k.watch.trans h.watch,
    k.softReset.trans h.softReset, k.now.trans h.now, k.pending.trans h.pending⟩

theorem symm (h : SessionsKept r s) : SessionsKept s r :=
  ⟨fun c => (h.session c).symm, fun c => (h.seq c).symm, fun c => (h.claim c).symm, fun c => (h.command c).symm,
    fun c => (h.pins c).symm, h.store.symm, h.roster.symm, h.watch.symm, h.softReset.symm, h.now.symm,
    h.pending.symm⟩

theorem step_iff (h : SessionsKept s t) : SessionsKept r t ↔ SessionsKept r s :=
  ⟨fun k => k.trans h.symm, fun k => k.trans h⟩

end SessionsKept

/-- What stays beside the channels keeps the sessions. -/
theorem Beside.sessionsKept {r s : State} (h : Beside r s) : SessionsKept r s :=
  ⟨fun c => congrArg _ (h.chan c), fun c => congrArg _ (h.chan c), fun c => congrArg _ (h.chan c),
    fun c => congrArg _ (h.chan c), fun c => congrArg _ (h.chan c), h.store, h.roster, h.watch, h.softReset, h.now,
    h.pending⟩

section QuietUnit

variable {r s : State} {c : Channel}

@[simp] theorem kept_updQuiet {f : QuietRecord → QuietRecord} :
    SessionsKept r (s.updQuiet c f) ↔ SessionsKept r s :=
  SessionsKept.step_iff ⟨by simp, by simp, by simp, by simp, by simp, by simp, by simp, by simp, by simp, by simp, by simp⟩

@[simp] theorem kept_updClears {f : List OwedClear → List OwedClear} :
    SessionsKept r (s.updClears c f) ↔ SessionsKept r s :=
  SessionsKept.step_iff ⟨by simp, by simp, by simp, by simp, by simp, by simp, by simp, by simp, by simp, by simp, by simp⟩

@[simp] theorem kept_updEngine {f : EngineRecord → EngineRecord} :
    SessionsKept r (s.updEngine c f) ↔ SessionsKept r s :=
  SessionsKept.step_iff ⟨by simp, by simp, by simp, by simp, by simp, by simp, by simp, by simp, by simp, by simp, by simp⟩

@[simp] theorem kept_enqueue {b : QueuedBody} {o : Option Channel} : SessionsKept r (enqueue b o s) ↔ SessionsKept r s :=
  SessionsKept.step_iff (beside_enqueue.2 (Beside.refl s)).sessionsKept

@[simp] theorem kept_offerUrgent {b : FrameBody} {o : Option Channel} : SessionsKept r (offerUrgent b o s) ↔ SessionsKept r s :=
  SessionsKept.step_iff (beside_offerUrgent.2 (Beside.refl s)).sessionsKept

@[simp] theorem kept_removeFrame {f : QueuedFrame} : SessionsKept r (removeFrame f s) ↔ SessionsKept r s :=
  SessionsKept.step_iff (beside_removeFrame.2 (Beside.refl s)).sessionsKept

@[simp] theorem kept_removeIfQueued {f : Option QueuedFrame} : SessionsKept r (removeIfQueued f s) ↔ SessionsKept r s :=
  SessionsKept.step_iff (beside_removeIfQueued.2 (Beside.refl s)).sessionsKept

@[simp] theorem kept_emit {e : Event} : SessionsKept r (emit e s) ↔ SessionsKept r s :=
  SessionsKept.step_iff (beside_emit.2 (Beside.refl s)).sessionsKept

/-- An action over a list, each of whose steps keeps the sessions. -/
theorem kept_foldl {α : Type} {f : State → α → State} (hf : ∀ s a, SessionsKept r (f s a) ↔ SessionsKept r s) :
    ∀ (l : List α) (s : State), SessionsKept r (l.foldl f s) ↔ SessionsKept r s
  | [], _ => Iff.rfl
  | a :: l, s => (kept_foldl hf l (f s a)).trans (hf s a)

@[simp] theorem kept_queueQuiet {b : Block} : SessionsKept r (queueQuiet c b s) ↔ SessionsKept r s := by
  simp [queueQuiet]

@[simp] theorem kept_askQuiet {b : Block} : SessionsKept r (askQuiet c b s) ↔ SessionsKept r s := by
  simp [askQuiet]

@[simp] theorem kept_serveQuiet : SessionsKept r (serveQuiet c s) ↔ SessionsKept r s := by
  unfold serveQuiet
  repeat' split
  all_goals simp

@[simp] theorem kept_markNoisy : SessionsKept r (markNoisy c s) ↔ SessionsKept r s := by
  simp [markNoisy]

@[simp] theorem kept_joinWait {h : Holder} : SessionsKept r (joinWait c h s) ↔ SessionsKept r s := by
  simp [joinWait]

@[simp] theorem kept_sendRequest {x : Reading} : SessionsKept r (sendRequest c x s) ↔ SessionsKept r s := by
  simp [sendRequest]

@[simp] theorem kept_startRunning {n : Bool} : SessionsKept r (startRunning c n s) ↔ SessionsKept r s := by
  simp [startRunning]

@[simp] theorem kept_startIfSettled : SessionsKept r (startIfSettled c s) ↔ SessionsKept r s := by
  unfold startIfSettled
  dsimp only
  repeat' split
  all_goals simp

@[simp] theorem kept_leaveWait {h : Holder} : SessionsKept r (leaveWait c h s) ↔ SessionsKept r s := by
  simp [leaveWait]

@[simp] theorem kept_queueBusy {b : Block} {n : Station} :
    SessionsKept r (queueBusy c b n s) ↔ SessionsKept r s := by
  simp [queueBusy]

@[simp] theorem kept_releaseDisturbs : SessionsKept r (releaseDisturbs c s) ↔ SessionsKept r s := by
  unfold releaseDisturbs
  dsimp only
  repeat' split
  all_goals simp

@[simp] theorem kept_sequenceEnds : SessionsKept r (sequenceEnds c s) ↔ SessionsKept r s := by
  rw [sequenceEnds, kept_leaveWait, kept_foldl (fun _ _ => kept_offerUrgent), kept_updClears]

@[simp] theorem kept_endQuiet : SessionsKept r (endQuiet c s) ↔ SessionsKept r s := by
  unfold endQuiet
  repeat' split
  all_goals simp

@[simp] theorem kept_quietEndAsked : SessionsKept r (quietEndAsked c s) ↔ SessionsKept r s := by
  unfold quietEndAsked
  repeat' split
  all_goals simp

@[simp] theorem kept_abandonMeasurement : SessionsKept r (abandonMeasurement c s) ↔ SessionsKept r s := by
  unfold abandonMeasurement
  dsimp only
  repeat' split
  all_goals simp

@[simp] theorem kept_withdrawRequested {b : Block} :
    SessionsKept r (withdrawRequested c b s) ↔ SessionsKept r s := by
  unfold withdrawRequested
  dsimp only
  repeat' split
  all_goals simp

@[simp] theorem kept_limitRecord : SessionsKept r (limitRecord c s) ↔ SessionsKept r s := by
  unfold limitRecord
  repeat' split
  all_goals simp

@[simp] theorem kept_quietNotTaken {f : QueuedFrame} :
    SessionsKept r (quietNotTaken c f s) ↔ SessionsKept r s := by
  unfold quietNotTaken
  repeat' split
  all_goals simp

@[simp] theorem kept_quietDropped : SessionsKept r (quietDropped c s) ↔ SessionsKept r s := by
  simp [quietDropped]

@[simp] theorem kept_busyHeard {b : Block} {n : Station} :
    SessionsKept r (busyHeard c b n s) ↔ SessionsKept r s := by
  unfold busyHeard
  dsimp only
  repeat' split
  all_goals simp

@[simp] theorem kept_clearHeard {b : Block} {n : Station} :
    SessionsKept r (clearHeard c b n s) ↔ SessionsKept r s := by
  unfold clearHeard
  dsimp only
  repeat' split
  all_goals simp

@[simp] theorem kept_ownBusyTaken {b : Block} {n : Station} :
    SessionsKept r (ownBusyTaken c b n s) ↔ SessionsKept r s := by
  simp [ownBusyTaken]

@[simp] theorem kept_ownBusyDropped {b : Block} {n : Station} :
    SessionsKept r (ownBusyDropped c b n s) ↔ SessionsKept r s := by
  simp [ownBusyDropped]

@[simp] theorem kept_ownClearGone {b : Block} {n : Station} :
    SessionsKept r (ownClearGone c b n s) ↔ SessionsKept r s := by
  simp [ownClearGone]

@[simp] theorem kept_leaveWaits {n : Station} : SessionsKept r (leaveWaits n s) ↔ SessionsKept r s := by
  simp [leaveWaits]

end QuietUnit

section Fields

variable {s : State} (c d : Channel)

@[simp] theorem session_releaseDisturbs : ((releaseDisturbs c s).chan d).session = (s.chan d).session :=
  (kept_releaseDisturbs.2 (SessionsKept.refl s)).session d
@[simp] theorem seq_releaseDisturbs : ((releaseDisturbs c s).chan d).seq = (s.chan d).seq :=
  (kept_releaseDisturbs.2 (SessionsKept.refl s)).seq d
@[simp] theorem claim_releaseDisturbs : ((releaseDisturbs c s).chan d).claim = (s.chan d).claim :=
  (kept_releaseDisturbs.2 (SessionsKept.refl s)).claim d
@[simp] theorem command_releaseDisturbs : ((releaseDisturbs c s).chan d).command = (s.chan d).command :=
  (kept_releaseDisturbs.2 (SessionsKept.refl s)).command d
@[simp] theorem pins_releaseDisturbs : ((releaseDisturbs c s).chan d).pins = (s.chan d).pins :=
  (kept_releaseDisturbs.2 (SessionsKept.refl s)).pins d
@[simp] theorem store_releaseDisturbs : (releaseDisturbs c s).store = s.store :=
  (kept_releaseDisturbs.2 (SessionsKept.refl s)).store
@[simp] theorem roster_releaseDisturbs : (releaseDisturbs c s).roster = s.roster :=
  (kept_releaseDisturbs.2 (SessionsKept.refl s)).roster
@[simp] theorem watch_releaseDisturbs : (releaseDisturbs c s).watch = s.watch :=
  (kept_releaseDisturbs.2 (SessionsKept.refl s)).watch
@[simp] theorem now_releaseDisturbs : (releaseDisturbs c s).now = s.now :=
  (kept_releaseDisturbs.2 (SessionsKept.refl s)).now

@[simp] theorem session_sequenceEnds : ((sequenceEnds c s).chan d).session = (s.chan d).session :=
  (kept_sequenceEnds.2 (SessionsKept.refl s)).session d
@[simp] theorem seq_sequenceEnds : ((sequenceEnds c s).chan d).seq = (s.chan d).seq :=
  (kept_sequenceEnds.2 (SessionsKept.refl s)).seq d
@[simp] theorem claim_sequenceEnds : ((sequenceEnds c s).chan d).claim = (s.chan d).claim :=
  (kept_sequenceEnds.2 (SessionsKept.refl s)).claim d
@[simp] theorem command_sequenceEnds : ((sequenceEnds c s).chan d).command = (s.chan d).command :=
  (kept_sequenceEnds.2 (SessionsKept.refl s)).command d
@[simp] theorem pins_sequenceEnds : ((sequenceEnds c s).chan d).pins = (s.chan d).pins :=
  (kept_sequenceEnds.2 (SessionsKept.refl s)).pins d
@[simp] theorem store_sequenceEnds : (sequenceEnds c s).store = s.store :=
  (kept_sequenceEnds.2 (SessionsKept.refl s)).store
@[simp] theorem roster_sequenceEnds : (sequenceEnds c s).roster = s.roster :=
  (kept_sequenceEnds.2 (SessionsKept.refl s)).roster
@[simp] theorem watch_sequenceEnds : (sequenceEnds c s).watch = s.watch :=
  (kept_sequenceEnds.2 (SessionsKept.refl s)).watch
@[simp] theorem now_sequenceEnds : (sequenceEnds c s).now = s.now :=
  (kept_sequenceEnds.2 (SessionsKept.refl s)).now

@[simp] theorem session_quietEndAsked : ((quietEndAsked c s).chan d).session = (s.chan d).session :=
  (kept_quietEndAsked.2 (SessionsKept.refl s)).session d
@[simp] theorem seq_quietEndAsked : ((quietEndAsked c s).chan d).seq = (s.chan d).seq :=
  (kept_quietEndAsked.2 (SessionsKept.refl s)).seq d
@[simp] theorem claim_quietEndAsked : ((quietEndAsked c s).chan d).claim = (s.chan d).claim :=
  (kept_quietEndAsked.2 (SessionsKept.refl s)).claim d
@[simp] theorem command_quietEndAsked : ((quietEndAsked c s).chan d).command = (s.chan d).command :=
  (kept_quietEndAsked.2 (SessionsKept.refl s)).command d
@[simp] theorem pins_quietEndAsked : ((quietEndAsked c s).chan d).pins = (s.chan d).pins :=
  (kept_quietEndAsked.2 (SessionsKept.refl s)).pins d
@[simp] theorem store_quietEndAsked : (quietEndAsked c s).store = s.store :=
  (kept_quietEndAsked.2 (SessionsKept.refl s)).store
@[simp] theorem roster_quietEndAsked : (quietEndAsked c s).roster = s.roster :=
  (kept_quietEndAsked.2 (SessionsKept.refl s)).roster
@[simp] theorem watch_quietEndAsked : (quietEndAsked c s).watch = s.watch :=
  (kept_quietEndAsked.2 (SessionsKept.refl s)).watch
@[simp] theorem now_quietEndAsked : (quietEndAsked c s).now = s.now :=
  (kept_quietEndAsked.2 (SessionsKept.refl s)).now

@[simp] theorem session_abandonMeasurement : ((abandonMeasurement c s).chan d).session = (s.chan d).session :=
  (kept_abandonMeasurement.2 (SessionsKept.refl s)).session d
@[simp] theorem seq_abandonMeasurement : ((abandonMeasurement c s).chan d).seq = (s.chan d).seq :=
  (kept_abandonMeasurement.2 (SessionsKept.refl s)).seq d
@[simp] theorem claim_abandonMeasurement : ((abandonMeasurement c s).chan d).claim = (s.chan d).claim :=
  (kept_abandonMeasurement.2 (SessionsKept.refl s)).claim d
@[simp] theorem command_abandonMeasurement : ((abandonMeasurement c s).chan d).command = (s.chan d).command :=
  (kept_abandonMeasurement.2 (SessionsKept.refl s)).command d
@[simp] theorem pins_abandonMeasurement : ((abandonMeasurement c s).chan d).pins = (s.chan d).pins :=
  (kept_abandonMeasurement.2 (SessionsKept.refl s)).pins d
@[simp] theorem store_abandonMeasurement : (abandonMeasurement c s).store = s.store :=
  (kept_abandonMeasurement.2 (SessionsKept.refl s)).store
@[simp] theorem roster_abandonMeasurement : (abandonMeasurement c s).roster = s.roster :=
  (kept_abandonMeasurement.2 (SessionsKept.refl s)).roster
@[simp] theorem watch_abandonMeasurement : (abandonMeasurement c s).watch = s.watch :=
  (kept_abandonMeasurement.2 (SessionsKept.refl s)).watch
@[simp] theorem now_abandonMeasurement : (abandonMeasurement c s).now = s.now :=
  (kept_abandonMeasurement.2 (SessionsKept.refl s)).now

@[simp] theorem session_leaveWait {h : Holder} : ((leaveWait c h s).chan d).session = (s.chan d).session :=
  (kept_leaveWait.2 (SessionsKept.refl s)).session d
@[simp] theorem seq_leaveWait {h : Holder} : ((leaveWait c h s).chan d).seq = (s.chan d).seq :=
  (kept_leaveWait.2 (SessionsKept.refl s)).seq d
@[simp] theorem claim_leaveWait {h : Holder} : ((leaveWait c h s).chan d).claim = (s.chan d).claim :=
  (kept_leaveWait.2 (SessionsKept.refl s)).claim d
@[simp] theorem command_leaveWait {h : Holder} : ((leaveWait c h s).chan d).command = (s.chan d).command :=
  (kept_leaveWait.2 (SessionsKept.refl s)).command d
@[simp] theorem pins_leaveWait {h : Holder} : ((leaveWait c h s).chan d).pins = (s.chan d).pins :=
  (kept_leaveWait.2 (SessionsKept.refl s)).pins d
@[simp] theorem store_leaveWait {h : Holder} : (leaveWait c h s).store = s.store :=
  (kept_leaveWait.2 (SessionsKept.refl s)).store
@[simp] theorem roster_leaveWait {h : Holder} : (leaveWait c h s).roster = s.roster :=
  (kept_leaveWait.2 (SessionsKept.refl s)).roster
@[simp] theorem watch_leaveWait {h : Holder} : (leaveWait c h s).watch = s.watch :=
  (kept_leaveWait.2 (SessionsKept.refl s)).watch
@[simp] theorem now_leaveWait {h : Holder} : (leaveWait c h s).now = s.now :=
  (kept_leaveWait.2 (SessionsKept.refl s)).now

@[simp] theorem session_startIfSettled : ((startIfSettled c s).chan d).session = (s.chan d).session :=
  (kept_startIfSettled.2 (SessionsKept.refl s)).session d
@[simp] theorem seq_startIfSettled : ((startIfSettled c s).chan d).seq = (s.chan d).seq :=
  (kept_startIfSettled.2 (SessionsKept.refl s)).seq d
@[simp] theorem claim_startIfSettled : ((startIfSettled c s).chan d).claim = (s.chan d).claim :=
  (kept_startIfSettled.2 (SessionsKept.refl s)).claim d
@[simp] theorem command_startIfSettled : ((startIfSettled c s).chan d).command = (s.chan d).command :=
  (kept_startIfSettled.2 (SessionsKept.refl s)).command d
@[simp] theorem pins_startIfSettled : ((startIfSettled c s).chan d).pins = (s.chan d).pins :=
  (kept_startIfSettled.2 (SessionsKept.refl s)).pins d
@[simp] theorem store_startIfSettled : (startIfSettled c s).store = s.store :=
  (kept_startIfSettled.2 (SessionsKept.refl s)).store
@[simp] theorem roster_startIfSettled : (startIfSettled c s).roster = s.roster :=
  (kept_startIfSettled.2 (SessionsKept.refl s)).roster
@[simp] theorem watch_startIfSettled : (startIfSettled c s).watch = s.watch :=
  (kept_startIfSettled.2 (SessionsKept.refl s)).watch
@[simp] theorem now_startIfSettled : (startIfSettled c s).now = s.now :=
  (kept_startIfSettled.2 (SessionsKept.refl s)).now

@[simp] theorem session_serveQuiet : ((serveQuiet c s).chan d).session = (s.chan d).session :=
  (kept_serveQuiet.2 (SessionsKept.refl s)).session d
@[simp] theorem seq_serveQuiet : ((serveQuiet c s).chan d).seq = (s.chan d).seq :=
  (kept_serveQuiet.2 (SessionsKept.refl s)).seq d
@[simp] theorem claim_serveQuiet : ((serveQuiet c s).chan d).claim = (s.chan d).claim :=
  (kept_serveQuiet.2 (SessionsKept.refl s)).claim d
@[simp] theorem command_serveQuiet : ((serveQuiet c s).chan d).command = (s.chan d).command :=
  (kept_serveQuiet.2 (SessionsKept.refl s)).command d
@[simp] theorem pins_serveQuiet : ((serveQuiet c s).chan d).pins = (s.chan d).pins :=
  (kept_serveQuiet.2 (SessionsKept.refl s)).pins d
@[simp] theorem store_serveQuiet : (serveQuiet c s).store = s.store :=
  (kept_serveQuiet.2 (SessionsKept.refl s)).store
@[simp] theorem roster_serveQuiet : (serveQuiet c s).roster = s.roster :=
  (kept_serveQuiet.2 (SessionsKept.refl s)).roster
@[simp] theorem watch_serveQuiet : (serveQuiet c s).watch = s.watch :=
  (kept_serveQuiet.2 (SessionsKept.refl s)).watch
@[simp] theorem now_serveQuiet : (serveQuiet c s).now = s.now := (kept_serveQuiet.2 (SessionsKept.refl s)).now

end Fields

end Sys2Proof.Machine
end

section
/-! The commands of a session: ACCESS (O19, O20), RELEASE (O21), CANCEL (O22) and MEASURE (O23). -/

namespace Sys2Proof.Machine

/-! ### The checks of ACCESS -/

section Access

variable {s : State} {c : Channel} {l : Line} {force : Bool}

theorem takeAccess_on : takeAccess (some c) l force s = takeAccessOn c l force s := rfl

theorem takeAccessOn_notConfigured (h : s.store.configured = false) :
    takeAccessOn c l force s = (.notConfigured, s) := by
  rw [takeAccessOn, h]
  rfl

theorem takeAccessOn_busy (h : s.store.configured = true) (hb : s.busy c = true ∨ s.done c = true) :
    takeAccessOn c l force s = (.busy (some c), s) := by
  have htest : (s.busy c || s.done c) = true := (Bool.or_eq_true _ _).mpr hb
  rw [takeAccessOn, h, htest]
  rfl

/-- ACCESS on a channel that is neither BUSY nor DONE goes on to its session (R23). -/
theorem takeAccessOn_free (h : s.store.configured = true) (hb : s.busy c = false) (hd : s.done c = false) :
    takeAccessOn c l force s =
      if (s.chan c).session.state ≠ .idle then refuse (.channelInUse c) s
      else if s.store.autoChannel = some c ∧ s.auto.run ≠ .halted then refuse (.automaticChannel (some c)) s
      else
        match checkClaim s c l 0 with
        | .passes t =>
          (.accepted (.trunk t), (beginSession c .operator l t force none s).setCommand c (some .access))
        | k => refuse (claimRefusal s l k) s := by
  rw [takeAccessOn, h, hb, hd]
  rfl

/-- ACCESS on an idle channel that the engine does not work on is decided by the claim's checks (R23, R114). -/
theorem takeAccessOn_checked (h : s.store.configured = true) (hb : s.busy c = false) (hd : s.done c = false)
    (hidle : (s.chan c).session.state = .idle) (hauto : s.store.autoChannel = some c → s.auto.run = .halted) :
    takeAccessOn c l force s =
      match checkClaim s c l 0 with
      | .passes t =>
        (.accepted (.trunk t), (beginSession c .operator l t force none s).setCommand c (some .access))
      | k => refuse (claimRefusal s l k) s := by
  rw [takeAccessOn_free h hb hd, if_neg (not_not_intro hidle), if_neg fun hboth => hboth.2 (hauto hboth.1)]

/-- A check that the claim does not pass refuses the ACCESS with its answer and changes nothing. -/
theorem takeAccessOn_refused {k : ClaimCheck} (h : s.store.configured = true) (hb : s.busy c = false)
    (hd : s.done c = false) (hidle : (s.chan c).session.state = .idle)
    (hauto : s.store.autoChannel = some c → s.auto.run = .halted) (hcheck : checkClaim s c l 0 = k)
    (hk : ∀ t, k ≠ .passes t) : takeAccessOn c l force s = (claimRefusal s l k, s) := by
  rw [takeAccessOn_checked h hb hd hidle hauto, hcheck]
  cases k with
  | passes t => exact absurd rfl (hk t)
  | _ => rfl

end Access

/-! ### The checks of a claim (R114) -/

section Claim

variable {s : State} {c : Channel} {l : Line}

theorem lineHolder_none (h : ∀ p ∈ s.roster, ∀ x ∈ p.holdings, x.line ≠ l) : lineHolder s l = none := by
  rw [lineHolder, Option.map_eq_none_iff, List.find?_eq_none]
  intro p hp
  simpa using h p hp

/-- The station named for a held line is the first of the roster that lists it. -/
theorem lineHolder_first {pre post : List Peer} {p : Peer} (hs : s.roster = pre ++ p :: post)
    (hp : ∃ x ∈ p.holdings, x.line = l) (hpre : ∀ q ∈ pre, ∀ x ∈ q.holdings, x.line ≠ l) :
    lineHolder s l = some p.station := by
  have hfind : s.roster.find? (fun q => q.holdings.any (·.line == l)) = some p := by
    rw [List.find?_eq_some_iff_append]
    refine ⟨?_, pre, post, hs, fun q hq => ?_⟩
    · simpa using hp
    · simpa using hpre q hq
  rw [lineHolder, hfind]
  rfl

theorem claimHolder_station {n : Station} (h : lineHolder s l = some n) :
    claimHolder s c l = some (.station n) := by
  rw [claimHolder, h]

theorem claimHolder_own (h : lineHolder s l = none) (hstate : (s.chan c.other).session.state ≠ .idle)
    (hline : (s.chan c.other).session.line = l) : claimHolder s c l = some .own := by
  rw [claimHolder, h]
  exact if_pos ⟨hstate, hline⟩

theorem claimHolder_none (h : lineHolder s l = none)
    (hother : (s.chan c.other).session.state = .idle ∨ (s.chan c.other).session.line ≠ l) :
    claimHolder s c l = none := by
  rw [claimHolder, h]
  refine if_neg fun hboth => ?_
  rcases hother with hidle | hline
  · exact hboth.1 hidle
  · exact hline hboth.2

theorem checkClaim_linkDown {n : Nat} (h : s.link.state ≠ .active) : checkClaim s c l n = .linkDown := if_pos h

theorem checkClaim_lineHeld {n : Nat} {k : Holder} (h : s.link.state = .active) (hk : claimHolder s c l = some k) :
    checkClaim s c l n = .lineHeld k := by
  rw [checkClaim, if_neg (not_not_intro h), hk]

theorem checkClaim_route {n : Nat} (h : s.link.state = .active) (hk : claimHolder s c l = none) :
    checkClaim s c l n =
      match chooseRoute s l with
      | .noRoute => .noRoute
      | .noTrunk => .noTrunk
      | .trunk t => if s.link.roomLow n then .passes t else .linkBusy := by
  rw [checkClaim, if_neg (not_not_intro h), hk] <;> rfl

theorem roomLow_zero_iff (k : Link) :
    k.roomLow 0 = true ↔ lowCount k.queue < 8 ∧ k.queue.length < 12 ∧ k.waiting = [] := by
  simp [Link.roomLow, Config.lowSlots, Config.queueSlots, and_assoc]

theorem roomLow_zero_false {k : Link} (h : 8 ≤ lowCount k.queue ∨ 12 ≤ k.queue.length ∨ k.waiting ≠ []) :
    k.roomLow 0 = false := by
  rw [← Bool.not_eq_true, roomLow_zero_iff]
  rintro ⟨hlow, hslots, hwaiting⟩
  rcases h with h | h | h
  · omega
  · omega
  · exact h hwaiting

end Claim

/-- Settles O19: the checks of `takeAccessOn` and of `checkClaim`, one after another. -/
theorem accessIsRefusedByItsFirstFailedCheck : Obligations.AccessIsRefusedByItsFirstFailedCheck := by
  intro s l force hphase
  refine ⟨answers_of_take (take := takeAccess none l force) hphase rfl rfl, fun c => ?_⟩
  have hanswer : ∀ {a : Answer}, takeAccessOn c l force s = (a, s) → Answers (.access (some c) l force) s a s :=
    fun h => answers_of_take (take := takeAccess (some c) l force) hphase rfl h
  refine ⟨fun h => hanswer (takeAccessOn_notConfigured h), fun h => ⟨fun hb => hanswer (takeAccessOn_busy h hb),
    fun hb hd => ⟨fun hsession => ?_, fun hidle => ⟨fun hchannel hrun => ?_, fun hauto => ?_⟩⟩⟩⟩
  · exact hanswer ((takeAccessOn_free h hb hd).trans (if_pos hsession))
  · exact hanswer ((takeAccessOn_free h hb hd).trans
      ((if_neg (not_not_intro hidle)).trans (if_pos ⟨hchannel, hrun⟩)))
  · have hrefused : ∀ {k : ClaimCheck}, checkClaim s c l 0 = k → (∀ t, k ≠ .passes t) →
        Answers (.access (some c) l force) s (claimRefusal s l k) s :=
      fun hcheck hk => hanswer (takeAccessOn_refused h hb hd hidle hauto hcheck hk)
    refine ⟨fun hdown => hrefused (checkClaim_linkDown hdown) nofun, fun hactive => ⟨?_, fun hview => ⟨?_, ?_⟩⟩⟩
    · intro pre p post hroster hp hpre
      exact hrefused (checkClaim_lineHeld hactive (claimHolder_station (lineHolder_first hroster hp hpre))) nofun
    · intro hstate hline
      exact hrefused (checkClaim_lineHeld hactive (claimHolder_own (lineHolder_none hview) hstate hline)) nofun
    · intro hother
      have hroute := checkClaim_route (n := 0) hactive (claimHolder_none (lineHolder_none hview) hother)
      refine ⟨fun hr => ?_, fun hr => ?_, fun t hr hroom => ?_⟩
      · rw [hr] at hroute
        exact hrefused hroute nofun
      · rw [hr] at hroute
        exact hrefused hroute nofun
      · rw [hr] at hroute
        exact hrefused (hroute.trans (if_neg (Bool.not_eq_true _ ▸ roomLow_zero_false hroom))) nofun

/-! ### The session begins -/

theorem busy_of_command {s : State} {c : Channel} {k : ChannelCommand} (h : (s.chan c).command = some k) :
    s.busy c = true := by
  rw [State.busy, h]
  rfl

/-- Settles O20: every check passes, and `beginSession` changes what it names. -/
theorem accessBeginsTheSession : Obligations.AccessBeginsTheSession := by
  intro s c l force t hphase h hb hd hidle hauto hactive hview hother hroute hlow hslots hwaiting
  have hcheck : checkClaim s c l 0 = .passes t := by
    rw [checkClaim_route hactive (claimHolder_none (lineHolder_none hview) hother), hroute]
    exact if_pos ((roomLow_zero_iff _).2 ⟨hlow, hslots, hwaiting⟩)
  refine ⟨(beginSession c .operator l t force none s).setCommand c (some .access),
    answers_of_take (take := takeAccess (some c) l force) hphase rfl ?_, ?_⟩
  · rw [takeAccess_on, takeAccessOn_checked h hb hd hidle hauto, hcheck]
  · refine ⟨?_, ?_, ?_, busy_of_command (k := .access) ?_, ?_, ?_, ?_, ?_, ?_, ?_, ?_, ?_, ?_, ?_, ?_, ?_⟩ <;>
      simp [beginSession, enqueue, newFrame, queuedUrgency, urgencyOf]

end Sys2Proof.Machine
end

section
/-! RELEASE (O21), CANCEL (O22) and MEASURE (O23): a session's commands after ACCESS. -/

namespace Sys2Proof.Machine

section Frames

variable {s : State} (c d : Channel)

theorem operateTime_of_store {s t : State} (h : t.store = s.store) (b : Block) : t.operateTime b = s.operateTime b := by
  rw [State.operateTime, State.operateTime, State.blockEntry, State.blockEntry, h]

theorem setupTime_of_store {s t : State} (h : t.store = s.store) (b : Block) : t.setupTime b = s.setupTime b := by
  rw [State.setupTime, State.setupTime, State.blockEntry, State.blockEntry, h]

theorem guardTime_of_store {s t : State} (h : t.store = s.store) (b : Block) : t.guardTime b = s.guardTime b := by
  rw [State.guardTime, State.guardTime, State.blockEntry, State.blockEntry, h]

theorem quietHolder_of_roster {s t : State} (h : t.roster = s.roster) (b : Block) : quietHolder t b = quietHolder s b := by
  rw [quietHolder, quietHolder, h]

/-- A session that releases meets the other channel's quiet alone, where no station has quieted its block: as an entry
of a wait list, a mark, or not at all (R134, R136, R138). -/
theorem releaseDisturbs_unquieted (h : quietHolder s (s.chan c).session.block = none) :
    releaseDisturbs c s = s ∨ releaseDisturbs c s = joinWait c.other .own s ∨
      releaseDisturbs c s = markNoisy c.other s := by
  rw [releaseDisturbs, h]
  dsimp only
  repeat' split
  all_goals simp

@[simp] theorem engine_queueBusy {b : Block} {n : Station} : ((queueBusy c b n s).chan d).engine = (s.chan d).engine := by
  simp [queueBusy]

@[simp] theorem engine_joinWait {h : Holder} : ((joinWait c h s).chan d).engine = (s.chan d).engine := by
  simp [joinWait]

theorem engine_releaseDisturbs : ((releaseDisturbs c s).chan c).engine = (s.chan c).engine := by
  unfold releaseDisturbs
  dsimp only
  repeat' split
  all_goals simp [markNoisy]

end Frames

/-! ### RELEASE -/

section Release

variable {s : State} {c : Channel}

theorem firstRelease_some (n : Nat) :
    firstRelease (some n) = some (if n = 5 then .cutOff else if 3 ≤ n then .testRelay else .selector) := by
  rw [firstRelease]
  split_ifs <;> rfl

/-- A session that has driven a relay releases from the step it has reached (R31). -/
theorem enterReleasing_driven {n : Nat} (h : (s.chan c).session.relayStep = some n) :
    enterReleasing c s = giveRelease c (if n = 5 then .cutOff else if 3 ≤ n then .testRelay else .selector)
      (releaseDisturbs c (s.updSession c fun x => { x with state := .releasing })) := by
  rw [enterReleasing, h, firstRelease_some]

theorem enterReleasing_undriven (h : (s.chan c).session.relayStep = none) : enterReleasing c s = enterClosing c s := by
  rw [enterReleasing, h]
  rfl

theorem isAutomatic_iff (x : Session) : x.isAutomatic = true ↔ x.state ≠ .idle ∧ x.purpose ≠ .operator := by
  rw [Session.isAutomatic]
  cases x.purpose <;> simp [Purpose.automatic]

theorem isAutomatic_false {x : Session} (h : x.purpose = .operator) : x.isAutomatic = false := by
  rw [← Bool.not_eq_true, isAutomatic_iff]
  exact fun hboth => hboth.2 h

theorem takeReleaseCommand_idle (h : (s.chan c).session.state = .idle) :
    takeReleaseCommand (some c) s = (.noSession c, s) := if_pos h

theorem takeReleaseCommand_automatic (h : (s.chan c).session.state ≠ .idle)
    (hp : (s.chan c).session.purpose ≠ .operator) :
    takeReleaseCommand (some c) s = (.automaticChannel s.store.autoChannel, s) :=
  (if_neg h).trans (if_pos ((isAutomatic_iff _).2 ⟨h, hp⟩))

/-- RELEASE of an operator session is decided by BUSY, DONE and the state (R35). -/
theorem takeReleaseCommand_operator (h : (s.chan c).session.state ≠ .idle)
    (hp : (s.chan c).session.purpose = .operator) :
    takeReleaseCommand (some c) s =
      if s.busy c || s.done c then refuse (.busy (some c)) s
      else if (s.chan c).session.state ≠ .connected then refuse .wrongState s
      else accepted (enterReleasing c
        ((s.setCommand c (some .release)).updSession c fun x => { x with relayStep := some 5 })) :=
  (if_neg h).trans (if_neg (Bool.not_eq_true _ ▸ isAutomatic_false hp))

end Release

/-- Settles O21: the checks one after another; the state after them through `enterReleasing_driven`. -/
theorem releaseBeginsTheReleaseSequence : Obligations.ReleaseBeginsTheReleaseSequence := by
  intro s hphase
  refine ⟨answers_of_take (take := takeReleaseCommand none) hphase rfl rfl, fun c => ?_⟩
  have hanswer : ∀ {a : Answer} {u : State}, takeReleaseCommand (some c) s = (a, u) →
      Answers (.release (some c)) s a u := fun h => answers_of_take hphase rfl h
  refine ⟨fun h => hanswer (takeReleaseCommand_idle h), fun h => ⟨fun hp => hanswer (takeReleaseCommand_automatic h hp),
    fun hp => ⟨fun hb => ?_, fun hb hd => ⟨fun hstate => ?_, fun hstate => ?_⟩⟩⟩⟩
  · exact hanswer ((takeReleaseCommand_operator h hp).trans (if_pos (by simpa using hb)))
  · exact hanswer ((takeReleaseCommand_operator h hp).trans ((if_neg (by simp [hb, hd])).trans (if_pos hstate)))
  · have htake := (takeReleaseCommand_operator h hp).trans
      ((if_neg (by simp [hb, hd])).trans (if_neg (not_not_intro hstate)))
    rw [enterReleasing_driven (n := 5) (by simp)] at htake
    refine ⟨_, hanswer htake, ?_, busy_of_command (k := .release) ?_, ?_, ?_, ?_, ?_, fun hquiet => ?_, ?_, ?_, ?_, ?_, ?_⟩
    · simp [giveRelease]
    · simp [giveRelease]
    · simp [giveRelease]
    · simp [giveRelease]
    · simp [giveRelease, operateTime_of_store (s := s) (t := releaseDisturbs c _)]
    · simp [giveRelease, releasedDrives]
    · rcases releaseDisturbs_unquieted (c := c) (s := ((s.setCommand c (some .release)).updSession c fun x =>
          { x with relayStep := some 5 }).updSession c fun x => { x with state := .releasing })
          (by rw [quietHolder_of_roster (s := s) (by simp)]; simpa using hquiet) with hr | hr | hr <;>
        simp [giveRelease, hr, joinWait, markNoisy]
    all_goals simp [giveRelease, engine_releaseDisturbs]

/-! ### CANCEL -/

section Cancel

variable {s : State} {c : Channel}

theorem done_of_port {s t : State} (h : t.port = s.port) (c : Channel) : t.done c = s.done c := by
  rw [State.done, State.done, h]

@[simp] theorem port_clearSession : (clearSession c s).port = s.port := by simp [clearSession]
@[simp] theorem link_clearSession : (clearSession c s).link = s.link := by simp [clearSession]
@[simp] theorem store_clearSession : (clearSession c s).store = s.store := by simp [clearSession]
@[simp] theorem roster_clearSession : (clearSession c s).roster = s.roster := by simp [clearSession]
@[simp] theorem ticketStore_clearSession : (clearSession c s).ticketStore = s.ticketStore := by simp [clearSession]
@[simp] theorem auto_clearSession : (clearSession c s).auto = s.auto := by simp [clearSession]
@[simp] theorem command_clearSession (d : Channel) : ((clearSession c s).chan d).command = (s.chan d).command := by
  simp [clearSession]
@[simp] theorem session_clearSession : ((clearSession c s).chan c).session = idleSession (s.chan c).session := by
  simp [clearSession]
@[simp] theorem seq_clearSession : ((clearSession c s).chan c).seq = idleSequencer (s.chan c).seq := by
  simp [clearSession]
@[simp] theorem claim_clearSession : ((clearSession c s).chan c).claim = .initial := by
  simp [clearSession]
@[simp] theorem chan_other_clearSession : (clearSession c s).chan c.other = s.chan c.other := by
  simp [clearSession]

@[simp] theorem port_removeFrame {f : QueuedFrame} : (removeFrame f s).port = s.port := by
  unfold removeFrame
  split <;> simp [lowFrameLeft]
@[simp] theorem ticketStore_removeFrame {f : QueuedFrame} : (removeFrame f s).ticketStore = s.ticketStore := by
  unfold removeFrame
  split <;> simp [lowFrameLeft]
@[simp] theorem link_removeFrame {f : QueuedFrame} :
    (removeFrame f s).link = { s.link with queue := s.link.queue.filter (·.entry != f.entry) } := by
  unfold removeFrame
  split <;> simp [lowFrameLeft]

theorem removeIfQueued_some (f : QueuedFrame) : removeIfQueued (some f) s = removeFrame f s := rfl

/-- An operator session that ends with its ACCESS pending completes the ACCESS (R38). -/
theorem finishSession_access {o : ChannelOutcome} {n : Option Station} (hp : (s.chan c).session.purpose = .operator)
    (hcmd : (s.chan c).command = some .access) : finishSession c o n s =
      complete c (completionOf .accessDone (s.chan c).session (.channel o) n) (clearSession c s) := by
  have hauto : ¬((s.chan c).session.purpose.automatic = true) := by
    rw [hp]
    exact Bool.false_ne_true
  rw [finishSession, if_neg hauto]
  simp only [reportEnd, command_clearSession, hcmd]

theorem takeCancel_none : takeCancel none s = (.badArgument 1, s) := rfl

theorem takeCancel_automatic (h : (s.chan c).session.isAutomatic = true) :
    takeCancel (some c) s = (.automaticChannel s.store.autoChannel, s) := if_pos h

theorem takeCancel_nothing (h : (s.chan c).session.isAutomatic = false) (hcmd : (s.chan c).command = none) :
    takeCancel (some c) s = (.wrongState, s) := by
  rw [takeCancel, h, hcmd]
  rfl

theorem takeCancel_command {k : ChannelCommand} (h : (s.chan c).session.isAutomatic = false)
    (hcmd : (s.chan c).command = some k) : takeCancel (some c) s = (.accepted .nothing, cancelCommand c k s) := by
  rw [takeCancel, h, hcmd]
  rfl

theorem cancelCommand_fixed (h : (s.chan c).seq.outcome.isSome = true) : cancelCommand c .access s = s := if_pos h

theorem cancelCommand_open (h : (s.chan c).seq.outcome = none) : cancelCommand c .access s = cancelSession c s :=
  if_neg (by simp [h])

/-- CANCEL in CLAIMING: on the wire it leaves cancel pending, off it the session ends (R37). -/
theorem cancelSession_claiming (h : (s.chan c).session.state = .claiming) : cancelSession c s =
    if frameOnWire s.link (s.link.claimFrame c) then
      (fixSession c .cancelled s).updSession c fun x => { x with cancelPending := true }
    else finishSession c .cancelled none (removeIfQueued (s.link.claimFrame c) (fixSession c .cancelled s)) := by
  rw [cancelSession, h]
  simp [fixSession]

/-- CANCEL of a session that holds its pair reverses it (R36). -/
theorem cancelSession_active (h : (s.chan c).session.state.active = true) :
    cancelSession c s = reverseSession c (fixSession c .cancelled s) := by
  rw [cancelSession]
  split
  · next hclaiming =>
      rw [hclaiming] at h
      exact absurd h (by decide)
  · exact if_pos h

@[simp] theorem session_fixSession (d : Channel) (o : ChannelOutcome) :
    ((fixSession c o s).chan d).session = (s.chan d).session := by simp [fixSession]

@[simp] theorem session_enterClosing : ((enterClosing c s).chan c).session = { (s.chan c).session with state := .closing } := by
  simp [enterClosing]

@[simp] theorem seq_enterClosing :
    ((enterClosing c s).chan c).seq = { (s.chan c).seq with waitEnd := none, releasing := none } := by
  simp [enterClosing]

@[simp] theorem command_enterClosing (d : Channel) : ((enterClosing c s).chan d).command = (s.chan d).command := by
  simp [enterClosing]

/-- A session reversed before it has driven a relay goes to CLOSING (R36). -/
theorem reverseSession_undriven (h : (s.chan c).session.state = .claimed ∨
    ((s.chan c).session.state = .deferred ∧ (s.chan c).session.relayStep = none)) :
    reverseSession c s = enterClosing c s := by
  rcases h with hclaimed | ⟨hdeferred, hstep⟩
  · rw [reverseSession, hclaimed]
  · rw [reverseSession, hdeferred]
    exact enterReleasing_undriven hstep

@[simp] theorem session_abandonOperate (d : Channel) :
    ((abandonOperate c s).chan d).session = (s.chan d).session := by simp [abandonOperate]

@[simp] theorem command_abandonOperate (d : Channel) :
    ((abandonOperate c s).chan d).command = (s.chan d).command := by simp [abandonOperate]

@[simp] theorem outcome_abandonOperate : ((abandonOperate c s).chan c).seq.outcome = (s.chan c).seq.outcome := by
  simp [abandonOperate]

/-- A session reversed in CONNECTING or DEFERRED releases, an operate step under way abandoned (R28, R36). -/
theorem reverseSession_driven (h : (s.chan c).session.state = .connecting ∨ (s.chan c).session.state = .deferred) :
    ∃ v, reverseSession c s = enterReleasing c v ∧ (v.chan c).session = (s.chan c).session ∧
      (v.chan c).seq.outcome = (s.chan c).seq.outcome ∧ (v.chan c).command = (s.chan c).command := by
  rcases h with h | h
  · exact ⟨abandonOperate c s, by rw [reverseSession, h], by simp, by simp, by simp⟩
  · exact ⟨s, by rw [reverseSession, h], rfl, rfl, rfl⟩

/-- A session that has driven a relay goes to RELEASING from the step it has reached (R31, R36). -/
theorem releasing_of_driven {n : Nat} (h : (s.chan c).session.relayStep = some n) :
    ((enterReleasing c s).chan c).session = { (s.chan c).session with state := .releasing } ∧
    ((enterReleasing c s).chan c).seq.outcome = (s.chan c).seq.outcome ∧
    ((enterReleasing c s).chan c).command = (s.chan c).command ∧
    ((enterReleasing c s).chan c).seq.releasing =
      some (if n = 5 then .cutOff else if 3 ≤ n then .testRelay else .selector) := by
  rw [enterReleasing_driven h]
  simp [giveRelease]

end Cancel

/-- Settles O22: the checks one after another, then the state the session has reached. -/
theorem cancelReversesTheAccess : Obligations.CancelReversesTheAccess := by
  intro s hphase
  refine ⟨answers_of_take (take := takeCancel none) hphase rfl takeCancel_none, fun c => ?_⟩
  have hanswer : ∀ {a : Answer} {u : State}, takeCancel (some c) s = (a, u) → Answers (.cancel (some c)) s a u :=
    fun h => answers_of_take hphase rfl h
  refine ⟨fun h => hanswer (takeCancel_automatic h), fun h => ⟨fun hcmd => hanswer (takeCancel_nothing h hcmd),
    fun hcmd => hanswer (takeCancel_command h hcmd), fun hcmd => ⟨fun hfixed => ?_, fun hopen => ?_⟩⟩⟩
  · exact hanswer ((takeCancel_command h hcmd).trans (by rw [cancelCommand_fixed hfixed]))
  have htake := takeCancel_command h hcmd
  rw [cancelCommand_open hopen] at htake
  refine ⟨fun f hstate hp hf hwire hd => ?_, fun f hstate hf hwire => ?_, fun hstate => ?_, fun n hstate hstep => ?_⟩
  · rw [cancelSession_claiming hstate, if_neg (by simp [frameOnWire, hf, hwire]), hf, removeIfQueued_some,
      finishSession_access (by simpa using hp) (by simpa [fixSession] using hcmd), complete_of_free (by
        rw [done_of_port (s := s) (by simp [fixSession])]
        exact hd)] at htake
    refine ⟨_, hanswer htake, ?_, ?_, ?_, ?_, ?_⟩
    · simp [idleSession]
    · simp [ClaimRecord.initial]
    · simp [State.busy, Session.isAutomatic, idleSession]
    · simp [enterEvent, fixSession]
    · simp [enterEvent, completionOf, fixSession]
  · rw [cancelSession_claiming hstate, if_pos (by simp [frameOnWire, hf, hwire])] at htake
    exact ⟨_, hanswer htake, by simp, by simp [fixSession, hcmd], by simp [fixSession], by simp [fixSession]⟩
  · have hactive : (s.chan c).session.state.active = true := by
      rcases hstate with hclaimed | ⟨hdeferred, -⟩
      · rw [hclaimed]; rfl
      · rw [hdeferred]; rfl
    rw [cancelSession_active hactive, reverseSession_undriven (by simpa using hstate)] at htake
    exact ⟨_, hanswer htake, by simp, by simp [fixSession, hopen], by simp [fixSession, hcmd], by simp [fixSession]⟩
  · have hactive : (s.chan c).session.state.active = true := by
      rcases hstate with h | h <;> rw [h] <;> rfl
    rw [cancelSession_active hactive] at htake
    obtain ⟨v, hv, hsession, houtcome, hcommand⟩ := reverseSession_driven (c := c) (s := fixSession c .cancelled s)
      (by simpa using hstate)
    rw [hv] at htake
    obtain ⟨hs, ho, hk, hr⟩ := releasing_of_driven (c := c) (s := v) (n := n) (by simpa [hsession] using hstep)
    exact ⟨_, hanswer htake, by simp [hs, hsession], by simp [ho, houtcome, fixSession, hopen],
      by simp [hk, hcommand, fixSession, hcmd], hr⟩

/-! ### MEASURE -/

section Measure

variable {s : State} {c : Channel} {g : StageSet} {n : SampleArg} {ticket : Bool}

theorem takeMeasure_none : takeMeasure none g n ticket s = (.badArgument 1, s) := rfl

theorem takeMeasure_noStage (h : g.isEmpty = true) : takeMeasure (some c) g n ticket s = (.badArgument 2, s) :=
  if_pos h

theorem takeMeasure_idle (h : g.isEmpty = false) (hidle : (s.chan c).session.state = .idle) :
    takeMeasure (some c) g n ticket s = (.noSession c, s) :=
  (if_neg (Bool.not_eq_true _ ▸ h)).trans (if_pos hidle)

theorem takeMeasure_automatic (h : g.isEmpty = false) (hidle : (s.chan c).session.state ≠ .idle)
    (hp : (s.chan c).session.purpose ≠ .operator) :
    takeMeasure (some c) g n ticket s = (.automaticChannel s.store.autoChannel, s) :=
  (if_neg (Bool.not_eq_true _ ▸ h)).trans ((if_neg hidle).trans (if_pos ((isAutomatic_iff _).2 ⟨hidle, hp⟩)))

/-- MEASURE in an operator session is decided by BUSY, DONE and the state (R48). -/
theorem takeMeasure_operator (h : g.isEmpty = false) (hidle : (s.chan c).session.state ≠ .idle)
    (hp : (s.chan c).session.purpose = .operator) : takeMeasure (some c) g n ticket s =
      if s.busy c || s.done c then refuse (.busy (some c)) s
      else if (s.chan c).session.state ≠ .connected then refuse .wrongState s
      else
        (.accepted (.sampleCount (s.samplesUsed n)),
          (startMeasurement c g (s.samplesUsed n) ticket s).setCommand c (some .measure)) :=
  (if_neg (Bool.not_eq_true _ ▸ h)).trans
    ((if_neg hidle).trans (if_neg (Bool.not_eq_true _ ▸ isAutomatic_false hp)))

theorem samplesUsed_eq (n : SampleArg) :
    s.samplesUsed n = max 4 (min 64 (if n.val = 0 then s.store.thresholds.sampleCount else n.val)) := rfl

/-- The engine as a measurement of a stage set is accepted, before its first request (R49). -/
def acceptedEngine (c : Channel) (g : StageSet) (n : Nat) (ticket : Bool) (s : State) : EngineRecord :=
  { EngineRecord.initial with
    phase := .quietWait
    ticketFlag := ticket
    copies := some (copiesFor s (s.chan c).session.block (s.chan c).session.trunk)
    record := some (freshRecord g n) }

/-- The engine as a measurement that needs no quiet starts: RUNNING, its first request sent (R49, R51). -/
def runningEngine (c : Channel) (g : StageSet) (n : Nat) (ticket : Bool) (s : State) : EngineRecord :=
  { acceptedEngine c g n ticket s with
    phase := .running
    request := (firstReading g).map (requestFor (freshRecord g n) s.now) }

theorem engine_startMeasurement {n : Nat} : ((startMeasurement c g n ticket s).chan c).engine =
    if needsQuiet g then acceptedEngine c g n ticket s else runningEngine c g n ticket s := by
  unfold startMeasurement
  cases needsQuiet g <;> simp [askQuiet, startRunning, acceptedEngine, runningEngine, freshRecord, EngineRecord.initial]

@[simp] theorem session_startMeasurement {n : Nat} : ((startMeasurement c g n ticket s).chan c).session =
    { (s.chan c).session with state := .measuring } := by
  unfold startMeasurement
  cases needsQuiet g <;> simp [askQuiet, startRunning]

/-- A measurement that needs quiet on a block with no record asks for it: PENDING, with its limit time (R129). -/
theorem quiet_startMeasurement {n : Nat} : ((startMeasurement c g n ticket s).chan c).quiet =
    if needsQuiet g then ((askQuiet c (s.chan c).session.block s).chan c).quiet else (s.chan c).quiet := by
  unfold startMeasurement
  cases needsQuiet g <;> simp [askQuiet, startRunning]

/-- A measurement starts with its own channel's records, and nothing else. -/
theorem startMeasurement_frame {n : Nat} : (startMeasurement c g n ticket s).chan c.other = s.chan c.other ∧
    (startMeasurement c g n ticket s).link = s.link ∧ (startMeasurement c g n ticket s).store = s.store ∧
    (startMeasurement c g n ticket s).port = s.port := by
  unfold startMeasurement
  cases needsQuiet g <;> simp [askQuiet, startRunning]

/-- The first request of a measurement without quiet: the FV of T-G, or the HIGH range of T-R (R51, R52, R56). -/
theorem firstReading_unquieted (h : g.isEmpty = false) (hq : needsQuiet g = false) :
    firstReading g = some (if g.fv then .fv .tg else .range .tr .high) := by
  simp only [needsQuiet, Bool.or_eq_false_iff] at hq
  obtain ⟨⟨hcap, hTG⟩, hRG⟩ := hq
  rw [StageSet.isEmpty, hcap, hTG, hRG] at h
  rw [firstReading, readingFromCap, hcap]
  cases hfv : g.fv with
  | true => rfl
  | false =>
    have hTR : g.resTR = true := by simpa [hfv] using h
    rw [readingFromTR, hTR]
    rfl

end Measure

/-- Settles O23: the checks one after another; what MEASURE starts by the lemmas about `startMeasurement`. -/
theorem measureIsCheckedAndStarts : Obligations.MeasureIsCheckedAndStarts := by
  intro s g n ticket hphase
  refine ⟨answers_of_take (take := takeMeasure none g n ticket) hphase rfl takeMeasure_none, fun c => ?_⟩
  have hanswer : ∀ {a : Answer} {u : State}, takeMeasure (some c) g n ticket s = (a, u) →
      Answers (.measure (some c) g n ticket) s a u := fun h => answers_of_take hphase rfl h
  refine ⟨fun h => hanswer (takeMeasure_noStage h), fun h => ⟨fun hidle => hanswer (takeMeasure_idle h hidle),
    fun hidle hp => hanswer (takeMeasure_automatic h hidle hp), fun hidle hp => ⟨fun hb => ?_, fun hb hd =>
    ⟨fun hstate => ?_, fun hstate => ?_⟩⟩⟩⟩
  · exact hanswer ((takeMeasure_operator h hidle hp).trans (if_pos (by simpa using hb)))
  · exact hanswer ((takeMeasure_operator h hidle hp).trans ((if_neg (by simp [hb, hd])).trans (if_pos hstate)))
  · have htake := (takeMeasure_operator (ticket := ticket) (n := n) h hidle hp).trans
      ((if_neg (by simp [hb, hd])).trans (if_neg (not_not_intro hstate)))
    obtain ⟨hother, hlink, hstore, hport⟩ := startMeasurement_frame (s := s) (c := c) (g := g) (ticket := ticket)
      (n := s.samplesUsed n)
    refine ⟨_, hanswer htake, by simp, by simp, ?_, ⟨freshRecord g (s.samplesUsed n), ?_, rfl, samplesUsed_eq n, rfl, rfl,
      rfl⟩, fun hcap hTG hRG => ?_, fun hq => ?_, by simpa using hother, by simpa using hlink, by simpa using hstore,
      by simpa using hport⟩
    · simp only [engine_setCommand, engine_startMeasurement]
      split <;> rfl
    · simp only [engine_setCommand, engine_startMeasurement]
      split <;> rfl
    · have hq : needsQuiet g = false := by simp [needsQuiet, hcap, hTG, hRG]
      simp only [engine_setCommand, quiet_setCommand, engine_startMeasurement, quiet_startMeasurement, hq]
      refine ⟨rfl, rfl, ?_⟩
      simp only [Bool.false_eq_true, if_false, runningEngine, firstReading_unquieted h hq]
      cases g.fv <;> rfl
    · have hq : needsQuiet g = true := by simpa [needsQuiet, or_assoc] using hq
      simp only [engine_setCommand, quiet_setCommand, engine_startMeasurement, quiet_startMeasurement, hq]
      refine ⟨rfl, rfl, fun hnone => ?_⟩
      simp [askQuiet, hnone, Config.quietLimit]

end Sys2Proof.Machine
end

section
/-! What the trunk table's operations leave, and the rows of the connect sequence (O24). -/

namespace Sys2Proof.Machine

/-! ### The trunk table -/

section Trunks

variable {s : State} {t k : Trunk} {e : TrunkEntry} {c d : Channel}

theorem trunkEntry_setTrunk : (s.setTrunk t e).trunkEntry t = e := by
  simp [State.setTrunk, State.trunkEntry]

theorem trunkEntry_setTrunk_ne (h : k ≠ t) : (s.setTrunk t e).trunkEntry k = s.trunkEntry k := by
  have hval : t.val ≠ k.val := fun heq => h (Fin.ext heq.symm)
  simp [State.setTrunk, State.trunkEntry, hval]

@[simp] theorem blockEntry_setTrunk (b : Block) : (s.setTrunk t e).blockEntry b = s.blockEntry b := rfl
@[simp] theorem port_setTrunk : (s.setTrunk t e).port = s.port := rfl
@[simp] theorem chan_setTrunk : (s.setTrunk t e).chan c = s.chan c := by cases c <;> rfl
@[simp] theorem link_setTrunk : (s.setTrunk t e).link = s.link := rfl
@[simp] theorem roster_setTrunk : (s.setTrunk t e).roster = s.roster := rfl
@[simp] theorem ticketStore_setTrunk : (s.setTrunk t e).ticketStore = s.ticketStore := rfl
@[simp] theorem auto_setTrunk : (s.setTrunk t e).auto = s.auto := rfl
@[simp] theorem watch_setTrunk : (s.setTrunk t e).watch = s.watch := rfl
@[simp] theorem now_setTrunk : (s.setTrunk t e).now = s.now := rfl
@[simp] theorem clock_setTrunk : (s.setTrunk t e).store.clock = s.store.clock := rfl
@[simp] theorem thresholds_setTrunk : (s.setTrunk t e).store.thresholds = s.store.thresholds := rfl

theorem trunkEntry_of_store {r s : State} (h : s.store = r.store) (k : Trunk) : s.trunkEntry k = r.trunkEntry k := by
  rw [State.trunkEntry, State.trunkEntry, h]

theorem changeTrunk_same (h : (s.trunkEntry t).condition = e.condition) : changeTrunk t e s = s.setTrunk t e := if_pos h

theorem changeTrunk_changed (h : (s.trunkEntry t).condition ≠ e.condition) : changeTrunk t e s =
    emit { kind := .trunkCondition, line := some t.val, outcome := some (.trunk e.condition)
           station := match e.declaredBy with | some (.station n) => some n | _ => none } (s.setTrunk t e) := if_neg h

/-- A stored trunk entry differs from the table's state by the event alone. -/
theorem changeTrunk_cases : changeTrunk t e s = s.setTrunk t e ∨ ∃ v, changeTrunk t e s = emit v (s.setTrunk t e) := by
  by_cases h : (s.trunkEntry t).condition = e.condition
  · exact .inl (changeTrunk_same h)
  · exact .inr ⟨_, changeTrunk_changed h⟩

@[simp] theorem store_changeTrunk : (changeTrunk t e s).store = (s.setTrunk t e).store := by
  rcases changeTrunk_cases (t := t) (e := e) (s := s) with h | ⟨v, h⟩ <;> simp [h]
@[simp] theorem chan_changeTrunk : (changeTrunk t e s).chan c = s.chan c := by
  rcases changeTrunk_cases (t := t) (e := e) (s := s) with h | ⟨v, h⟩ <;> simp [h]
@[simp] theorem link_changeTrunk : (changeTrunk t e s).link = s.link := by
  rcases changeTrunk_cases (t := t) (e := e) (s := s) with h | ⟨v, h⟩ <;> simp [h]
@[simp] theorem roster_changeTrunk : (changeTrunk t e s).roster = s.roster := by
  rcases changeTrunk_cases (t := t) (e := e) (s := s) with h | ⟨v, h⟩ <;> simp [h]
@[simp] theorem ticketStore_changeTrunk : (changeTrunk t e s).ticketStore = s.ticketStore := by
  rcases changeTrunk_cases (t := t) (e := e) (s := s) with h | ⟨v, h⟩ <;> simp [h]
@[simp] theorem auto_changeTrunk : (changeTrunk t e s).auto = s.auto := by
  rcases changeTrunk_cases (t := t) (e := e) (s := s) with h | ⟨v, h⟩ <;> simp [h]
@[simp] theorem watch_changeTrunk : (changeTrunk t e s).watch = s.watch := by
  rcases changeTrunk_cases (t := t) (e := e) (s := s) with h | ⟨v, h⟩ <;> simp [h]
@[simp] theorem now_changeTrunk : (changeTrunk t e s).now = s.now := by
  rcases changeTrunk_cases (t := t) (e := e) (s := s) with h | ⟨v, h⟩ <;> simp [h]

theorem trunkEntry_changeTrunk : (changeTrunk t e s).trunkEntry t = e :=
  (trunkEntry_of_store store_changeTrunk t).trans trunkEntry_setTrunk

theorem trunkEntry_changeTrunk_ne (h : k ≠ t) : (changeTrunk t e s).trunkEntry k = s.trunkEntry k :=
  (trunkEntry_of_store store_changeTrunk k).trans (trunkEntry_setTrunk_ne h)

/-- A confirm in time changes the condition of a SUSPECT trunk alone (R10). -/
theorem creditConfirm_suspect (h : (s.trunkEntry t).condition = .suspect) : creditConfirm t s =
    emit { kind := .trunkCondition, line := some t.val, outcome := some (.trunk .inService),
           station := match (s.trunkEntry t).declaredBy with | some (.station n) => some n | _ => none }
      (s.setTrunk t { s.trunkEntry t with condition := .inService, streak := 0 }) := by
  rw [creditConfirm, changeTrunk_changed (by simp [h])]
  simp [h]

theorem creditConfirm_other (h : (s.trunkEntry t).condition ≠ .suspect) :
    creditConfirm t s = s.setTrunk t { s.trunkEntry t with streak := 0 } := by
  rw [creditConfirm, changeTrunk_same (by simp [h])]
  simp [h]

@[simp] theorem streak_creditConfirm : ((creditConfirm t s).trunkEntry t).streak = 0 := by
  rw [creditConfirm, trunkEntry_changeTrunk]
@[simp] theorem chan_creditConfirm : (creditConfirm t s).chan c = s.chan c := by rw [creditConfirm, chan_changeTrunk]
@[simp] theorem link_creditConfirm : (creditConfirm t s).link = s.link := by rw [creditConfirm, link_changeTrunk]
@[simp] theorem roster_creditConfirm : (creditConfirm t s).roster = s.roster := by rw [creditConfirm, roster_changeTrunk]
@[simp] theorem auto_creditConfirm : (creditConfirm t s).auto = s.auto := by rw [creditConfirm, auto_changeTrunk]
@[simp] theorem now_creditConfirm : (creditConfirm t s).now = s.now := by rw [creditConfirm, now_changeTrunk]
@[simp] theorem clock_creditConfirm : (creditConfirm t s).store.clock = s.store.clock := by
  rw [creditConfirm, store_changeTrunk, clock_setTrunk]
@[simp] theorem thresholds_creditConfirm : (creditConfirm t s).store.thresholds = s.store.thresholds := by
  rw [creditConfirm, store_changeTrunk, thresholds_setTrunk]

end Trunks

/-! ### The relay steps -/

section Steps

variable {s : State} {c d : Channel}

theorem atStep_of {n : Nat} (hstate : (s.chan c).session.state = .connecting)
    (hstep : (s.chan c).session.relayStep = some n) (m : Nat) : atStep s c m = decide (n = m) := by
  rw [atStep, hstate, hstep]
  exact Bool.eq_iff_iff.2 (by simp)

theorem awaitsConfirm_connecting {n : Nat} {r : ChannelRecord} (hstate : r.session.state = .connecting)
    (hstep : r.session.relayStep = some n) (hn : n = 3 ∨ n = 5) : awaitsConfirm r = !r.seq.confirmTaken := by
  rcases hn with rfl | rfl <;> simp [awaitsConfirm, hstate, hstep]

theorem awaitsConfirm_elsewhere {r : ChannelRecord} (hstate : r.session.state ≠ .connecting) : awaitsConfirm r = false := by
  simp [awaitsConfirm, hstate]

/-! The go rule (R24), case by case. -/

theorem goRule_quieted {h : Holder} (hq : quietedBy s c (s.chan c).session.block = some h) : goRule c s =
    (s.updSession c fun x => { x with state := .deferred, deferredBy := some h }).updSeq c fun q =>
      { q with waitEnd := none } := by
  simp only [goRule, hq]

theorem goRule_frozen (hq : quietedBy s c (s.chan c).session.block = none)
    (hfrozen : (s.chan c).session.frozenAtClaim = true) : goRule c s =
    s.updSession c fun x => { x with state := .claimed, deferredBy := none } := by
  simp only [goRule, hq, hfrozen, if_true]

theorem goRule_first (hq : quietedBy s c (s.chan c).session.block = none)
    (hfrozen : (s.chan c).session.frozenAtClaim = false) (hstep : (s.chan c).session.relayStep = none) :
    goRule c s = beginStep1 c s := by
  simp only [goRule, hq, hfrozen, hstep, if_true, Bool.false_eq_true, if_false]

theorem goRule_next {n : Nat} (hq : quietedBy s c (s.chan c).session.block = none)
    (hfrozen : (s.chan c).session.frozenAtClaim = false) (hstep : (s.chan c).session.relayStep = some n) :
    goRule c s = beginStep3 c s := by
  simp only [goRule, hq, hfrozen, hstep, Bool.false_eq_true, if_false, reduceCtorEq]

theorem quietHolder_none_iff (b : Block) : quietHolder s b = none ↔ ∀ p ∈ s.roster, ∀ q ∈ p.quiets, q.block ≠ b := by
  simp [quietHolder]

theorem quietStandsOn_iff (b : Block) : quietStandsOn s c b = true ↔
    ((s.chan c).quiet.phase = .settling ∨ (s.chan c).quiet.phase = .held ∨ (s.chan c).quiet.phase = .ending) ∧
      (s.chan c).quiet.block = some b := by
  simp [quietStandsOn, QuietRecord.stands, or_assoc]

theorem quietedBy_none_iff (b : Block) : quietedBy s c b = none ↔
    (∀ p ∈ s.roster, ∀ q ∈ p.quiets, q.block ≠ b) ∧
      ¬(((s.chan c.other).quiet.phase = .settling ∨ (s.chan c.other).quiet.phase = .held ∨
        (s.chan c.other).quiet.phase = .ending) ∧ (s.chan c.other).quiet.block = some b) := by
  rw [← quietHolder_none_iff, ← quietStandsOn_iff, quietedBy]
  cases quietHolder s b <;> simp

theorem exec_step1End (c : Channel) (s : State) :
    exec (.step1End c) s = .next (if atStep s c 1 then beginStep2 c s else s) := rfl

theorem exec_setupWaitEnd (c : Channel) (s : State) :
    exec (.setupWaitEnd c) s = .next (if atStep s c 2 then goRule c s else s) := rfl

theorem exec_operateWaitEnd (c : Channel) (s : State) : exec (.operateWaitEnd c) s = .next
    (if (atStep s c 3 || atStep s c 5) && !(s.chan c).seq.operateElapsed then
       if (s.chan c).seq.confirmTaken then
         operateEnds c (s.updSeq c fun q => { q with operateElapsed := true, waitEnd := none })
       else s.updSeq c fun q => { q with operateElapsed := true, waitEnd := none }
     else s) := rfl

theorem exec_confirmShown (c : Channel) (s : State) : exec (.confirmShown c) s = .next (confirmShows c s) := rfl

theorem exec_holdClear (c : Channel) (s : State) : exec (.holdClear c) s = .next (holdClears c s) := rfl

/-- The confirm shows during an operate step that awaits it (R27). -/
theorem confirmShows_awaited {n : Nat} (hstate : (s.chan c).session.state = .connecting)
    (hstep : (s.chan c).session.relayStep = some n) (hn : n = 3 ∨ n = 5) (htaken : (s.chan c).seq.confirmTaken = false) :
    confirmShows c s =
      if (s.chan c).pins.hold then
        (s.updPins c fun p => { p with confirm := true }).updSeq c fun q => { q with confirmHeldBack := true }
      else takeConfirm c (s.updPins c fun p => { p with confirm := true }) := by
  unfold confirmShows
  dsimp only
  rw [awaitsConfirm_connecting (n := n) (by simpa using hstate) (by simpa using hstep) hn]
  simp [htaken]

/-- The confirm of an operate that has been abandoned is late (R33). -/
theorem confirmShows_late {a : AbandonedOperate} (hstate : (s.chan c).session.state ≠ .connecting)
    (habandoned : (s.chan c).seq.abandoned = some a) :
    confirmShows c s = lateConfirm c a (s.updPins c fun p => { p with confirm := true }) := by
  unfold confirmShows
  dsimp only
  rw [awaitsConfirm_elsewhere (by simpa using hstate)]
  simp [habandoned]

theorem confirmShows_idle (hstate : (s.chan c).session.state ≠ .connecting)
    (habandoned : (s.chan c).seq.abandoned = none) :
    confirmShows c s = s.updPins c fun p => { p with confirm := true } := by
  unfold confirmShows
  dsimp only
  rw [awaitsConfirm_elsewhere (by simpa using hstate)]
  simp [habandoned]

/-- Hold clears over a confirm that was held back in an operate step (R27). -/
theorem holdClears_heldBack {n : Nat} (hstate : (s.chan c).session.state = .connecting)
    (hstep : (s.chan c).session.relayStep = some n) (hn : n = 3 ∨ n = 5) (htaken : (s.chan c).seq.confirmTaken = false)
    (hheld : (s.chan c).seq.confirmHeldBack = true) (hconfirm : (s.chan c).pins.confirm = true) :
    holdClears c s = takeConfirm c (s.updPins c fun p => { p with hold := false }) := by
  unfold holdClears
  dsimp only
  rw [awaitsConfirm_connecting (n := n) (by simpa using hstate) (by simpa using hstep) hn]
  simp [htaken, hheld, hconfirm]

theorem holdClears_free (hheld : (s.chan c).seq.confirmHeldBack = false) :
    holdClears c s = s.updPins c fun p => { p with hold := false } := by
  unfold holdClears
  simp [hheld]

theorem operateEnds_three (h : (s.chan c).session.relayStep = some 3) : operateEnds c s = beginStep4 c s := if_pos h

theorem operateEnds_five (h : (s.chan c).session.relayStep = some 5) : operateEnds c s = enterConnected c s :=
  if_neg (by simp [h])

end Steps

/-! ### CONNECTED -/

section Complete

variable {s : State} {c : Channel} {e : Event} (d : Channel)

/-- A completion enters its slot, or the slot is taken; BUSY clears either way (R203, R205). -/
theorem complete_cases : complete c e s = s.setCommand c none ∨
    complete c e s = (enterEvent { e with channel := some c } s).setCommand c none := by
  unfold complete
  split
  · exact .inl rfl
  · exact .inr rfl

@[simp] theorem session_complete : ((complete c e s).chan d).session = (s.chan d).session := by
  rcases complete_cases (c := c) (e := e) (s := s) with h | h <;> simp [h]
@[simp] theorem seq_complete : ((complete c e s).chan d).seq = (s.chan d).seq := by
  rcases complete_cases (c := c) (e := e) (s := s) with h | h <;> simp [h]
@[simp] theorem claim_complete : ((complete c e s).chan d).claim = (s.chan d).claim := by
  rcases complete_cases (c := c) (e := e) (s := s) with h | h <;> simp [h]
@[simp] theorem quiet_complete : ((complete c e s).chan d).quiet = (s.chan d).quiet := by
  rcases complete_cases (c := c) (e := e) (s := s) with h | h <;> simp [h]
@[simp] theorem clears_complete : ((complete c e s).chan d).clears = (s.chan d).clears := by
  rcases complete_cases (c := c) (e := e) (s := s) with h | h <;> simp [h]
@[simp] theorem engine_complete : ((complete c e s).chan d).engine = (s.chan d).engine := by
  rcases complete_cases (c := c) (e := e) (s := s) with h | h <;> simp [h]
@[simp] theorem pins_complete : ((complete c e s).chan d).pins = (s.chan d).pins := by
  rcases complete_cases (c := c) (e := e) (s := s) with h | h <;> simp [h]
@[simp] theorem command_complete : ((complete c e s).chan c).command = none := by
  rcases complete_cases (c := c) (e := e) (s := s) with h | h <;> simp [h]
@[simp] theorem chan_other_complete : (complete c e s).chan c.other = s.chan c.other := by
  rcases complete_cases (c := c) (e := e) (s := s) with h | h <;> simp [h]
@[simp] theorem link_complete : (complete c e s).link = s.link := by
  rcases complete_cases (c := c) (e := e) (s := s) with h | h <;> simp [h, enterEvent]
@[simp] theorem store_complete : (complete c e s).store = s.store := by
  rcases complete_cases (c := c) (e := e) (s := s) with h | h <;> simp [h]
@[simp] theorem roster_complete : (complete c e s).roster = s.roster := by
  rcases complete_cases (c := c) (e := e) (s := s) with h | h <;> simp [h]
@[simp] theorem ticketStore_complete : (complete c e s).ticketStore = s.ticketStore := by
  rcases complete_cases (c := c) (e := e) (s := s) with h | h <;> simp [h, enterEvent]
@[simp] theorem auto_complete : (complete c e s).auto = s.auto := by
  rcases complete_cases (c := c) (e := e) (s := s) with h | h <;> simp [h, enterEvent]
@[simp] theorem watch_complete : (complete c e s).watch = s.watch := by
  rcases complete_cases (c := c) (e := e) (s := s) with h | h <;> simp [h]
@[simp] theorem now_complete : (complete c e s).now = s.now := by
  rcases complete_cases (c := c) (e := e) (s := s) with h | h <;> simp [h]

end Complete

section Connected

variable {s : State} {c : Channel}

/-- The session and its relay side as CONNECTED is entered, off-hook as the loop stands (R30). -/
def sessionConnected (c : Channel) (s : State) : State :=
  (s.updSession c fun x => { x with state := .connected, offHook := (s.chan c).pins.loopClosed }).updSeq c fun q =>
    { q with waitEnd := none, confirmLimit := none }

/-- An operator session's ACCESS completes CONNECTED (R38). -/
def accessConnected (c : Channel) (s : State) : State :=
  complete c (completionOf .accessDone (s.chan c).session (.channel .connected) none)
    (sequenceEnds c (sessionConnected c s))

theorem purpose_automatic_iff (p : Purpose) : p.automatic = true ↔ p ≠ .operator := by
  cases p <;> decide

theorem enterConnected_open (hp : (s.chan c).session.purpose = .operator) (hloop : (s.chan c).pins.loopClosed = false) :
    enterConnected c s = accessConnected c s := by
  unfold enterConnected
  dsimp only
  rw [if_neg (by rw [purpose_automatic_iff]; exact not_not_intro hp), hloop, if_neg Bool.false_ne_true]
  rw [accessConnected, sessionConnected, hloop]

theorem enterConnected_closed (hp : (s.chan c).session.purpose = .operator) (hloop : (s.chan c).pins.loopClosed = true) :
    enterConnected c s = emit { kind := .offHook, channel := some c, line := some (s.chan c).session.line.val }
      (accessConnected c s) := by
  unfold enterConnected
  dsimp only
  rw [if_neg (by rw [purpose_automatic_iff]; exact not_not_intro hp), hloop, if_pos rfl]
  rw [accessConnected, sessionConnected, hloop]

/-- An operator session's entry to CONNECTED leaves BUSY clear (R30, R38). -/
theorem enterConnected_operator (hp : (s.chan c).session.purpose = .operator) :
    ((enterConnected c s).chan c).session =
      { (s.chan c).session with state := .connected, offHook := (s.chan c).pins.loopClosed } ∧
    (enterConnected c s).chan c.other = (sequenceEnds c (sessionConnected c s)).chan c.other ∧
    ((enterConnected c s).chan c).seq = ((sessionConnected c s).chan c).seq ∧
    ((enterConnected c s).chan c).clears = ((sequenceEnds c (sessionConnected c s)).chan c).clears ∧
    ((enterConnected c s).chan c).command = none ∧
    (enterConnected c s).link = (sequenceEnds c (sessionConnected c s)).link := by
  cases hloop : (s.chan c).pins.loopClosed with
  | false => simp [enterConnected_open hp hloop, accessConnected, sessionConnected, hloop]
  | true => simp [enterConnected_closed hp hloop, accessConnected, sessionConnected, hloop]

theorem enterConnected_automatic (hp : (s.chan c).session.purpose ≠ .operator) : enterConnected c s =
    if (s.chan c).pins.loopClosed then yieldSession c (sequenceEnds c (sessionConnected c s))
    else
      match (sequenceEnds c (sessionConnected c s)).auto.item with
      | some i => startMeasurement c i.stages ((sequenceEnds c (sessionConnected c s)).samplesUsed i.n) false
          (sequenceEnds c (sessionConnected c s))
      | none => sequenceEnds c (sessionConnected c s) :=
  if_pos ((purpose_automatic_iff _).2 hp)

end Connected

/-! ### What the ends of steps leave of the store -/

section EndsStore

variable {s : State} {c : Channel}

@[simp] theorem store_enterClosing : (enterClosing c s).store = s.store := by simp [enterClosing]

@[simp] theorem store_giveRelease {r : Relay} : (giveRelease c r s).store = s.store := by simp [giveRelease]

@[simp] theorem store_enterReleasing : (enterReleasing c s).store = s.store := by
  unfold enterReleasing
  split <;> simp

@[simp] theorem store_closeMeasurement {r : MeasureRecord} : (closeMeasurement c r s).store = s.store := by
  unfold closeMeasurement
  dsimp only
  split <;> simp

@[simp] theorem store_releaseAutomatic : (releaseAutomatic c s).store = s.store := by simp [releaseAutomatic]

@[simp] theorem store_yieldSession : (yieldSession c s).store = s.store := by
  unfold yieldSession
  dsimp only
  split <;> simp

@[simp] theorem store_startMeasurement {g : StageSet} {n : Nat} {k : Bool} : (startMeasurement c g n k s).store = s.store :=
  (startMeasurement_frame (s := s)).2.2.1

@[simp] theorem store_sessionConnected : (sessionConnected c s).store = s.store := by simp [sessionConnected]

@[simp] theorem store_accessConnected : (accessConnected c s).store = s.store := by simp [accessConnected]

@[simp] theorem store_enterConnected : (enterConnected c s).store = s.store := by
  by_cases hp : (s.chan c).session.purpose = .operator
  · cases hloop : (s.chan c).pins.loopClosed with
    | false => simp [enterConnected_open hp hloop]
    | true => simp [enterConnected_closed hp hloop]
  · rw [enterConnected_automatic hp]
    repeat' split
    all_goals simp

@[simp] theorem store_operateEnds : (operateEnds c s).store = s.store := by
  unfold operateEnds
  split <;> simp [beginStep4]

end EndsStore

/-! ### The end of an operate step -/

section OperateEnds

variable {s v : State} {c : Channel} {n : Nat}

/-- An operate step `n` of the session in `s` has ended: step 4 after step 3, CONNECTED after step 5 (R27). -/
def OperateEnded (s : State) (c : Channel) (n : Nat) (t : State) : Prop :=
  (n = 3 → (t.chan c).session = { (s.chan c).session with relayStep := some 4 } ∧
    (t.chan c).seq.waitEnd = some (s.now + 60) ∧ (t.chan c).seq.inUse = (s.chan c).pins.loopClosed) ∧
  (n = 5 → (s.chan c).session.purpose = .operator → (t.chan c).session.state = .connected ∧
    (t.chan c).session.relayStep = some 5 ∧ t.busy c = false)

theorem busy_free (hcmd : (s.chan c).command = none) (hp : (s.chan c).session.purpose = .operator) :
    s.busy c = false := by
  rw [State.busy, hcmd, isAutomatic_false hp]
  rfl

/-- A step ends alike wherever its session, its loop and the timer stand. -/
theorem operateEnded_operateEnds (hstep : (s.chan c).session.relayStep = some n) (hn : n = 3 ∨ n = 5)
    (hsession : (v.chan c).session = (s.chan c).session)
    (hloop : (v.chan c).pins.loopClosed = (s.chan c).pins.loopClosed) (hnow : v.now = s.now) :
    OperateEnded s c n (operateEnds c v) := by
  rcases hn with rfl | rfl
  · refine ⟨fun _ => ?_, fun h => absurd h (by decide)⟩
    rw [operateEnds_three (by rw [hsession, hstep])]
    simp [beginStep4, hsession, hnow, hloop, Config.busyTestTime]
  · refine ⟨fun h => absurd h (by decide), fun _ hp => ?_⟩
    rw [operateEnds_five (by rw [hsession, hstep])]
    obtain ⟨hs, -, -, -, hcmd, -⟩ := enterConnected_operator (s := v) (c := c) (by rw [hsession, hp])
    exact ⟨by rw [hs], by rw [hs, hsession, hstep], busy_free hcmd (by rw [hs, hsession, hp])⟩

/-- The confirm taken, and the trunk credited (R10, R27). -/
def confirmCredited (c : Channel) (s : State) : State :=
  creditConfirm (s.chan c).session.trunk
    (s.updSeq c fun q => { q with confirmTaken := true, confirmHeldBack := false, confirmLimit := none })

theorem takeConfirm_early (h : (s.chan c).seq.operateElapsed = false) : takeConfirm c s = confirmCredited c s := by
  unfold takeConfirm
  dsimp only
  rw [h]
  rfl

theorem takeConfirm_last (h : (s.chan c).seq.operateElapsed = true) :
    takeConfirm c s = operateEnds c (confirmCredited c s) := by
  unfold takeConfirm
  dsimp only
  rw [h]
  rfl

@[simp] theorem session_confirmCredited (d : Channel) : ((confirmCredited c s).chan d).session = (s.chan d).session := by
  simp [confirmCredited]
@[simp] theorem pins_confirmCredited (d : Channel) : ((confirmCredited c s).chan d).pins = (s.chan d).pins := by
  simp [confirmCredited]
@[simp] theorem now_confirmCredited : (confirmCredited c s).now = s.now := by simp [confirmCredited]
@[simp] theorem seq_confirmCredited : ((confirmCredited c s).chan c).seq =
    { (s.chan c).seq with confirmTaken := true, confirmHeldBack := false, confirmLimit := none } := by
  simp [confirmCredited]
@[simp] theorem streak_confirmCredited :
    ((confirmCredited c s).trunkEntry (s.chan c).session.trunk).streak = 0 := by simp [confirmCredited]

/-- The last of wait and confirm ends the step, its trunk's streak at 0 (R10, R27). -/
theorem takeConfirm_ends (hstep : (s.chan c).session.relayStep = some n) (hn : n = 3 ∨ n = 5)
    (hv : (v.chan c).session = (s.chan c).session) (hloop : (v.chan c).pins.loopClosed = (s.chan c).pins.loopClosed)
    (hnow : v.now = s.now) (helapsed : (v.chan c).seq.operateElapsed = true) :
    ((takeConfirm c v).trunkEntry (s.chan c).session.trunk).streak = 0 ∧ OperateEnded s c n (takeConfirm c v) := by
  rw [takeConfirm_last helapsed]
  refine ⟨?_, operateEnded_operateEnds hstep hn (by simpa using hv) (by simpa using hloop) (by simpa using hnow)⟩
  rw [trunkEntry_of_store store_operateEnds, ← hv, streak_confirmCredited]

end OperateEnds

/-- Settles O24: row by row, the go rule and the ends of operate steps by their lemmas. -/
theorem connectStepsFollowTheGoRuleTimersAndLines : Obligations.ConnectStepsFollowTheGoRuleTimersAndLines := by
  refine ⟨fun s c k hstate hstep hwait => ?_, fun s c hstate hstep hwait => ?_, fun s c n hstate hstep hn => ?_,
    fun s c hstate habandoned => ?_, fun s c hheld => ?_, fun s c => rfl, fun s c => rfl, fun s c hstate hstep => ?_⟩
  · rw [exec_step1End, atStep_of hstate hstep]
    simp [beginStep2, hwait]
  · rw [exec_step1End, atStep_of hstate hstep, exec_setupWaitEnd, atStep_of (n := 2) (by simpa using hstate) (by simp)]
    simp [beginStep2, hwait]
  · have hat : (atStep s c 3 || atStep s c 5) = true := by
      rcases hn with rfl | rfl <;> simp [atStep_of hstate hstep]
    refine ⟨fun helapsed htaken => ?_, fun helapsed htaken => ?_, fun htaken hhold => ?_, fun htaken hhold helapsed => ?_,
      fun htaken hhold helapsed => ?_, fun htaken hheld hconfirm helapsed => ?_⟩
    · rw [exec_operateWaitEnd, hat, helapsed, htaken]
      rfl
    · refine ⟨operateEnds c (s.updSeq c fun q => { q with operateElapsed := true, waitEnd := none }), ?_,
        operateEnded_operateEnds hstep hn (by simp) (by simp) (by simp)⟩
      rw [exec_operateWaitEnd, hat, helapsed, htaken]
      rfl
    · rw [exec_confirmShown, confirmShows_awaited hstate hstep hn htaken, if_pos hhold]
    · have hshow := confirmShows_awaited hstate hstep hn htaken
      rw [if_neg (by simp [hhold]), takeConfirm_early (by simpa using helapsed)] at hshow
      exact ⟨_, (exec_confirmShown c s).trans (congrArg _ hshow), by simp, by simp, by simp, by
        have := streak_confirmCredited (s := s.updPins c fun p => { p with confirm := true }) (c := c)
        simpa using this⟩
    · have hshow := confirmShows_awaited hstate hstep hn htaken
      rw [if_neg (by simp [hhold])] at hshow
      exact ⟨_, (exec_confirmShown c s).trans (congrArg _ hshow), takeConfirm_ends hstep hn (by simp) (by simp) (by simp) (by simpa using helapsed)⟩
    · obtain ⟨hstreak, hends⟩ := takeConfirm_ends (s := s) (v := s.updPins c fun p => { p with hold := false }) hstep hn
        (by simp) (by simp) (by simp) (by simpa using helapsed)
      have hpins : SamePins _ (takeConfirm c (s.updPins c fun p => { p with hold := false })) :=
        samePins_of_aside fun _ => aside_takeConfirm.2
      refine ⟨_, (exec_holdClear c s).trans
        (congrArg _ (holdClears_heldBack hstate hstep hn htaken hheld hconfirm)), ?_, hstreak, hends⟩
      simp [hpins c]
  · rw [exec_confirmShown, confirmShows_idle hstate habandoned]
  · rw [exec_holdClear, holdClears_free hheld]
  · refine ⟨fun h hq => ⟨goRule c s, ?_, ?_⟩, fun hq hfrozen => ⟨goRule c s, ?_, ?_⟩, quietedBy_none_iff _⟩
    · rw [exec_setupWaitEnd, atStep_of hstate hstep]
      rfl
    · rw [goRule_quieted hq]
      simp
    · rw [exec_setupWaitEnd, atStep_of hstate hstep]
      rfl
    · rw [goRule_next hq hfrozen hstep]
      simp [beginStep3, operateBegins, Config.confirmTime]

end Sys2Proof.Machine
end

section
/-! Frames of urgency 0 in a queue with room, the item of the Automatic Engine beside the queue, and the end of step 5
(O25). -/

namespace Sys2Proof.Machine

/-! ### The store beside the channels -/

section Store

variable {s : State} {c : Channel} (t : Trunk)

@[simp] theorem trunkEntry_updSession (f : Session → Session) : (s.updSession c f).trunkEntry t = s.trunkEntry t :=
  trunkEntry_of_store (by simp) t
@[simp] theorem trunkEntry_updSeq (f : Sequencer → Sequencer) : (s.updSeq c f).trunkEntry t = s.trunkEntry t :=
  trunkEntry_of_store (by simp) t
@[simp] theorem trunkEntry_updClaim (f : ClaimRecord → ClaimRecord) : (s.updClaim c f).trunkEntry t = s.trunkEntry t :=
  trunkEntry_of_store (by simp) t
@[simp] theorem trunkEntry_updPins (f : Pins → Pins) : (s.updPins c f).trunkEntry t = s.trunkEntry t :=
  trunkEntry_of_store (by simp) t

end Store

/-! ### Frames of urgency 0 -/

section Urgent

variable {s : State} {c d : Channel} {b : FrameBody} {o : Option Channel}

theorem link_enqueue : (enqueue (.built b) o s).link = linkWith b o s.link := by
  simp [enqueue, linkWith, newFrame, queuedUrgency]

theorem offerUrgent_of_room (hwaiting : s.link.waiting = []) (hslots : s.link.queue.length < 12) :
    offerUrgent b o s = enqueue (.built b) o s := by
  unfold offerUrgent
  dsimp only
  rw [if_pos (show s.link.queue.length < Config.queueSlots from hslots), if_pos (by simp [hwaiting])]

@[simp] theorem port_enqueue {q : QueuedBody} : (enqueue q o s).port = s.port := rfl
@[simp] theorem ticketStore_enqueue {q : QueuedBody} : (enqueue q o s).ticketStore = s.ticketStore := rfl
@[simp] theorem auto_enqueue {q : QueuedBody} : (enqueue q o s).auto = s.auto := rfl

/-- Frames of urgency 0 offered one after another. -/
def offersUrgent (o : Option Channel) (bs : List FrameBody) (s : State) : State :=
  bs.foldl (fun r b => offerUrgent b o r) s

theorem offersUrgent_of_room (o : Option Channel) : ∀ (bs : List FrameBody) (s : State), s.link.waiting = [] →
    s.link.queue.length + bs.length ≤ 12 →
    (offersUrgent o bs s).link = bs.foldl (fun l b => linkWith b o l) s.link ∧ (offersUrgent o bs s).port = s.port ∧
      ∀ d, (offersUrgent o bs s).chan d = s.chan d
  | [], s, _, _ => ⟨rfl, rfl, fun _ => rfl⟩
  | b :: bs, s, hwaiting, hslots => by
    rw [List.length_cons] at hslots
    have hnext : offerUrgent b o s = enqueue (.built b) o s := offerUrgent_of_room hwaiting (by omega)
    have ih := offersUrgent_of_room o bs (enqueue (.built b) o s) (by simpa [link_enqueue, linkWith] using hwaiting)
      (by simp only [link_enqueue, linkWith, List.length_append, List.length_singleton]; omega)
    simpa [offersUrgent, hnext, link_enqueue] using ih

theorem linkWith_foldl_queue (o : Option Channel) (bs : List FrameBody) (l : Link) :
    (bs.foldl (fun l b => linkWith b o l) l).queue.map (·.body) = l.queue.map (·.body) ++ bs.map .built := by
  induction bs generalizing l with
  | nil => simp
  | cons b bs ih =>
    rw [List.foldl_cons, ih]
    simp [linkWith]

/-- The clears that a session owes and has not queued, as their frames (R135). -/
def owedFrames (l : List OwedClear) : List FrameBody :=
  (l.filter (!·.clearQueued)).map fun k => .quietClear k.block k.requester

theorem sequenceEnds_eq : sequenceEnds c s = leaveWait c.other .own
    (offersUrgent (some c) (owedFrames (s.chan c).clears)
      (s.updClears c fun l => l.map fun k => { k with clearQueued := true })) := by
  rw [sequenceEnds, offersUrgent, owedFrames, List.foldl_map]

/-- What a wait list's last entry starts is its own channel's measurement (R137). -/
theorem leaveWait_frame {h : Holder} : (leaveWait c h s).link = s.link ∧ (leaveWait c h s).port = s.port ∧
    (leaveWait c h s).auto = s.auto ∧ (leaveWait c h s).ticketStore = s.ticketStore ∧
    (leaveWait c h s).chan c.other = s.chan c.other := by
  unfold leaveWait startIfSettled
  dsimp only
  split <;> simp [startRunning]

@[simp] theorem link_leaveWait {h : Holder} : (leaveWait c h s).link = s.link := leaveWait_frame.1
@[simp] theorem port_leaveWait {h : Holder} : (leaveWait c h s).port = s.port := leaveWait_frame.2.1
@[simp] theorem auto_leaveWait {h : Holder} : (leaveWait c h s).auto = s.auto := leaveWait_frame.2.2.1
@[simp] theorem ticketStore_leaveWait {h : Holder} : (leaveWait c h s).ticketStore = s.ticketStore :=
  leaveWait_frame.2.2.2.1
@[simp] theorem chan_leaveWait_other {h : Holder} : (leaveWait c.other h s).chan c = s.chan c := by
  simpa using leaveWait_frame (c := c.other) (h := h) (s := s).2.2.2.2

theorem chan_offersUrgent (o : Option Channel) : ∀ (bs : List FrameBody) (s : State) (d : Channel),
    (offersUrgent o bs s).chan d = s.chan d
  | [], _, _ => rfl
  | b :: bs, s, d => (chan_offersUrgent o bs (offerUrgent b o s) d).trans (by simp)

@[simp] theorem clears_sequenceEnds : ((sequenceEnds c s).chan c).clears =
    (s.chan c).clears.map fun k => { k with clearQueued := true } := by
  rw [sequenceEnds_eq, chan_leaveWait_other, chan_offersUrgent]
  simp

/-- With room for them, the clears that a session owes are queued in their order, and nothing is told (R135). -/
theorem sequenceEnds_of_room (hwaiting : s.link.waiting = [])
    (hslots : s.link.queue.length + (owedFrames (s.chan c).clears).length ≤ 12) :
    (sequenceEnds c s).link = (owedFrames (s.chan c).clears).foldl (fun l b => linkWith b (some c) l) s.link ∧
      (sequenceEnds c s).port = s.port := by
  obtain ⟨hlink, hport, -⟩ := offersUrgent_of_room (some c) (owedFrames (s.chan c).clears)
    (s.updClears c fun l => l.map fun k => { k with clearQueued := true }) (by simpa using hwaiting)
    (by simpa using hslots)
  rw [sequenceEnds_eq, link_leaveWait, port_leaveWait, hlink, hport]
  simp

theorem sequenceEnds_of_none (h : owedFrames (s.chan c).clears = []) :
    (sequenceEnds c s).link = s.link ∧ (sequenceEnds c s).port = s.port := by
  rw [sequenceEnds_eq, h]
  simp [offersUrgent]

end Urgent

/-! ### The item beside the queue -/

section Item

variable {s : State} {c : Channel} {b : FrameBody} {o : Option Channel} {f : QueuedFrame}

@[simp] theorem auto_setLinkError : (setLinkError s).auto = s.auto := by
  unfold setLinkError
  split <;> simp

@[simp] theorem auto_failHandover {t : Ticket} {h : Handover} {x : HandoverReason} : (failHandover t h x s).auto = s.auto := by
  simp [failHandover]

@[simp] theorem auto_tellDropped : (tellDropped b s).auto = s.auto := by
  unfold tellDropped
  repeat' split
  all_goals simp

@[simp] theorem auto_tellDroppedFrame : (tellDroppedFrame f s).auto = s.auto := by
  unfold tellDroppedFrame
  split <;> simp

@[simp] theorem auto_holdFrame : (holdFrame f s).auto = s.auto := by
  unfold holdFrame
  repeat' split
  all_goals simp

@[simp] theorem auto_displaced : (displaced f s).auto = s.auto := by
  unfold displaced
  repeat' split
  all_goals simp

@[simp] theorem item_removeFrame : (removeFrame f s).auto.item = s.auto.item := by
  unfold removeFrame
  split <;> simp [lowFrameLeft]

@[simp] theorem run_removeFrame : (removeFrame f s).auto.run = s.auto.run := by
  unfold removeFrame
  split <;> simp [lowFrameLeft]

@[simp] theorem item_offerUrgent : (offerUrgent b o s).auto.item = s.auto.item := by
  unfold offerUrgent
  dsimp only
  repeat' split
  all_goals simp

@[simp] theorem item_sequenceEnds : (sequenceEnds c s).auto.item = s.auto.item := by
  have hoffers : ∀ (bs : List FrameBody) (s : State), (offersUrgent (some c) bs s).auto.item = s.auto.item := by
    intro bs
    induction bs with
    | nil => exact fun _ => rfl
    | cons b bs ih => exact fun s => (ih (offerUrgent b (some c) s)).trans item_offerUrgent
  rw [sequenceEnds_eq, auto_leaveWait, hoffers]
  simp

end Item

/-! ### The end of step 5 -/

section StepFive

variable {s v : State} {c : Channel}

/-- `v` is a state in which the step 5 of the session in `s` ends: what its wait, its confirm and its lines have changed
lies on the relay side and in the trunk table. -/
structure StepFiveDone (s : State) (c : Channel) (v : State) : Prop where
  session : (v.chan c).session = (s.chan c).session
  clears : (v.chan c).clears = (s.chan c).clears
  loop : (v.chan c).pins.loopClosed = (s.chan c).pins.loopClosed
  drives : (v.chan c).seq.drives = (s.chan c).seq.drives
  other : v.chan c.other = s.chan c.other
  link : v.link = s.link
  auto : v.auto = s.auto
  clock : v.store.clock = s.store.clock
  thresholds : v.store.thresholds = s.store.thresholds
  port : (s.trunkEntry (s.chan c).session.trunk).condition ≠ .suspect → v.port = s.port

theorem port_confirmCredited (h : (s.trunkEntry (s.chan c).session.trunk).condition ≠ .suspect) :
    (confirmCredited c s).port = s.port := by
  rw [confirmCredited, creditConfirm_other (by simpa using h)]
  simp

theorem stepFiveDone_confirmed (f : Pins → Pins) (hf : ∀ p, (f p).loopClosed = p.loopClosed) :
    StepFiveDone s c (confirmCredited c (s.updPins c f)) where
  session := by simp
  clears := by simp [confirmCredited]
  loop := by simp [hf]
  drives := by simp
  other := by simp [confirmCredited]
  link := by simp [confirmCredited]
  auto := by simp [confirmCredited]
  clock := by simp [confirmCredited]
  thresholds := by simp [confirmCredited]
  port h := by
    rw [port_confirmCredited (by simpa using h), port_updPins]

/-- Whichever row comes last ends step 5 in CONNECTED (R27). -/
theorem exec_stepFive {i : Instr} (hstate : (s.chan c).session.state = .connecting)
    (hstep : (s.chan c).session.relayStep = some 5)
    (hi : (i = .operateWaitEnd c ∧ (s.chan c).seq.operateElapsed = false ∧ (s.chan c).seq.confirmTaken = true) ∨
      ((s.chan c).seq.operateElapsed = true ∧ (s.chan c).seq.confirmTaken = false ∧
        (i = .confirmShown c ∧ (s.chan c).pins.hold = false ∨
          i = .holdClear c ∧ (s.chan c).seq.confirmHeldBack = true ∧ (s.chan c).pins.confirm = true))) :
    ∃ v, exec i s = .next (enterConnected c v) ∧ StepFiveDone s c v := by
  rcases hi with ⟨rfl, helapsed, htaken⟩ | ⟨helapsed, htaken, ⟨rfl, hhold⟩ | ⟨rfl, hheld, hconfirm⟩⟩
  · refine ⟨s.updSeq c fun q => { q with operateElapsed := true, waitEnd := none }, ?_,
      ⟨by simp, by simp, by simp, by simp, by simp, by simp, by simp, by simp, by simp, by simp⟩⟩
    rw [exec_operateWaitEnd, atStep_of hstate hstep, atStep_of hstate hstep, helapsed, htaken]
    exact congrArg _ (operateEnds_five (by simpa using hstep))
  · refine ⟨_, ?_, stepFiveDone_confirmed (fun p => { p with confirm := true }) fun _ => rfl⟩
    rw [exec_confirmShown, confirmShows_awaited hstate hstep (.inr rfl) htaken, if_neg (by simp [hhold]),
      takeConfirm_last (by simpa using helapsed), operateEnds_five (by simpa using hstep)]
  · refine ⟨_, ?_, stepFiveDone_confirmed (fun p => { p with hold := false }) fun _ => rfl⟩
    rw [exec_holdClear, holdClears_heldBack hstate hstep (.inr rfl) htaken hheld hconfirm,
      takeConfirm_last (by simpa using helapsed), operateEnds_five (by simpa using hstep)]

/-- The frames of a sequence's end behind the queue, where it owes none or there is room for all (R135). -/
theorem queue_sequenceEnds (h : owedFrames (s.chan c).clears = [] ∨
    s.link.waiting = [] ∧ s.link.queue.length + (owedFrames (s.chan c).clears).length ≤ 12) :
    (sequenceEnds c s).link.queue.map (·.body) =
      s.link.queue.map (·.body) ++ (owedFrames (s.chan c).clears).map .built ∧ (sequenceEnds c s).port = s.port := by
  rcases h with hnone | ⟨hwaiting, hslots⟩
  · obtain ⟨hlink, hport⟩ := sequenceEnds_of_none hnone
    rw [hlink, hport, hnone]
    simp
  · obtain ⟨hlink, hport⟩ := sequenceEnds_of_room hwaiting hslots
    rw [hlink, hport, linkWith_foldl_queue]
    exact ⟨rfl, rfl⟩

/-- What an operator's ACCESS-DONE and the OFF-HOOK behind it put into the queue (R30, R38). -/
theorem events_enterConnected {w : State} (hp : (v.chan c).session.purpose = .operator)
    (hw : sequenceEnds c (sessionConnected c v) = w) (hdone : w.done c = false)
    (hroom : (v.chan c).pins.loopClosed = false ∨ generalCount w.port.events < 30) :
    (enterConnected c v).port.events = w.port.events ++
      [{ kind := .accessDone, time := v.store.clock, channel := some c, line := some (v.chan c).session.line.val,
         trunk := some (v.chan c).session.trunk, outcome := some (.channel .connected), lostBefore := w.port.lost }] ++
      if (v.chan c).pins.loopClosed then [{ kind := .offHook, time := v.store.clock, channel := some c,
                                            line := some (v.chan c).session.line.val }] else [] := by
  have hclock : w.store.clock = v.store.clock := by simp [← hw]
  cases hloop : (v.chan c).pins.loopClosed with
  | false =>
    rw [enterConnected_open hp hloop, accessConnected, hw, complete_of_free hdone]
    simp [enterEvent, completionOf, hclock]
  | true =>
    have hcount : generalCount w.port.events < 30 := hroom.resolve_left (by simp [hloop])
    rw [enterConnected_closed hp hloop, accessConnected, hw, complete_of_free hdone, emit_of_room]
    · simp [enterEvent, completionOf, hclock]
    · simpa [enterEvent, completionOf, generalCount_append, generalCount] using hcount

theorem samplesUsed_of_store {r : State} (h : s.store = r.store) (n : SampleArg) : s.samplesUsed n = r.samplesUsed n := by
  rw [State.samplesUsed, h]
  rfl

/-- An automatic session on an open loop goes on to its item's measurement (R30). -/
theorem enterConnected_item {j : Item} (hp : (v.chan c).session.purpose ≠ .operator)
    (hloop : (v.chan c).pins.loopClosed = false) (hj : v.auto.item = some j) : enterConnected c v =
      startMeasurement c j.stages (v.samplesUsed j.n) false (sequenceEnds c (sessionConnected c v)) := by
  have hitem : (sequenceEnds c (sessionConnected c v)).auto.item = some j := by simpa [sessionConnected] using hj
  rw [← samplesUsed_of_store (r := v) (s := sequenceEnds c (sessionConnected c v)) (by simp) j.n,
    enterConnected_automatic hp, hloop, if_neg Bool.false_ne_true, hitem]

theorem enterConnected_itemless (hp : (v.chan c).session.purpose ≠ .operator)
    (hloop : (v.chan c).pins.loopClosed = false) (hj : v.auto.item = none) :
    enterConnected c v = sequenceEnds c (sessionConnected c v) := by
  have hitem : (sequenceEnds c (sessionConnected c v)).auto.item = none := by simpa [sessionConnected] using hj
  rw [enterConnected_automatic hp, hloop, if_neg Bool.false_ne_true, hitem]

theorem enterConnected_yields (hp : (v.chan c).session.purpose ≠ .operator)
    (hloop : (v.chan c).pins.loopClosed = true) :
    enterConnected c v = yieldSession c (sequenceEnds c (sessionConnected c v)) := by
  rw [enterConnected_automatic hp, hloop, if_pos rfl]

@[simp] theorem clears_startMeasurement {g : StageSet} {n : Nat} {k : Bool} :
    ((startMeasurement c g n k s).chan c).clears = (s.chan c).clears := by
  unfold startMeasurement
  cases needsQuiet g <;> simp [askQuiet, startRunning]

@[simp] theorem clears_sessionConnected : ((sessionConnected c v).chan c).clears = (v.chan c).clears := by
  simp [sessionConnected]

/-- The clears owed are queued as CONNECTED is entered, but for the yield, whose release may owe another (R30, R135). -/
theorem clears_enterConnected (h : (v.chan c).session.purpose = .operator ∨ (v.chan c).pins.loopClosed = false) :
    ((enterConnected c v).chan c).clears = (v.chan c).clears.map fun k => { k with clearQueued := true } := by
  by_cases hp : (v.chan c).session.purpose = .operator
  · obtain ⟨-, -, -, hclears, -⟩ := enterConnected_operator hp
    rw [hclears, clears_sequenceEnds, clears_sessionConnected]
  · have hloop := h.resolve_left hp
    cases hj : v.auto.item with
    | none => simp [enterConnected_itemless hp hloop hj]
    | some j => simp [enterConnected_item hp hloop hj]

/-- An automatic session on a closed loop is RELEASING from the cut-off as soon as it is CONNECTED (R34). -/
theorem yieldSession_connected {w : State} (hstate : (w.chan c).session.state = .connected) :
    ((yieldSession c w).chan c).session =
      { (w.chan c).session with state := .releasing, relayStep := some 5 } ∧
    ((yieldSession c w).chan c).seq.releasing = some .cutOff := by
  have hyield : yieldSession c w = releaseAutomatic c (report .yielded w) := by
    unfold yieldSession
    simp [hstate]
  rw [hyield, releaseAutomatic, enterReleasing_driven (n := 5) (by simp)]
  simp [giveRelease]

end StepFive

/-- Settles O25: the three rows reach `enterConnected` in a state of `StepFiveDone`. -/
theorem stepFiveEndsInConnected : Obligations.StepFiveEndsInConnected := by
  intro s c i hstate hstep hi
  obtain ⟨v, hexec, hv⟩ := exec_stepFive hstate hstep hi
  have howed : (((s.chan c).clears.filter fun k => !k.clearQueued).map fun k =>
      QueuedBody.built (.quietClear k.block k.requester)) = (owedFrames (s.chan c).clears).map .built := by
    rw [owedFrames, List.map_map]
    rfl
  have hclears : ((sessionConnected c v).chan c).clears = (s.chan c).clears := by rw [clears_sessionConnected, hv.clears]
  have hlinkv : (sessionConnected c v).link = s.link := by rw [← hv.link]; simp [sessionConnected]
  have hportv : (sessionConnected c v).port = v.port := by simp [sessionConnected]
  refine ⟨_, hexec, fun hor => ?_, fun hp => ?_, fun hp => ⟨fun hopen j hj => ?_, fun hclosed => ?_⟩⟩
  · rw [clears_enterConnected (by rw [hv.session, hv.loop]; exact hor), hv.clears]
  · have hpv : (v.chan c).session.purpose = .operator := by rw [hv.session, hp]
    obtain ⟨hsession, hother, hseq, -, hcmd, hlink⟩ := enterConnected_operator hpv
    refine ⟨by rw [hsession, hv.session, hv.loop], busy_free hcmd (by rw [hsession, hpv]),
      by rw [hseq]; simp [sessionConnected, hv.drives], by rw [hother]; simp [sessionConnected, hv.other], fun hnone => ?_,
      fun hroom => ?_⟩
    · rw [hlink, (sequenceEnds_of_none (by rw [hclears, owedFrames, hnone, List.map_nil])).1, hlinkv]
    · obtain ⟨hqueue, hport⟩ := queue_sequenceEnds (s := sessionConnected c v) (c := c) (by
        rw [hclears, hlinkv]
        simpa [owedFrames] using hroom)
      refine ⟨by rw [hlink, hqueue, hclears, hlinkv, howed], fun hdone hnotSuspect hcount => ?_⟩
      have hports : (sequenceEnds c (sessionConnected c v)).port = s.port := by rw [hport, hportv, hv.port hnotSuspect]
      rw [events_enterConnected hpv rfl (by rw [done_of_port hports, hdone]) (by rw [hports, hv.loop]; exact hcount),
        hports, hv.session, hv.loop, hv.clock]
  · have hpv : (v.chan c).session.purpose ≠ .operator := by rw [hv.session]; exact hp
    rw [enterConnected_item hpv (by rw [hv.loop]; exact hopen) (by rw [hv.auto, hj])]
    refine ⟨by simp, by simp [sessionConnected, hv.loop, hopen], freshRecord j.stages (v.samplesUsed j.n), ?_, rfl, ?_, rfl⟩
    · rw [engine_startMeasurement]
      split <;> rfl
    · rw [← hv.thresholds]
      rfl
  · have hpv : (v.chan c).session.purpose ≠ .operator := by rw [hv.session]; exact hp
    rw [enterConnected_yields hpv (by rw [hv.loop]; exact hclosed)]
    obtain ⟨hsession, hreleasing⟩ := yieldSession_connected (c := c) (w := sequenceEnds c (sessionConnected c v))
      (by simp [sessionConnected])
    refine ⟨by rw [hsession], by rw [hsession], ?_, hreleasing⟩
    rw [hsession]
    simp [sessionConnected, hv.loop, hclosed]

end Sys2Proof.Machine
end

section
/-! The engine's reports beside the queue, the end of a session, and the withdrawal of a claim (`ClaimWithdrawn`). -/

namespace Sys2Proof.Machine

/-! ### What the engine's reports leave of the link -/

section EngineLink

variable {s : State}

@[simp] theorem link_updItem {f : Item → Item} : (updItem f s).link = s.link := by simp [updItem]
@[simp] theorem link_updSweep {f : Sweep → Sweep} : (updSweep f s).link = s.link := by simp [updSweep]
@[simp] theorem link_dropItem : (dropItem s).link = s.link := by simp [dropItem]
@[simp] theorem link_haltEngine : (haltEngine s).link = s.link := by simp [haltEngine]

@[simp] theorem link_completeSweep : (completeSweep s).link = s.link := by
  unfold completeSweep
  repeat' split
  all_goals simp

@[simp] theorem link_skipLine {l : Line} : (skipLine l s).link = s.link := by simp [skipLine]

@[simp] theorem link_deferLine {l : Line} : (deferLine l s).link = s.link := by
  unfold deferLine
  repeat' split
  all_goals simp

@[simp] theorem link_sweepOutcome {i : Item} {o : ItemOutcome} : (sweepOutcome i o s).link = s.link := by
  unfold sweepOutcome
  dsimp only
  repeat' split
  all_goals simp

@[simp] theorem link_postponeRetest {n : TicketNo} {k : Nat} : (postponeRetest n k s).link = s.link := by
  simp [postponeRetest]

@[simp] theorem link_retestOutcome {n : TicketNo} {o : ItemOutcome} : (retestOutcome n o s).link = s.link := by
  unfold retestOutcome
  split <;> simp

@[simp] theorem link_emitItemResult {i : Item} {o : ItemOutcome} {k : Option FaultClass} {a : TicketAnswer} :
    (emitItemResult i o k a s).link = s.link := by
  unfold emitItemResult
  split <;> simp

@[simp] theorem link_fixOutcome {i : Item} {o : ItemOutcome} {k : Option FaultClass} {a : TicketAnswer} :
    (fixOutcome i o k a s).link = s.link := by
  unfold fixOutcome
  dsimp only
  split <;> simp

@[simp] theorem link_report {o : ItemOutcome} : (report o s).link = s.link := by
  unfold report
  split <;> simp

@[simp] theorem link_itemEnds : (itemEnds s).link = s.link := by
  unfold itemEnds
  dsimp only
  repeat' split
  all_goals simp

/-! What the outcome of an item does to the engine beside the sweep. -/

@[simp] theorem item_updSweep {f : Sweep → Sweep} : (updSweep f s).auto.item = s.auto.item := by simp [updSweep]
@[simp] theorem run_updSweep {f : Sweep → Sweep} : (updSweep f s).auto.run = s.auto.run := by simp [updSweep]

theorem engine_completeSweep : (completeSweep s).auto.item = s.auto.item ∧ (completeSweep s).auto.run = s.auto.run := by
  unfold completeSweep
  repeat' split
  all_goals simp

theorem engine_deferLine {l : Line} :
    (deferLine l s).auto.item = s.auto.item ∧ (deferLine l s).auto.run = s.auto.run := by
  unfold deferLine
  repeat' split
  all_goals simp [skipLine]

theorem engine_sweepOutcome {i : Item} {o : ItemOutcome} :
    (sweepOutcome i o s).auto.item = s.auto.item ∧ (sweepOutcome i o s).auto.run = s.auto.run := by
  unfold sweepOutcome
  dsimp only
  repeat' split
  all_goals simp [engine_completeSweep, engine_deferLine, skipLine]

theorem auto_retestOutcome {n : TicketNo} {o : ItemOutcome} : (retestOutcome n o s).auto = s.auto := by
  unfold retestOutcome
  split <;> simp [postponeRetest]

theorem auto_emitItemResult {i : Item} {o : ItemOutcome} {k : Option FaultClass} {a : TicketAnswer} :
    (emitItemResult i o k a s).auto = s.auto := by
  unfold emitItemResult
  split <;> simp

/-- An outcome is written into the item and leaves the run state (R170). -/
theorem engine_fixOutcome {i : Item} {o : ItemOutcome} {k : Option FaultClass} {a : TicketAnswer} :
    (fixOutcome i o k a s).auto.item = s.auto.item.map (fun i => { i with outcome := some o }) ∧
      (fixOutcome i o k a s).auto.run = s.auto.run := by
  unfold fixOutcome
  dsimp only
  split <;> simp [engine_sweepOutcome, auto_retestOutcome, auto_emitItemResult, updItem]

theorem engine_report {i : Item} {o : ItemOutcome} (h : s.auto.item = some i) (hopen : i.outcome = none)
    (hleft : i.aborted = false) :
    (report o s).auto.item = some { i with outcome := some o } ∧ (report o s).auto.run = s.auto.run := by
  have hitem : s.openItem = some i := by simp [State.openItem, h, hopen, hleft]
  have hreport : report o s = fixOutcome i o none (none, none) s := by rw [report, hitem]
  obtain ⟨hi, hr⟩ := engine_fixOutcome (s := s) (i := i) (o := o) (k := none) (a := (none, none))
  rw [hreport, hi, hr, h]
  exact ⟨rfl, rfl⟩

theorem item_itemEnds : (itemEnds s).auto.item = none := by
  unfold itemEnds
  dsimp only
  repeat' split
  all_goals simp_all [dropItem, haltEngine, halted]

/-- An event that has entered though the queue could have been full (R204). -/
theorem emit_entered {e : Event}
    (h : generalCount (emit e s).port.events < 30) : emit e s = enterEvent e s := by
  refine emit_of_room (Nat.lt_of_not_le fun hfull => ?_)
  rw [emit_of_full hfull] at h
  exact Nat.not_lt.2 hfull h

/-- STEP-DONE is in the queue as a stepping engine's item ends (R171). -/
theorem itemEnds_stepping {i : Item} (h : s.auto.item = some i) (hleft : i.aborted = false)
    (hrun : s.auto.run = .stepping) (hroom : generalCount (itemEnds s).port.events < 30) :
    ∃ e ∈ (itemEnds s).port.events, e.kind = .stepDone ∧ e.line = some i.line.val ∧ e.ticket = i.ticket ∧
      e.outcome = (stepDone i).outcome := by
  have hends : itemEnds s = haltEngine (emit (stepDone i) (dropItem s)) := by
    simp [itemEnds, h, hleft, hrun, dropItem]
  have hport : (itemEnds s).port = (emit (stepDone i) (dropItem s)).port := by rw [hends, haltEngine, port_updAuto]
  rw [hport] at hroom ⊢
  rw [emit_entered hroom]
  refine ⟨{ stepDone i with time := (dropItem s).store.clock, lostBefore := (dropItem s).port.lost }, ?_, rfl, rfl, rfl,
    rfl⟩
  simp [enterEvent]

end EngineLink

/-! ### The end of a session -/

section Ends

variable {s : State} {c : Channel} {x : Session} {o : ChannelOutcome} {n : Option Station} {k : SessionEndCause}

@[simp] theorem link_writeSessionEnd : (writeSessionEnd c k s).link = s.link := rfl
@[simp] theorem auto_writeSessionEnd : (writeSessionEnd c k s).auto = s.auto := rfl
@[simp] theorem ticketStore_writeSessionEnd : (writeSessionEnd c k s).ticketStore = s.ticketStore := rfl

theorem sessionEnded_cases : sessionEnded c x k s = (writeSessionEnd c k s).setCommand c none ∨
    ∃ e, sessionEnded c x k s = complete c e s := by
  unfold sessionEnded
  split
  · exact .inl rfl
  · exact .inr ⟨_, rfl⟩

/-- What a session's end reports is a completion, a cause in a waiting completion, or nothing (R38, R42). -/
theorem reportEnd_cases : reportEnd c x o n s = s ∨ (∃ k, reportEnd c x o n s = (writeSessionEnd c k s).setCommand c none) ∨
    ∃ e, reportEnd c x o n s = complete c e s := by
  have hended : ∀ k, sessionEnded c x k s = s ∨ (∃ k', sessionEnded c x k s = (writeSessionEnd c k' s).setCommand c none) ∨
      ∃ e, sessionEnded c x k s = complete c e s := by
    intro k
    rcases sessionEnded_cases (c := c) (x := x) (k := k) (s := s) with h | h
    · exact .inr (.inl ⟨k, h⟩)
    · exact .inr (.inr h)
  unfold reportEnd
  split
  · exact .inr (.inr ⟨_, rfl⟩)
  · exact .inr (.inr ⟨_, rfl⟩)
  · split
    · exact hended _
    · exact hended _
    · exact .inl rfl

/-- What a session's end reports leaves everything but the port and the channel's command. -/
theorem reportEnd_frame : (reportEnd c x o n s).chan c.other = s.chan c.other ∧
    ((reportEnd c x o n s).chan c).session = (s.chan c).session ∧
    ((reportEnd c x o n s).chan c).claim = (s.chan c).claim ∧ ((reportEnd c x o n s).chan c).seq = (s.chan c).seq ∧
    (reportEnd c x o n s).link = s.link ∧ (reportEnd c x o n s).store = s.store ∧
    (reportEnd c x o n s).roster = s.roster ∧ (reportEnd c x o n s).auto = s.auto ∧
    (reportEnd c x o n s).ticketStore = s.ticketStore ∧ (reportEnd c x o n s).now = s.now := by
  rcases reportEnd_cases (c := c) (x := x) (o := o) (n := n) (s := s) with h | ⟨k, h⟩ | ⟨e, h⟩
  · rw [h]
    exact ⟨rfl, rfl, rfl, rfl, rfl, rfl, rfl, rfl, rfl, rfl⟩
  · simp [h]
  · simp [h]

theorem finishSession_automatic (hp : (s.chan c).session.purpose ≠ .operator) :
    finishSession c o n s = itemEnds (clearSession c s) := if_pos ((purpose_automatic_iff _).2 hp)

theorem finishSession_operator (hp : (s.chan c).session.purpose = .operator) :
    finishSession c o n s = reportEnd c (s.chan c).session o n (clearSession c s) :=
  if_neg (by rw [purpose_automatic_iff]; exact not_not_intro hp)

@[simp] theorem now_clearSession : (clearSession c s).now = s.now := by simp [clearSession]

/-- A session's end leaves the other channel, the link, the configuration and the view (R21). -/
theorem finishSession_frame : (finishSession c o n s).chan c.other = s.chan c.other ∧
    ((finishSession c o n s).chan c).session = idleSession (s.chan c).session ∧
    ((finishSession c o n s).chan c).claim = .initial ∧
    ((finishSession c o n s).chan c).seq = idleSequencer (s.chan c).seq ∧
    (finishSession c o n s).link = s.link ∧ (finishSession c o n s).store = s.store ∧
    (finishSession c o n s).roster = s.roster ∧ (finishSession c o n s).now = s.now := by
  by_cases hp : (s.chan c).session.purpose = .operator
  · obtain ⟨hother, hsession, hclaim, hseq, hlink, hstore, hroster, -, -, hnow⟩ :=
      reportEnd_frame (c := c) (x := (s.chan c).session) (o := o) (n := n) (s := clearSession c s)
    rw [finishSession_operator hp, hother, hsession, hclaim, hseq, hlink, hstore, hroster, hnow]
    simp
  · simp [finishSession_automatic hp]

@[simp] theorem chan_other_finishSession : (finishSession c o n s).chan c.other = s.chan c.other :=
  finishSession_frame.1
@[simp] theorem link_finishSession : (finishSession c o n s).link = s.link := finishSession_frame.2.2.2.2.1
@[simp] theorem store_finishSession : (finishSession c o n s).store = s.store := finishSession_frame.2.2.2.2.2.1
@[simp] theorem roster_finishSession : (finishSession c o n s).roster = s.roster := finishSession_frame.2.2.2.2.2.2.1
@[simp] theorem session_finishSession : ((finishSession c o n s).chan c).session = idleSession (s.chan c).session :=
  finishSession_frame.2.1
@[simp] theorem claim_finishSession : ((finishSession c o n s).chan c).claim = .initial := finishSession_frame.2.2.1
@[simp] theorem seq_finishSession : ((finishSession c o n s).chan c).seq = idleSequencer (s.chan c).seq :=
  finishSession_frame.2.2.2.1

end Ends

/-! ### The withdrawal of a claim -/

section Withdrawal

variable {s : State} {c : Channel} {f : QueuedFrame} {n : Option Station}

/-- The claim of a channel ends without having been taken, its frame in the queue (R122). -/
theorem endClaim_operator {o : ChannelOutcome} (hp : (s.chan c).session.purpose = .operator)
    (hf : s.link.claimFrame c = some f) : endClaim c o n s =
      finishSession c (if (s.chan c).session.cancelPending then .cancelled else o) n (removeFrame f s) := by
  have hauto : ¬(s.chan c).session.purpose.automatic = true := by
    rw [purpose_automatic_iff]
    exact not_not_intro hp
  unfold endClaim
  dsimp only
  rw [if_neg hauto, hf, removeIfQueued_some]

theorem endClaim_automatic {o : ChannelOutcome} (hp : (s.chan c).session.purpose ≠ .operator)
    (hf : s.link.claimFrame c = some f) : endClaim c o n s =
      finishSession c (if (s.chan c).session.cancelPending then .cancelled else o) n
        (report .blocked (removeFrame f s)) := by
  unfold endClaim
  dsimp only
  rw [if_pos ((purpose_automatic_iff _).2 hp), hf, removeIfQueued_some]

@[simp] theorem chan_other_endClaim {o : ChannelOutcome} : (endClaim c o n s).chan c.other = s.chan c.other := by
  unfold endClaim
  dsimp only
  rw [chan_other_finishSession]
  split <;> simp

@[simp] theorem chan_other_rerouteClaim : (rerouteClaim c n s).chan c.other = s.chan c.other := by
  unfold rerouteClaim
  split <;> simp

/-- A claim that ends leaves the other channel, the configuration and the view. -/
theorem endClaim_frame {o : ChannelOutcome} (hf : s.link.claimFrame c = some f) :
    (endClaim c o n s).chan c.other = s.chan c.other ∧
    ((endClaim c o n s).chan c).session = idleSession (s.chan c).session ∧
    ((endClaim c o n s).chan c).claim = .initial ∧
    (endClaim c o n s).link = { s.link with queue := s.link.queue.filter (·.entry != f.entry) } ∧
    (endClaim c o n s).store = s.store ∧ (endClaim c o n s).roster = s.roster := by
  by_cases hp : (s.chan c).session.purpose = .operator
  · simp [endClaim_operator hp hf]
  · simp [endClaim_automatic hp hf]

theorem rerouteClaim_taken {r : Trunk} (hr : chooseRoute s (s.chan c).session.line = .trunk r)
    (hf : s.link.claimFrame c = some f) : rerouteClaim c n s =
      (s.updSession c fun x => { x with trunk := r }).updLink fun l =>
        let g := { f with
          body := .built (.claim (s.chan c).session.line r (s.chan c).session.purpose c), entry := l.nextEntry,
          voids := 0, losses := 0 }
        { l with queue := l.queue.filter (·.entry != f.entry) ++ [g], nextEntry := l.nextEntry + 1 } := by
  simp only [rerouteClaim, hr, hf]

theorem rerouteClaim_ends (hr : ∀ r, chooseRoute s (s.chan c).session.line ≠ .trunk r) :
    rerouteClaim c n s = endClaim c .noTrunk n s := by
  unfold rerouteClaim
  split
  · next t f' ht _ => exact absurd ht (hr t)
  · rfl

/-- A queued claim withdrawn for its trunk: an operator's takes another route, an automatic one ends (R120 to R122). -/
def withdrawClaim (c : Channel) (n : Option Station) (s : State) : State :=
  if (s.chan c).session.purpose.automatic then endClaim c .noTrunk n s else rerouteClaim c n s

theorem withdrawClaim_operator (hp : (s.chan c).session.purpose = .operator) :
    withdrawClaim c n s = rerouteClaim c n s := if_neg (by rw [purpose_automatic_iff]; exact not_not_intro hp)

theorem withdrawClaim_automatic (hp : (s.chan c).session.purpose ≠ .operator) :
    withdrawClaim c n s = endClaim c .noTrunk n s := if_pos ((purpose_automatic_iff _).2 hp)

/-- A queued automatic claim that ends leaves no item, and tells a stepping engine so (R122, R171). -/
theorem endClaim_blocks {o : ChannelOutcome} (hp : (s.chan c).session.purpose ≠ .operator)
    (hf : s.link.claimFrame c = some f) : (endClaim c o n s).auto.item = none ∧
      ∀ i, s.auto.item = some i → i.outcome = none → i.aborted = false → s.auto.run = .stepping →
        generalCount (endClaim c o n s).port.events < 30 → ∃ e ∈ (endClaim c o n s).port.events,
          e.kind = .stepDone ∧ e.line = some i.line.val ∧ e.outcome = some (.item .blocked) := by
  rw [endClaim_automatic hp hf, finishSession_automatic (by simpa using hp)]
  refine ⟨item_itemEnds, fun i hi hopen hleft hrun hroom => ?_⟩
  obtain ⟨hitem, hruns⟩ := engine_report (s := removeFrame f s) (i := i) (o := .blocked) (by simpa using hi) hopen hleft
  obtain ⟨e, he, hkind, hline, -, houtcome⟩ := itemEnds_stepping (s := clearSession c (report .blocked (removeFrame f s)))
    (i := { i with outcome := some .blocked }) (by simpa using hitem) hleft (by simpa [hrun] using hruns) hroom
  exact ⟨e, he, hkind, hline, houtcome⟩

/-- A queued claim withdrawn for its trunk is withdrawn as R12 and R120 to R122 say. -/
theorem claimWithdrawn_withdrawClaim (hf : s.link.claimFrame c = some f) : ClaimWithdrawn s c f n (withdrawClaim c n s) where
  rerouted hp r hr := by rw [withdrawClaim_operator hp, rerouteClaim_taken hr hf, hp]
  left h := by
    have hends : withdrawClaim c n s = endClaim c .noTrunk n s := by
      by_cases hp : (s.chan c).session.purpose = .operator
      · rw [withdrawClaim_operator hp, rerouteClaim_ends (h.resolve_left (not_not_intro hp))]
      · exact withdrawClaim_automatic hp
    obtain ⟨hother, hsession, hclaim, hlink, hstore, -⟩ := endClaim_frame (o := .noTrunk) (n := n) hf
    rw [hends, hsession, hclaim]
    exact ⟨rfl, rfl, hlink, hother, hstore⟩
  noTrunk hp hr hcancel hcmd hdone := by
    have hends : withdrawClaim c n s = complete c
        (completionOf .accessDone (s.chan c).session (.channel .noTrunk) n) (clearSession c (removeFrame f s)) := by
      rw [withdrawClaim_operator hp, rerouteClaim_ends hr, endClaim_operator hp hf, hcancel,
        finishSession_access (by simpa using hp) (by simpa using hcmd)]
      simp
    have hfree : (clearSession c (removeFrame f s)).done c = false := by rw [done_of_port (s := s) (by simp), hdone]
    rw [hends]
    refine ⟨busy_free (by simp) (by simpa [idleSession] using hp), ?_⟩
    rw [complete_of_free hfree]
    simp [enterEvent, portWith, completionOf]
  blocked hp := by
    rw [withdrawClaim_automatic hp]
    exact endClaim_blocks hp hf

end Withdrawal

/-! ### A trunk that goes OUT -/

section TrunkOut

variable {s : State} {c : Channel} {t : Trunk} {f : QueuedFrame} {n : Option Station}

/-- A claim that a trunk's going OUT does not reach: none, held, or of another trunk (R12). -/
def ClaimUnreached (s : State) (t : Trunk) (c : Channel) : Prop :=
  (s.chan c).session.trunk ≠ t ∨ (s.chan c).claim.stage = .none ∨ (s.chan c).claim.stage = .held

theorem trunkOutFirst_unreached (h : ClaimUnreached s t c) : trunkOutFirst t n c s = s := by
  unfold trunkOutFirst
  dsimp only
  rcases h with h | h | h
  · rw [if_pos h]
  · rw [h]
    exact ite_self _
  · rw [h]
    exact ite_self _

theorem trunkOutSecond_unreached (h : ClaimUnreached s t c) : trunkOutSecond t n c s = s := by
  unfold trunkOutSecond
  refine if_neg fun hboth => ?_
  obtain ⟨htrunk, hstage⟩ := hboth
  rcases h with h | h | h
  · exact h htrunk
  · rw [h] at hstage
    cases hstage
  · rw [h] at hstage
    cases hstage

/-- The two passes over one channel (R12). -/
def trunkOutOn (t : Trunk) (n : Option Station) (c : Channel) (s : State) : State :=
  trunkOutSecond t n c (trunkOutFirst t n c s)

theorem trunkOutOn_unreached (h : ClaimUnreached s t c) : trunkOutOn t n c s = s := by
  rw [trunkOutOn, trunkOutFirst_unreached h, trunkOutSecond_unreached h]

theorem trunkOutOn_onWire (htrunk : (s.chan c).session.trunk = t) (hstage : (s.chan c).claim.stage = .onWire) :
    trunkOutOn t n c s = s.updClaim c fun k => { k with withdrawal := some (k.withdrawal.getD .trunk) } := by
  have hfirst : trunkOutFirst t n c s = s.updClaim c fun k => { k with withdrawal := some (k.withdrawal.getD .trunk) } := by
    unfold trunkOutFirst
    dsimp only
    rw [if_neg (not_not_intro htrunk), hstage]
  rw [trunkOutOn, hfirst]
  exact if_neg fun hboth => by simp [hstage] at hboth

theorem trunkOutOn_queued (htrunk : (s.chan c).session.trunk = t) (hstage : (s.chan c).claim.stage = .queued)
    (hf : s.link.claimFrame c = some f) : trunkOutOn t n c s = withdrawClaim c n s := by
  have hfirst : trunkOutFirst t n c s =
      if (s.chan c).session.purpose.automatic then endClaim c .noTrunk n s else s := by
    unfold trunkOutFirst
    dsimp only
    rw [if_neg (not_not_intro htrunk), hstage]
  rw [trunkOutOn, hfirst]
  by_cases hp : (s.chan c).session.purpose = .operator
  · rw [if_neg (by rw [purpose_automatic_iff]; exact not_not_intro hp), withdrawClaim_operator hp]
    exact if_pos ⟨htrunk, hstage⟩
  · obtain ⟨-, -, hclaim, -⟩ := endClaim_frame (o := .noTrunk) (n := n) hf
    rw [if_pos ((purpose_automatic_iff _).2 hp), withdrawClaim_automatic hp]
    refine trunkOutSecond_unreached (.inr (.inl ?_))
    rw [hclaim]
    rfl

@[simp] theorem chan_other_trunkOutFirst : (trunkOutFirst t n c s).chan c.other = s.chan c.other := by
  unfold trunkOutFirst
  dsimp only
  repeat' split
  all_goals simp

@[simp] theorem chan_other_trunkOutSecond : (trunkOutSecond t n c s).chan c.other = s.chan c.other := by
  unfold trunkOutSecond
  dsimp only
  split <;> simp

/-- A trunk that goes OUT and does not reach the other channel's claim acts on one channel (R12). -/
theorem trunkWentOut_one (h : ClaimUnreached s t c.other) : trunkWentOut t n s = trunkOutOn t n c s := by
  have hfirst : ClaimUnreached (trunkOutFirst t n c s) t c.other := by
    rw [ClaimUnreached, chan_other_trunkOutFirst]
    exact h
  have hsecond : ClaimUnreached (trunkOutSecond t n c (trunkOutFirst t n c s)) t c.other := by
    rw [ClaimUnreached, chan_other_trunkOutSecond]
    exact hfirst
  cases c with
  | a =>
    rw [trunkWentOut, trunkOutFirst_unreached (c := .b) hfirst, trunkOutSecond_unreached (c := .b) hsecond, trunkOutOn]
  | b =>
    rw [trunkWentOut, trunkOutFirst_unreached (c := .a) h, trunkOutSecond_unreached (c := .a) hfirst, trunkOutOn]

end TrunkOut

end Sys2Proof.Machine
end

section
/-! Frames of other stations that are taken (`Heard`), and the conditions of trunks (O16). -/

namespace Sys2Proof.Machine

/-! ### A frame heard -/

section HeardFrames

variable {s : State} {n : Station} {b : FrameBody} {p : Peer}

@[simp] theorem port_answered : s.answered.port = s.port := rfl
@[simp] theorem store_answered : s.answered.store = s.store := rfl
@[simp] theorem chan_answered (c : Channel) : s.answered.chan c = s.chan c := by cases c <;> rfl
@[simp] theorem roster_answered : s.answered.roster = s.roster := rfl
@[simp] theorem ticketStore_answered : s.answered.ticketStore = s.ticketStore := rfl
@[simp] theorem auto_answered : s.answered.auto = s.auto := rfl
@[simp] theorem now_answered : s.answered.now = s.now := rfl
@[simp] theorem watch_answered : s.answered.watch = s.watch := rfl
@[simp] theorem queue_answered : s.answered.link.queue = s.link.queue := rfl
@[simp] theorem state_answered : s.answered.link.state = s.link.state := rfl

@[simp] theorem port_updatePeer {f : Peer → Peer} : (updatePeer n f s).port = s.port := rfl
@[simp] theorem store_updatePeer {f : Peer → Peer} : (updatePeer n f s).store = s.store := rfl
@[simp] theorem link_updatePeer {f : Peer → Peer} : (updatePeer n f s).link = s.link := rfl
@[simp] theorem chan_updatePeer {f : Peer → Peer} (c : Channel) : (updatePeer n f s).chan c = s.chan c := by
  cases c <;> rfl
@[simp] theorem ticketStore_updatePeer {f : Peer → Peer} : (updatePeer n f s).ticketStore = s.ticketStore := rfl
@[simp] theorem auto_updatePeer {f : Peer → Peer} : (updatePeer n f s).auto = s.auto := rfl
@[simp] theorem now_updatePeer {f : Peer → Peer} : (updatePeer n f s).now = s.now := rfl
@[simp] theorem watch_updatePeer {f : Peer → Peer} : (updatePeer n f s).watch = s.watch := rfl
@[simp] theorem roster_updatePeer {f : Peer → Peer} : (updatePeer n f s).roster = rosterWith n f s.roster := rfl

@[simp] theorem port_heard : (s.heard n).port = s.port := rfl
@[simp] theorem store_heard : (s.heard n).store = s.store := rfl
@[simp] theorem link_heard : (s.heard n).link = s.answered.link := rfl
@[simp] theorem chan_heard (c : Channel) : (s.heard n).chan c = s.chan c := by cases c <;> rfl
@[simp] theorem ticketStore_heard : (s.heard n).ticketStore = s.ticketStore := rfl
@[simp] theorem auto_heard : (s.heard n).auto = s.auto := rfl
@[simp] theorem now_heard : (s.heard n).now = s.now := rfl
@[simp] theorem watch_heard : (s.heard n).watch = s.watch := rfl

/-- A change of a station's entry that keeps its number changes what is found for it. -/
theorem peer_updatePeer {f : Peer → Peer} (hf : ∀ q, (f q).station = q.station) (h : s.peer n = some p) :
    (updatePeer n f s).peer n = some (f p) := by
  have hstation : p.station = n := (peer_mem h).2
  rw [State.peer] at h ⊢
  rw [roster_updatePeer, rosterWith, List.find?_map]
  have hcomp : ((fun q : Peer => q.station == n) ∘ fun q => if q.station = n then f q else q) =
      fun q => q.station == n := by
    funext q
    by_cases hq : q.station = n
    · simp [hq, hf]
    · simp [hq]
  rw [hcomp, h]
  simp [hstation]

theorem peer_heard (h : s.peer n = some p) : (s.heard n).peer n = some { p with lastHeard := s.now } :=
  peer_updatePeer (s := s.answered) (fun _ => rfl) h

theorem heardPeer_known {j : Bool} (h : s.peer n = some p) (hj : j = false ∨ p.joining = true) :
    heardPeer n j s = updatePeer n (fun q => { q with lastHeard := s.now }) s := by
  have htest : ¬(j && !p.joining) = true := by
    rcases hj with hj | hj <;> simp [hj]
  unfold heardPeer
  rw [h]
  exact if_neg htest

theorem driveSlot_onLine (h : s.onLine = true) (hwire : s.link.wire = none) : driveSlot true s = s.answered := by
  have hdrives : s.drivesSlots = true := by
    rw [State.onLine, Bool.and_eq_true] at h
    rw [State.drivesSlots, h.1, hwire]
    rfl
  rw [driveSlot, if_pos hdrives]
  rfl

/-- A frame heard is handed on whole, its sender's entry noted (R79, R97). -/
theorem frameTaken_heard (h : Heard s n b) : frameTaken n b s = handOn n b s.answered := by
  obtain ⟨honLine, hwire, hfits, hother, -⟩ := h
  unfold frameTaken
  dsimp only
  rw [hfits, driveSlot_onLine honLine hwire]
  have hown : s.answered.isOwn n = false := by
    rw [State.isOwn, store_answered]
    exact beq_false_of_ne hother
  rw [hown, if_neg (by simp)]
  refine if_pos ?_
  simp only [Bool.and_true, Bool.and_eq_true]
  exact ⟨honLine, by rw [Option.isNone_iff_eq_none]; exact hwire⟩

/-- A frame that shows no station new or joining changes the view by its sender's last heard, then by its kind. -/
theorem handOn_heard (hp : s.peer n = some p) (hj : joiningFlag b = false ∨ p.joining = true) :
    handOn n b s.answered = applyFrame n b { p with lastHeard := s.now } (s.heard n) := by
  have hview : heardPeer n (joiningFlag b) s.answered = s.heard n := heardPeer_known hp hj
  unfold handOn
  dsimp only
  rw [hview, peer_heard hp]

theorem exec_frameRow (n : Station) (b : FrameBody) (s : State) : exec (frameRow n b) s = .next (frameTaken n b s) := by
  cases b <;> rfl

/-- The row of a frame heard, but for a station's first joining PRESENCE (R78, R79, R97). -/
theorem exec_heard (h : Heard s n b) (hj : joiningFlag b = false) : ∃ p, s.peer n = some p ∧
    exec (frameRow n b) s = .next (applyFrame n b { p with lastHeard := s.now } (s.heard n)) := by
  obtain ⟨p, hp⟩ := Option.isSome_iff_exists.1 h.known
  exact ⟨p, hp, by rw [exec_frameRow, frameTaken_heard h, handOn_heard hp (.inl hj)]⟩

end HeardFrames

/-! ### Trunk conditions -/

section TrunkConditions

variable {s : State} {c : Channel} {t k : Trunk} {n : Station} {m : Option Station}

@[simp] theorem store_endClaim {o : ChannelOutcome} : (endClaim c o m s).store = s.store := by
  unfold endClaim
  dsimp only
  rw [store_finishSession]
  split <;> simp

@[simp] theorem store_rerouteClaim : (rerouteClaim c m s).store = s.store := by
  unfold rerouteClaim
  split <;> simp

@[simp] theorem store_trunkOutFirst : (trunkOutFirst t m c s).store = s.store := by
  unfold trunkOutFirst
  dsimp only
  repeat' split
  all_goals simp

@[simp] theorem store_trunkOutSecond : (trunkOutSecond t m c s).store = s.store := by
  unfold trunkOutSecond
  dsimp only
  split <;> simp

@[simp] theorem store_trunkWentOut : (trunkWentOut t m s).store = s.store := by
  simp [trunkWentOut]

/-- The watch over a trunk that stays OUT, or does not go OUT, is its action alone (R12). -/
theorem withTrunkWatch_quiet {f : State → State}
    (h : ((f s).trunkEntry t).condition = .out → (s.trunkEntry t).condition = .out) : withTrunkWatch t m f s = f s := by
  unfold withTrunkWatch
  dsimp only
  exact if_neg fun hboth => hboth.2 (h hboth.1)

theorem withTrunkWatch_out {f : State → State} (hnow : ((f s).trunkEntry t).condition = .out)
    (hbefore : (s.trunkEntry t).condition ≠ .out) : withTrunkWatch t m f s = trunkWentOut t m (f s) := by
  unfold withTrunkWatch
  dsimp only
  exact if_pos ⟨hnow, hbefore⟩

@[simp] theorem store_withTrunkWatch {f : State → State} : (withTrunkWatch t m f s).store = (f s).store := by
  unfold withTrunkWatch
  dsimp only
  split <;> simp

theorem trunkEntry_heard : (s.heard n).trunkEntry t = s.trunkEntry t := trunkEntry_of_store (by simp) t

/-- The row TRUNK_NOTICE_TAKEN, of a frame heard (R11, R12). -/
theorem exec_trunkNotice {out : Bool} (h : Heard s n (.trunkNotice t out)) : exec (.trunkNoticeTaken n t out) s =
    .next (withTrunkWatch t (some n) (takeTrunkNotice n t out) (s.heard n)) := by
  obtain ⟨p, -, hexec⟩ := exec_heard h rfl
  exact hexec

theorem takeTrunkNotice_out : takeTrunkNotice n t true s =
    changeTrunk t { s.trunkEntry t with condition := .out, declaredBy := some (.station n) } s := rfl

theorem takeTrunkNotice_restored : takeTrunkNotice n t false s =
    changeTrunk t { s.trunkEntry t with condition := .inService, streak := 0, declaredBy := none } s := rfl

/-- The state as a trunk goes OUT by a notice of station `n`, before the claims that name it (R11). -/
def noticedOut (n : Station) (t : Trunk) (s : State) : State :=
  emit { kind := .trunkCondition, line := some t.val, outcome := some (.trunk .out), station := some n }
    ((s.heard n).setTrunk t { s.trunkEntry t with condition := .out, declaredBy := some (.station n) })

@[simp] theorem chan_noticedOut (c : Channel) : (noticedOut n t s).chan c = s.chan c := by simp [noticedOut]

theorem store_noticedOut : (noticedOut n t s).store = ((s.heard n).setTrunk t
    { s.trunkEntry t with condition := .out, declaredBy := some (.station n) }).store := by simp [noticedOut]

theorem claimFrame_noticedOut (c : Channel) : (noticedOut n t s).link.claimFrame c = s.link.claimFrame c := by
  rw [noticedOut, emit_link]
  rfl

theorem claimUnreached_noticedOut : ClaimUnreached (noticedOut n t s) t c ↔ ClaimUnreached s t c := by
  rw [ClaimUnreached, ClaimUnreached, chan_noticedOut]

/-- An out notice of a trunk that is not OUT: TRUNK-CONDITION, then the claims that name it (R11, R12). -/
theorem exec_trunkNotice_goesOut (h : Heard s n (.trunkNotice t true)) (hcond : (s.trunkEntry t).condition ≠ .out) :
    exec (.trunkNoticeTaken n t true) s = .next (trunkWentOut t (some n) (noticedOut n t s)) := by
  have hnow : ((takeTrunkNotice n t true (s.heard n)).trunkEntry t).condition = .out := by
    rw [takeTrunkNotice_out, trunkEntry_changeTrunk]
  rw [exec_trunkNotice h, withTrunkWatch_out hnow (by rwa [trunkEntry_heard]), takeTrunkNotice_out, trunkEntry_heard,
    changeTrunk_changed (by rwa [trunkEntry_heard])]
  rfl

/-- An out notice of a trunk that is OUT moves its declarer alone (R11). -/
theorem exec_trunkNotice_staysOut (h : Heard s n (.trunkNotice t true)) (hcond : (s.trunkEntry t).condition = .out) :
    exec (.trunkNoticeTaken n t true) s = .next
      ((s.heard n).setTrunk t { s.trunkEntry t with condition := .out, declaredBy := some (.station n) }) := by
  rw [exec_trunkNotice h, withTrunkWatch_quiet (fun _ => by rw [trunkEntry_heard, hcond]), takeTrunkNotice_out,
    trunkEntry_heard, changeTrunk_same (by rw [trunkEntry_heard, hcond])]

theorem exec_trunkNotice_restored (h : Heard s n (.trunkNotice t false)) : exec (.trunkNoticeTaken n t false) s = .next
    (changeTrunk t { s.trunkEntry t with condition := .inService, streak := 0, declaredBy := none } (s.heard n)) := by
  have hnow : ((takeTrunkNotice n t false (s.heard n)).trunkEntry t).condition = .inService := by
    rw [takeTrunkNotice_restored, trunkEntry_changeTrunk]
  rw [exec_trunkNotice h, withTrunkWatch_quiet (fun hout => by rw [hnow] at hout; cases hout), takeTrunkNotice_restored,
    trunkEntry_heard]

theorem takeTrunkRestore_bad {m : Nat} (h : 16 ≤ m) : takeTrunkRestore m s = (.badArgument 1, s) :=
  dif_neg (Nat.not_lt.2 h)

theorem takeTrunkRestore_trunk : takeTrunkRestore t.val s = (.accepted .nothing, restoreTrunk t s) :=
  dif_pos t.isLt

/-- A trunk's entry as it is returned to service (R13). -/
theorem restoreTrunk_eq : restoreTrunk t s =
    changeTrunk t { s.trunkEntry t with condition := .inService, streak := 0, declaredBy := none }
      (if (s.trunkEntry t).condition = .out then queueTrunkNotice t false s else s) := rfl

theorem restoreTrunk_inService (h : (s.trunkEntry t).condition = .inService) : restoreTrunk t s =
    s.setTrunk t { s.trunkEntry t with condition := .inService, streak := 0, declaredBy := none } := by
  rw [restoreTrunk_eq, if_neg (by simp [h]), changeTrunk_same h]

theorem restoreTrunk_changed (h : (s.trunkEntry t).condition ≠ .inService) : restoreTrunk t s =
    emit { kind := .trunkCondition, line := some t.val, outcome := some (.trunk .inService) }
      ((if (s.trunkEntry t).condition = .out then queueTrunkNotice t false s else s).setTrunk t
        { s.trunkEntry t with condition := .inService, streak := 0, declaredBy := none }) := by
  rw [restoreTrunk_eq, changeTrunk_changed]
  rw [trunkEntry_of_store (r := s) (by split <;> simp)]
  exact h

end TrunkConditions

/-- Settles O16: TRUNK RESTORE, the entry's changes, and the notices by the claims that they reach. -/
theorem trunkConditionsFollowTheirCauses : Obligations.TrunkConditionsFollowTheirCauses := by
  refine ⟨fun s hphase => ⟨fun n hn => answers_of_take hphase rfl (takeTrunkRestore_bad hn), fun t => ?_⟩, ?_, ?_, ?_, ?_,
    fun t s h => creditConfirm_suspect h, fun t s h => creditConfirm_other h, fun t e s h => changeTrunk_same h,
    fun s n t h => ?_, fun s n t c h hcond htrunk hother => ?_, fun s n t h => ?_⟩
  · have htake : ∀ {u : State}, restoreTrunk t s = u → Answers (.trunkRestore t.val) s (.accepted .nothing) u :=
      fun h => answers_of_take (take := takeTrunkRestore t.val) hphase rfl (h ▸ takeTrunkRestore_trunk)
    refine ⟨fun h => htake (restoreTrunk_inService h), fun h => htake ?_, fun h honLine => htake ?_,
      fun h honLine => htake ?_⟩
    · rw [restoreTrunk_changed (by simp [h]), if_neg (by simp [h])]
    · rw [restoreTrunk_changed (by simp [h]), if_pos h, queueTrunkNotice, if_pos honLine]
    · rw [restoreTrunk_changed (by simp [h]), if_pos h, queueTrunkNotice, if_neg (by simp [honLine])]
  · intro e h
    simp only [afterTimeout, h]
  · intro e h hstreak
    simp only [afterTimeout, h, hstreak]
    rfl
  · intro e h hstreak
    simp only [afterTimeout, h, hstreak]
    rfl
  · intro e h
    simp only [afterTimeout, h]
  · by_cases hcond : (s.trunkEntry t).condition = .out
    · refine ⟨_, exec_trunkNotice_staysOut h hcond, trunkEntry_setTrunk,
        fun k hk => by rw [trunkEntry_setTrunk_ne hk, trunkEntry_heard], fun _ => ⟨rfl, rfl, rfl, rfl⟩,
        fun hnot => absurd hcond hnot⟩
    · refine ⟨_, exec_trunkNotice_goesOut h hcond, ?_, fun k hk => ?_, fun hout => absurd hout hcond,
        fun _ hreach hroom => ?_⟩
      · rw [trunkEntry_of_store (store_trunkWentOut.trans store_noticedOut), trunkEntry_setTrunk]
      · rw [trunkEntry_of_store (store_trunkWentOut.trans store_noticedOut), trunkEntry_setTrunk_ne hk, trunkEntry_heard]
      · have hunreached : ∀ c, ClaimUnreached (noticedOut n t s) t c := by
          intro c
          rw [claimUnreached_noticedOut, ClaimUnreached, or_comm, or_assoc]
          exact hreach c
        rw [trunkWentOut_one (c := .a) (hunreached _), trunkOutOn_unreached (hunreached _), noticedOut,
          emit_of_room]
        · exact ⟨rfl, rfl, rfl, rfl⟩
        · exact hroom
  · have hexec := exec_trunkNotice_goesOut h hcond
    rw [trunkWentOut_one (c := c) (claimUnreached_noticedOut.2 hother)] at hexec
    refine ⟨fun hstage => hexec.trans ?_, fun hstage => hexec.trans ?_, fun f hstage hf => ⟨_, hexec, ?_⟩⟩
    · rw [trunkOutOn_unreached (claimUnreached_noticedOut.2 (.inr hstage))]
      rfl
    · rw [trunkOutOn_onWire (by simpa using htrunk) (by simpa using hstage)]
      rfl
    · have hframe : (noticedOut n t s).link.claimFrame c = some f := by rw [claimFrame_noticedOut, hf]
      rw [trunkOutOn_queued (by simpa using htrunk) (by simpa using hstage) hframe]
      exact claimWithdrawn_withdrawClaim hframe
  · refine ⟨_, exec_trunkNotice_restored h, trunkEntry_changeTrunk,
      fun k hk => by rw [trunkEntry_changeTrunk_ne hk, trunkEntry_heard], chan_changeTrunk (c := .a),
      chan_changeTrunk (c := .b), link_changeTrunk, fun hcond => ?_, fun hcond hroom => ?_⟩
    · rw [changeTrunk_same (by rw [trunkEntry_heard, hcond])]
      rfl
    · rw [changeTrunk_changed (by rw [trunkEntry_heard]; exact hcond), emit_of_room]
      · rfl
      · exact hroom

end Sys2Proof.Machine
end

section
/-! The rows of the relay sequences after step 1: confirm timeouts (O26), the busy test (O27), the loop (O28), the release
sequence (O29). -/

namespace Sys2Proof.Machine

/-! ### Confirm timeouts -/

section Timeouts

variable {s v w : State} {c : Channel} {t k : Trunk} {n : Nat} {f : QueuedFrame} {m : Option Station}

theorem port_emit_of_room {e : Event} (h : generalCount s.port.events < 30) : (emit e s).port = portWith e s := by
  rw [emit_of_room h]
  rfl

theorem emit_updSeq (e : Event) (g : Sequencer → Sequencer) : emit e (s.updSeq c g) = (emit e s).updSeq c g := by
  unfold emit
  rw [port_updSeq]
  split <;> cases c <;> rfl

theorem setTrunk_updSeq (e : TrunkEntry) (g : Sequencer → Sequencer) :
    (s.updSeq c g).setTrunk t e = (s.setTrunk t e).updSeq c g := by
  cases c <;> rfl

theorem enqueue_updSeq (b : QueuedBody) (o : Option Channel) (g : Sequencer → Sequencer) :
    enqueue b o (s.updSeq c g) = (enqueue b o s).updSeq c g := by
  cases c <;> rfl

theorem chooseRoute_updSeq (g : Sequencer → Sequencer) (l : Line) : chooseRoute (s.updSeq c g) l = chooseRoute s l := by
  cases c <;> rfl

/-- The withdrawal of the other channel's claim does not look at a channel's relay side. -/
theorem claimWithdrawn_updSeq {g : Sequencer → Sequencer} (h : ClaimWithdrawn (v.updSeq c g) c.other f m w) :
    ClaimWithdrawn v c.other f m (w.updSeq c fun _ => (v.chan c).seq) where
  rerouted hp r hr := by
    have hw := h.rerouted (by simpa using hp) r (by simpa [chooseRoute_updSeq] using hr)
    rw [hw]
    cases c <;> rfl
  left hor := by
    obtain ⟨hstate, hclaim, hlink, hother, hstore⟩ := h.left (by simpa [chooseRoute_updSeq] using hor)
    refine ⟨by simpa using hstate, by simpa using hclaim, by simpa using hlink, ?_, by simpa using hstore⟩
    have hw : w.chan c = (v.updSeq c g).chan c := by simpa using hother
    simp [hw]
  noTrunk hp hr hcancel hcmd hdone := by
    obtain ⟨hbusy, hport⟩ := h.noTrunk (by simpa using hp) (by simpa [chooseRoute_updSeq] using hr)
      (by simpa using hcancel) (by simpa using hcmd) (by rw [done_of_port (s := v) (by simp)]; exact hdone)
    refine ⟨by simpa [State.busy] using hbusy, ?_⟩
    rw [port_updSeq, hport]
    simp [portWith]
  blocked hp := by
    have hb := h.blocked (by simpa using hp)
    simpa using hb

/-! A timeout charged to a trunk (R9). -/

theorem afterTimeout_condition (e : TrunkEntry) (h : e.condition = .out) : (afterTimeout e).condition = .out := by
  simp [afterTimeout, h]

theorem chargeTimeout_stays (h : (afterTimeout (s.trunkEntry t)).condition = (s.trunkEntry t).condition) :
    chargeTimeout t s = s.setTrunk t (afterTimeout (s.trunkEntry t)) := by
  have hnot : ¬((afterTimeout (s.trunkEntry t)).condition = .out ∧ (s.trunkEntry t).condition ≠ .out) :=
    fun hboth => hboth.2 (h ▸ hboth.1)
  unfold chargeTimeout
  dsimp only
  rw [if_neg hnot, changeTrunk_same h.symm]

theorem chargeTimeout_first (h : (s.trunkEntry t).condition = .inService) (hdeclared : (s.trunkEntry t).declaredBy = none) :
    chargeTimeout t s = emit { kind := .trunkCondition, line := some t.val, outcome := some (.trunk .suspect) }
      (s.setTrunk t (afterTimeout (s.trunkEntry t))) := by
  have hafter : afterTimeout (s.trunkEntry t) = { s.trunkEntry t with condition := .suspect, streak := 1 } := by
    simp only [afterTimeout, h]
  unfold chargeTimeout
  dsimp only
  rw [hafter, if_neg (by simp), changeTrunk_changed (by simp [h]), hdeclared]

theorem afterTimeout_third {e : TrunkEntry} (h : e.condition = .suspect) (hstreak : e.streak = 2) :
    afterTimeout e = { e with condition := .out, streak := 3, declaredBy := some .self } := by
  simp only [afterTimeout, h, hstreak]
  rfl

theorem chargeTimeout_third (h : (s.trunkEntry t).condition = .suspect) (hstreak : (s.trunkEntry t).streak = 2) :
    chargeTimeout t s = emit { kind := .trunkCondition, line := some t.val, outcome := some (.trunk .out) }
      ((queueTrunkNotice t true s).setTrunk t (afterTimeout (s.trunkEntry t))) := by
  have hentry : (queueTrunkNotice t true s).trunkEntry t = s.trunkEntry t := trunkEntry_of_store (by simp) t
  have hafter := afterTimeout_third h hstreak
  unfold chargeTimeout
  dsimp only
  rw [if_pos ⟨by rw [hafter], by simp [h]⟩, changeTrunk_changed (by simp [hentry, hafter, h]), hafter]

@[simp] theorem chan_chargeTimeout (d : Channel) : (chargeTimeout t s).chan d = s.chan d := by
  unfold chargeTimeout
  dsimp only
  split <;> simp

@[simp] theorem now_chargeTimeout : (chargeTimeout t s).now = s.now := by
  unfold chargeTimeout
  dsimp only
  split <;> simp

@[simp] theorem roster_chargeTimeout : (chargeTimeout t s).roster = s.roster := by
  unfold chargeTimeout
  dsimp only
  split <;> simp

theorem trunkEntry_chargeTimeout : (chargeTimeout t s).trunkEntry t = afterTimeout (s.trunkEntry t) :=
  trunkEntry_changeTrunk

/-- A notice enters the queue at once where there is room for it (R82, R84). -/
theorem offerNotice_of_room {b : FrameBody} (h : NoticeRoom s) : offerNotice b s = enqueue (.built b) none s := by
  obtain ⟨hwaiting, hholding, hlow, hslots⟩ := h
  refine if_pos ?_
  rw [Bool.and_eq_true]
  exact ⟨by simp [hholding], (roomLow_zero_iff _).2 ⟨hlow, hslots, hwaiting⟩⟩

/-- The operate of a channel abandoned, with outcome ACCESS-TIMEOUT (R28, R33). -/
def operateAbandoned (c : Channel) (s : State) : State := fixSession c .accessTimeout (abandonOperate c s)

theorem operateAbandoned_eq : operateAbandoned c s = s.updSeq c fun _ => ((operateAbandoned c s).chan c).seq := by
  cases c <;> rfl

@[simp] theorem session_operateAbandoned (d : Channel) :
    ((operateAbandoned c s).chan d).session = (s.chan d).session := by simp [operateAbandoned]
@[simp] theorem claim_operateAbandoned (d : Channel) : ((operateAbandoned c s).chan d).claim = (s.chan d).claim := by
  simp [operateAbandoned, fixSession, abandonOperate]
@[simp] theorem chan_other_operateAbandoned : (operateAbandoned c s).chan c.other = s.chan c.other := by
  simp [operateAbandoned, fixSession, abandonOperate]
@[simp] theorem store_operateAbandoned : (operateAbandoned c s).store = s.store := by
  simp [operateAbandoned, fixSession, abandonOperate]
@[simp] theorem roster_operateAbandoned : (operateAbandoned c s).roster = s.roster := by
  simp [operateAbandoned, fixSession, abandonOperate]
@[simp] theorem link_operateAbandoned : (operateAbandoned c s).link = s.link := by
  simp [operateAbandoned, fixSession, abandonOperate]
@[simp] theorem port_operateAbandoned : (operateAbandoned c s).port = s.port := by
  simp [operateAbandoned, fixSession, abandonOperate]

/-- The operate that late confirms name, and the outcome, as an operate is abandoned (R28, R33). -/
theorem seq_operateAbandoned (hstate : (s.chan c).session.state = .connecting)
    (hstep : (s.chan c).session.relayStep = some n) (hn : n = 3 ∨ n = 5) (htaken : (s.chan c).seq.confirmTaken = false) :
    ((operateAbandoned c s).chan c).seq = { (s.chan c).seq with
      waitEnd := none, confirmLimit := none, abandoned := some ⟨n, (s.chan c).session.line, (s.chan c).session.trunk⟩
      outcome := some ((s.chan c).seq.outcome.getD .accessTimeout) } := by
  have hawaits : awaitsConfirm (s.chan c) = true := by rw [awaitsConfirm_connecting hstate hstep hn, htaken]; rfl
  simp [operateAbandoned, fixSession, abandonOperate, hawaits, hstep]

/-- The state of a confirm timeout before its release sequence (R9, R12, R28). -/
def timedOut (c : Channel) (s : State) : State :=
  withTrunkWatch (s.chan c).session.trunk none (chargeTimeout (s.chan c).session.trunk) (operateAbandoned c s)

theorem exec_confirmTimeout (hstate : (s.chan c).session.state = .connecting)
    (hstep : (s.chan c).session.relayStep = some n) (hn : n = 3 ∨ n = 5) (htaken : (s.chan c).seq.confirmTaken = false) :
    exec (.confirmTimeout c) s = .next (enterReleasing c
      (if (s.chan c).session.isAutomatic then report .timeout (timedOut c s) else timedOut c s)) := by
  have hawaits : awaitsConfirm (s.chan c) = true := by rw [awaitsConfirm_connecting hstate hstep hn, htaken]; rfl
  have hexec : exec (.confirmTimeout c) s = .next (if awaitsConfirm (s.chan c) then confirmTimesOut c s else s) := rfl
  rw [hexec, if_pos hawaits]
  rfl

@[simp] theorem chan_other_trunkOutOn : (trunkOutOn t m c s).chan c.other = s.chan c.other := by
  rw [trunkOutOn, chan_other_trunkOutSecond, chan_other_trunkOutFirst]

/-- A trunk that goes OUT leaves a channel whose claim is held (R12). -/
theorem chan_trunkWentOut_held (h : (s.chan c).claim.stage = .held) : (trunkWentOut t m s).chan c = s.chan c := by
  rw [trunkWentOut_one (c := c.other) (by rw [other_other]; exact .inr (.inr h))]
  have hother := chan_other_trunkOutOn (s := s) (c := c.other) (t := t) (m := m)
  rwa [other_other] at hother

theorem chan_withTrunkWatch_held {g : State → State} (h : ((g s).chan c).claim.stage = .held) :
    (withTrunkWatch t m g s).chan c = (g s).chan c := by
  unfold withTrunkWatch
  dsimp only
  split
  · exact chan_trunkWentOut_held h
  · rfl

theorem chan_timedOut (h : (s.chan c).claim.stage = .held) :
    (timedOut c s).chan c = (operateAbandoned c s).chan c := by
  rw [timedOut, chan_withTrunkWatch_held (by simpa using h), chan_chargeTimeout]

@[simp] theorem store_timedOut : (timedOut c s).store =
    (chargeTimeout (s.chan c).session.trunk (operateAbandoned c s)).store := store_withTrunkWatch

theorem trunkEntry_timedOut : (timedOut c s).trunkEntry (s.chan c).session.trunk =
    afterTimeout (s.trunkEntry (s.chan c).session.trunk) := by
  rw [trunkEntry_of_store store_timedOut, trunkEntry_chargeTimeout, trunkEntry_of_store store_operateAbandoned]

@[simp] theorem roster_endClaim {o : ChannelOutcome} : (endClaim c o m s).roster = s.roster := by
  unfold endClaim
  dsimp only
  rw [roster_finishSession]
  split <;> simp

@[simp] theorem roster_rerouteClaim : (rerouteClaim c m s).roster = s.roster := by
  unfold rerouteClaim
  split <;> simp

@[simp] theorem roster_trunkWentOut : (trunkWentOut t m s).roster = s.roster := by
  have hfirst : ∀ (c : Channel) (s : State), (trunkOutFirst t m c s).roster = s.roster := by
    intro c s
    unfold trunkOutFirst
    dsimp only
    repeat' split
    all_goals simp
  have hsecond : ∀ (c : Channel) (s : State), (trunkOutSecond t m c s).roster = s.roster := by
    intro c s
    unfold trunkOutSecond
    dsimp only
    split <;> simp
  simp [trunkWentOut, hfirst, hsecond]

@[simp] theorem roster_timedOut : (timedOut c s).roster = s.roster := by
  unfold timedOut withTrunkWatch
  dsimp only
  split <;> simp

/-- A release on a block that no station has quieted is heard by nobody: it leaves the link, the port and the other
session (R31, R134). -/
theorem enterReleasing_unquieted (hstep : (s.chan c).session.relayStep = some n)
    (hquiet : quietHolder s (s.chan c).session.block = none) :
    (enterReleasing c s).link = s.link ∧ (enterReleasing c s).port = s.port ∧ (enterReleasing c s).auto = s.auto ∧
    (enterReleasing c s).ticketStore = s.ticketStore ∧
    ((enterReleasing c s).chan c.other).session = (s.chan c.other).session ∧
    ((enterReleasing c s).chan c.other).claim = (s.chan c.other).claim := by
  rw [enterReleasing_driven hstep]
  rcases releaseDisturbs_unquieted (c := c) (s := s.updSession c fun x => { x with state := .releasing })
    (by rw [quietHolder_of_roster (s := s) (by simp)]; simpa using hquiet) with hr | hr | hr <;>
    simp [giveRelease, hr, joinWait, markNoisy]

/-- The queue with the notice of a trunk that a timeout takes out, in JOINING and ACTIVE (R9). -/
def toldLink (c : Channel) (s : State) : Link :=
  if s.onLine then linkWith (.trunkNotice (s.chan c).session.trunk true) none s.link else s.link

theorem claimFrame_linkWith {l : Link} {b : FrameBody} {o : Option Channel} {d : Channel} (h : l.claimFrame d = some f) :
    (linkWith b o l).claimFrame d = some f := by
  rw [Link.claimFrame, Link.channelFrame] at h ⊢
  rw [linkWith, List.find?_append, h]
  rfl

theorem claimFrame_toldLink {d : Channel} (f : QueuedFrame) (h : s.link.claimFrame d = some f) :
    (toldLink c s).claimFrame d = some f := by
  unfold toldLink
  split
  · exact claimFrame_linkWith h
  · exact h

/-- The state of a trunk that a timeout takes out, told and recorded (R9). -/
def toldOut (c : Channel) (s : State) : State :=
  emit { kind := .trunkCondition, line := some (s.chan c).session.trunk.val, outcome := some (.trunk .out) }
    (({ s with link := toldLink c s } : State).setTrunk (s.chan c).session.trunk
      (afterTimeout (s.trunkEntry (s.chan c).session.trunk)))

@[simp] theorem chan_toldOut (d : Channel) : (toldOut c s).chan d = s.chan d := by
  simp only [toldOut, emit_chan, chan_setTrunk]
  cases d <;> rfl

@[simp] theorem link_toldOut : (toldOut c s).link = toldLink c s := by simp [toldOut]

/-- The third timeout of a trunk, of which the queue has room to tell, or of which nobody is told (R9). -/
theorem timedOut_third (hcond : (s.trunkEntry (s.chan c).session.trunk).condition = .suspect)
    (hstreak : (s.trunkEntry (s.chan c).session.trunk).streak = 2) (hroom : s.onLine = false ∨ NoticeRoom s) :
    timedOut c s = trunkWentOut (s.chan c).session.trunk none
      ((toldOut c s).updSeq c fun _ => ((operateAbandoned c s).chan c).seq) := by
  have hentry : (operateAbandoned c s).trunkEntry (s.chan c).session.trunk = s.trunkEntry (s.chan c).session.trunk :=
    trunkEntry_of_store (by simp) _
  have honLine : (operateAbandoned c s).onLine = s.onLine := by simp [State.onLine]
  have hnotice : queueTrunkNotice (s.chan c).session.trunk true (operateAbandoned c s) =
      ({ s with link := toldLink c s } : State).updSeq c fun _ => ((operateAbandoned c s).chan c).seq := by
    rw [queueTrunkNotice, honLine, toldLink]
    cases hon : s.onLine with
    | false =>
      rw [if_neg Bool.false_ne_true, if_neg Bool.false_ne_true]
      exact operateAbandoned_eq
    | true =>
      have hroom := hroom.resolve_left (by simp [hon])
      rw [if_pos rfl, if_pos rfl, offerNotice_of_room (by simpa [NoticeRoom] using hroom)]
      exact (congrArg _ operateAbandoned_eq).trans (enqueue_updSeq _ _ _)
  rw [timedOut, withTrunkWatch_out, chargeTimeout_third (by rw [hentry, hcond]) (by rw [hentry, hstreak]), hnotice, hentry,
    setTrunk_updSeq, emit_updSeq]
  · rfl
  · rw [trunkEntry_chargeTimeout, hentry, afterTimeout_third hcond hstreak]
  · rw [hentry, hcond]
    decide

/-- What a trunk's going OUT tells the other channel's claim, whatever a channel's relay side is (R12). -/
theorem trunkWentOut_beside {r : ChannelRecord} {l : Link} {g : Sequencer → Sequencer}
    (hheld : (v.chan c).claim.stage = .held) (hsession : (v.chan c.other).session = r.session)
    (hclaim : (v.chan c.other).claim = r.claim) (hl : v.link = l) {q : Link}
    (hq : ∀ f, q.claimFrame c.other = some f → l.claimFrame c.other = some f) :
    (r.session.trunk ≠ t ∨ r.claim.stage = .none ∨ r.claim.stage = .held →
      (trunkWentOut t none (v.updSeq c g)).link = l ∧ (trunkWentOut t none (v.updSeq c g)).port = v.port ∧
        ((trunkWentOut t none (v.updSeq c g)).chan c.other).session = r.session ∧
        ((trunkWentOut t none (v.updSeq c g)).chan c.other).claim = r.claim) ∧
    (r.session.trunk = t → r.claim.stage = .onWire →
      (trunkWentOut t none (v.updSeq c g)).link = l ∧ (trunkWentOut t none (v.updSeq c g)).port = v.port ∧
        ((trunkWentOut t none (v.updSeq c g)).chan c.other).session = r.session ∧
        ((trunkWentOut t none (v.updSeq c g)).chan c.other).claim =
          { r.claim with withdrawal := some (r.claim.withdrawal.getD .trunk) }) ∧
    (∀ f, r.session.trunk = t → r.claim.stage = .queued → q.claimFrame c.other = some f →
      ∃ u, ClaimWithdrawn v c.other f none u ∧ (trunkWentOut t none (v.updSeq c g)).link = u.link ∧
        (trunkWentOut t none (v.updSeq c g)).port = u.port ∧ (trunkWentOut t none (v.updSeq c g)).auto = u.auto ∧
        ((trunkWentOut t none (v.updSeq c g)).chan c.other).session = (u.chan c.other).session ∧
        ((trunkWentOut t none (v.updSeq c g)).chan c.other).claim = (u.chan c.other).claim) := by
  have hone : trunkWentOut t none (v.updSeq c g) = trunkOutOn t none c.other (v.updSeq c g) :=
    trunkWentOut_one (by rw [other_other]; exact .inr (.inr (by simpa using hheld)))
  rw [hone]
  subst hl
  refine ⟨fun hun => ?_, fun htrunk hstage => ?_, fun f htrunk hstage hf => ?_⟩
  · rw [trunkOutOn_unreached (by simpa [ClaimUnreached, hsession, hclaim] using hun)]
    simp [hsession, hclaim]
  · rw [trunkOutOn_onWire (by simpa [hsession] using htrunk) (by simpa [hclaim] using hstage)]
    simp [hsession, hclaim]
  · have hframe : (v.updSeq c g).link.claimFrame c.other = some f := by simpa using hq f hf
    rw [trunkOutOn_queued (by simpa [hsession] using htrunk) (by simpa [hclaim] using hstage) hframe]
    exact ⟨_, claimWithdrawn_updSeq (claimWithdrawn_withdrawClaim hframe), by simp, by simp, by simp, by simp, by simp⟩

end Timeouts

/-- Settles O26: the release from `chan_timedOut`, the trunk's tellings by its condition, late confirms. -/
theorem confirmTimeoutAbandonsTheOperate : Obligations.ConfirmTimeoutAbandonsTheOperate := by
  refine ⟨fun s c n hstate hstep hn htaken hout hheld => ?_, fun s c n hstate hstep hn htaken hp hheld hquiet => ?_,
    fun s c a hstate habandoned hroom => ?_⟩
  · have hchan : ((if (s.chan c).session.isAutomatic then report .timeout (timedOut c s) else timedOut c s).chan c) =
        (operateAbandoned c s).chan c := by
      split <;> simp [chan_timedOut hheld]
    have hstep' : ((if (s.chan c).session.isAutomatic then report .timeout (timedOut c s)
        else timedOut c s).chan c).session.relayStep = some n := by simp [hchan, hstep]
    obtain ⟨hsession, houtcome, -, hreleasing⟩ := releasing_of_driven hstep'
    have hseq := seq_operateAbandoned hstate hstep hn htaken
    refine ⟨_, exec_confirmTimeout hstate hstep hn htaken, by rw [hsession], by rw [hsession]; exact hstep', ?_, ?_, ?_,
      ?_, ?_⟩
    · rw [houtcome, hchan, hseq, hout]
      rfl
    · rw [enterReleasing_driven hstep']
      simp [giveRelease, hchan, hseq]
    · rw [enterReleasing_driven hstep']
      simp [giveRelease]
    · rw [hreleasing]
      rcases hn with rfl | rfl <;> rfl
    · rw [trunkEntry_of_store (r := timedOut c s) (by split <;> simp), trunkEntry_timedOut]
  · have hexec := exec_confirmTimeout hstate hstep hn htaken
    rw [if_neg (by rw [isAutomatic_false hp]; exact Bool.false_ne_true)] at hexec
    have hchan := chan_timedOut (s := s) hheld
    obtain ⟨hlink, hport, hauto, -, hsession, hclaim⟩ := enterReleasing_unquieted (s := timedOut c s) (c := c) (n := n)
      (by simp [hchan, hstep]) (by rw [quietHolder_of_roster (s := s) (by simp)]; simpa [hchan] using hquiet)
    have hentry : (operateAbandoned c s).trunkEntry (s.chan c).session.trunk = s.trunkEntry (s.chan c).session.trunk :=
      trunkEntry_of_store (by simp) _
    refine ⟨_, hexec, fun hsame => ?_, fun hcond hdeclared hroom => ?_, fun hcond hstreak hroom => ?_⟩
    · have hw : timedOut c s = (operateAbandoned c s).setTrunk (s.chan c).session.trunk
          (afterTimeout (s.trunkEntry (s.chan c).session.trunk)) := by
        rw [timedOut, withTrunkWatch_quiet, chargeTimeout_stays (by rw [hentry, hsame]), hentry]
        rw [trunkEntry_chargeTimeout, hentry, hsame]
        exact id
      dsimp only
      rw [hlink, hport, hsession, hclaim, hw]
      simp
    · have hw : timedOut c s = emit { kind := .trunkCondition, line := some (s.chan c).session.trunk.val, outcome := some (.trunk .suspect) }
          ((operateAbandoned c s).setTrunk (s.chan c).session.trunk
            (afterTimeout (s.trunkEntry (s.chan c).session.trunk))) := by
        rw [timedOut, withTrunkWatch_quiet, chargeTimeout_first (by rw [hentry, hcond]) (by rw [hentry, hdeclared]),
          hentry]
        rw [trunkEntry_chargeTimeout, hentry]
        intro hout
        simp [afterTimeout, hcond] at hout
      dsimp only
      rw [hlink, hport, hsession, hclaim, hw, port_emit_of_room (by simpa using hroom)]
      simp [portWith]
    · dsimp only
      rw [hlink, hport, hauto, hsession, hclaim, timedOut_third hcond hstreak hroom]
      exact trunkWentOut_beside (v := toldOut c s) (r := s.chan c.other) (by simpa using hheld) (by simp) (by simp)
        link_toldOut claimFrame_toldLink
  · refine ⟨_, (exec_confirmShown c s).trans (congrArg _ (confirmShows_late hstate habandoned)), ?_⟩
    rw [lateConfirm, emit_of_room (by simpa using hroom)]
    refine ⟨by simp, by simp [habandoned], by simp, ?_, by simp [enterEvent]⟩
    simp [lateDrives]

/-! ### The busy test and the loop -/

section Loop

variable {s : State} {c : Channel} {n : Nat} {closed : Bool}

theorem exec_busyTestEnd (c : Channel) (s : State) :
    exec (.busyTestEnd c) s = .next (if atStep s c 4 then busyTestEnds c s else s) := rfl

theorem exec_loopClosureChange (c : Channel) (closed : Bool) (s : State) :
    exec (.loopClosureChange c closed) s = .next (loopChanges c closed s) := rfl

theorem busyTestEnds_free (h : (s.chan c).seq.inUse = false ∨ (s.chan c).session.forced = true) :
    busyTestEnds c s = beginStep5 c s := by
  refine if_neg ?_
  rcases h with h | h <;> simp [h]

theorem busyTestEnds_inUse (hinUse : (s.chan c).seq.inUse = true) (hforced : (s.chan c).session.forced = false)
    (hp : (s.chan c).session.purpose = .operator) : busyTestEnds c s = enterReleasing c (fixSession c .lineInUse s) := by
  refine (if_pos (by rw [hinUse, hforced]; rfl)).trans ?_
  dsimp only
  rw [if_neg (by rw [isAutomatic_false hp]; exact Bool.false_ne_true)]

/-- A change of the loop in the busy test (R29). -/
theorem loopChanges_busyTest (h : atStep s c 4 = true) : loopChanges c closed s =
    (s.updPins c fun p => { p with loopClosed := closed }).updSeq c fun q => { q with inUse := q.inUse || closed } := by
  have hat : atStep (s.updPins c fun p => { p with loopClosed := closed }) c 4 = true := by simpa [atStep] using h
  unfold loopChanges
  dsimp only
  rw [if_pos hat]

/-- A change of the loop on a line that is not held (R34). -/
theorem loopChanges_elsewhere (h : atStep s c 4 = false) (hconnected : (s.chan c).session.state ≠ .connected)
    (hmeasuring : (s.chan c).session.state ≠ .measuring) :
    loopChanges c closed s = s.updPins c fun p => { p with loopClosed := closed } := by
  have hat : ¬atStep (s.updPins c fun p => { p with loopClosed := closed }) c 4 = true := by
    simpa [atStep] using h
  unfold loopChanges
  dsimp only
  rw [if_neg hat, if_neg (by simp [hconnected, hmeasuring])]

theorem atStep_held (h : (s.chan c).session.state = .connected ∨ (s.chan c).session.state = .measuring) :
    atStep s c n = false := by
  rcases h with h | h <;> simp [atStep, h]

theorem loopChanges_operator (h : (s.chan c).session.state = .connected ∨ (s.chan c).session.state = .measuring)
    (hp : (s.chan c).session.purpose = .operator) : loopChanges c closed s =
    emit { kind := if closed then .offHook else .onHook, channel := some c, line := some (s.chan c).session.line.val }
      ((s.updPins c fun p => { p with loopClosed := closed }).updSession c fun x => { x with offHook := closed }) := by
  have hat : ¬atStep (s.updPins c fun p => { p with loopClosed := closed }) c 4 = true := by
    simp [atStep_held (s := s.updPins c fun p => { p with loopClosed := closed }) (c := c) (n := 4) (by simpa using h)]
  unfold loopChanges
  dsimp only
  rw [if_neg hat, if_pos (by simpa using h), if_neg (by rw [purpose_automatic_iff]; simpa using hp)]
  simp

theorem loopChanges_automatic (h : (s.chan c).session.state = .connected ∨ (s.chan c).session.state = .measuring)
    (hp : (s.chan c).session.purpose ≠ .operator) : loopChanges c closed s =
    if closed then yieldSession c (s.updPins c fun p => { p with loopClosed := closed })
    else s.updPins c fun p => { p with loopClosed := closed } := by
  have hat : ¬atStep (s.updPins c fun p => { p with loopClosed := closed }) c 4 = true := by
    simp [atStep_held (s := s.updPins c fun p => { p with loopClosed := closed }) (c := c) (n := 4) (by simpa using h)]
  unfold loopChanges
  dsimp only
  rw [if_neg hat, if_pos (by simpa using h), if_pos (by rw [purpose_automatic_iff]; simpa using hp)]

/-- The record of a measurement that ends is its session's last result, and its engine is idle (R65, R71). -/
theorem closeMeasurement_chan {r : MeasureRecord} :
    ((closeMeasurement c r s).chan c).session = { (s.chan c).session with lastResult := some r } ∧
    ((closeMeasurement c r s).chan c).engine = .initial := by
  unfold closeMeasurement
  dsimp only
  split <;> simp

/-- An automatic session that yields releases from step 5, a measurement under way ended YIELDED (R34, R71). -/
theorem yieldSession_held (h : (s.chan c).session.state = .connected ∨ (s.chan c).session.state = .measuring) :
    ((yieldSession c s).chan c).session.state = .releasing ∧ ((yieldSession c s).chan c).session.relayStep = some 5 ∧
    ((yieldSession c s).chan c).seq.releasing = some .cutOff ∧
    ∀ r, (s.chan c).session.state = .measuring → (s.chan c).engine.record = some r →
      ((yieldSession c s).chan c).session.lastResult = some { r with outcome := some .yielded } ∧
      ((yieldSession c s).chan c).engine.phase = .idle := by
  have hyields : ∀ v : State, ((releaseAutomatic c v).chan c).session =
      { (v.chan c).session with state := .releasing, relayStep := some 5 } ∧
      ((releaseAutomatic c v).chan c).seq.releasing = some .cutOff ∧
      ((releaseAutomatic c v).chan c).engine = (v.chan c).engine := by
    intro v
    rw [releaseAutomatic, enterReleasing_driven (n := 5) (by simp)]
    simp [giveRelease, engine_releaseDisturbs]
  have hheld : (s.chan c).session.state = .connected ∨ (s.chan c).engine.record = none →
      yieldSession c s = releaseAutomatic c (report .yielded s) := by
    intro hor
    unfold yieldSession
    rcases hor with hor | hor
    · simp [hor]
    · simp [hor]
  have hended : ∀ r, (s.chan c).session.state = .measuring → (s.chan c).engine.record = some r →
      yieldSession c s =
        releaseAutomatic c (report .yielded (closeMeasurement c { r with outcome := some .yielded } s)) := by
    intro r hstate hrecord
    unfold yieldSession
    simp [hstate, hrecord]
  cases hrecord : (s.chan c).engine.record with
  | none =>
    obtain ⟨hsession, hreleasing, -⟩ := hyields (report .yielded s)
    rw [hheld (.inr hrecord), hsession, hreleasing]
    exact ⟨rfl, rfl, rfl, fun r _ hr => absurd hr (by simp)⟩
  | some r =>
    rcases h with h | h
    · obtain ⟨hsession, hreleasing, -⟩ := hyields (report .yielded s)
      rw [hheld (.inl h), hsession, hreleasing]
      exact ⟨rfl, rfl, rfl, fun _ hmeasuring => by rw [h] at hmeasuring; cases hmeasuring⟩
    · obtain ⟨hsession, hreleasing, hengine⟩ :=
        hyields (report .yielded (closeMeasurement c { r with outcome := some .yielded } s))
      obtain ⟨hlast, hidle⟩ := closeMeasurement_chan (s := s) (c := c) (r := { r with outcome := some .yielded })
      rw [hended r h hrecord, hsession, hreleasing, hengine, chan_report, hlast, hidle]
      exact ⟨rfl, rfl, rfl, fun r' _ hr => by cases hr; exact ⟨rfl, rfl⟩⟩

end Loop

/-- Settles O27. -/
theorem busyTestBeginsStepFiveOrReleases : Obligations.BusyTestBeginsStepFiveOrReleases := by
  intro s c hstate hstep
  have hat : atStep s c 4 = true := by simp [atStep_of hstate hstep]
  refine ⟨fun closed => congrArg _ (loopChanges_busyTest hat), fun h => ⟨beginStep5 c s, ?_, ?_⟩, fun hinUse hforced hp hout => ?_⟩
  · exact (exec_busyTestEnd c s).trans (by rw [if_pos hat, busyTestEnds_free h])
  · simp [beginStep5, operateBegins, Config.confirmTime]
  · have hexec : exec (.busyTestEnd c) s = .next (enterReleasing c (fixSession c .lineInUse s)) := by
      rw [exec_busyTestEnd, if_pos hat, busyTestEnds_inUse hinUse hforced hp]
    obtain ⟨hsession, houtcome, -, hreleasing⟩ := releasing_of_driven (s := fixSession c .lineInUse s) (c := c) (n := 4)
      (by simpa using hstep)
    refine ⟨_, hexec, by rw [hsession], by rw [hsession]; simpa using hstep, ?_, hreleasing, ?_, fun hquiet => ?_⟩
    · rw [houtcome]
      simp [fixSession, hout]
    · simp [fixSession]
    · obtain ⟨hlink, hport, -⟩ := enterReleasing_unquieted (s := fixSession c .lineInUse s) (c := c) (n := 4)
        (by simpa using hstep) (by rw [quietHolder_of_roster (s := s) (by simp [fixSession])]; simpa using hquiet)
      rw [hlink, hport]
      simp [fixSession]

/-- Settles O28. -/
theorem loopChangesActOnAHeldLine : Obligations.LoopChangesActOnAHeldLine := by
  intro s c closed
  refine ⟨fun h hp hroom => ?_, fun h hp hclosed => ?_, fun h => ?_⟩
  · refine ⟨_, (exec_loopClosureChange c closed s).trans (congrArg _ (loopChanges_operator h hp)), by simp, by simp,
      by simp, ?_⟩
    rw [port_emit_of_room (by simpa using hroom)]
    simp [portWith]
  · subst hclosed
    refine ⟨_, (exec_loopClosureChange c true s).trans (congrArg _ ((loopChanges_automatic h hp).trans (if_pos rfl))), ?_⟩
    have hyields := yieldSession_held (s := s.updPins c fun p => { p with loopClosed := true }) (c := c) (by simpa using h)
    simpa using hyields
  · rw [exec_loopClosureChange]
    rcases h with ⟨hconnected, hmeasuring, hstep⟩ | ⟨hheld, hp, rfl⟩
    · refine congrArg _ (loopChanges_elsewhere ?_ hconnected hmeasuring)
      rw [atStep, Bool.and_eq_false_iff]
      rcases hstep with hstep | hstep
      · exact .inl (beq_false_of_ne hstep)
      · exact .inr (beq_false_of_ne hstep)
    · exact congrArg _ ((loopChanges_automatic hheld hp).trans (if_neg Bool.false_ne_true))

/-! ### The release sequence -/

section ReleaseSequence

variable {s : State} {c : Channel} {h : Holder} {r : Relay}

theorem exec_releaseWaitEnd (c : Channel) (s : State) : exec (.releaseWaitEnd c) s = .next (releaseWaitEnds c s) := rfl

theorem exec_guardEnd (c : Channel) (s : State) : exec (.guardEnd c) s =
    .next (if (s.chan c).session.state = .guard then enterClosing c s else s) := rfl

theorem releaseWaitEnds_next {n : Relay} (hstate : (s.chan c).session.state = .releasing)
    (hr : (s.chan c).seq.releasing = some r) (hn : nextRelease r = some n) :
    releaseWaitEnds c s = giveRelease c n s := by
  simp only [releaseWaitEnds, hstate, hr, hn]

theorem releaseWaitEnds_last (hstate : (s.chan c).session.state = .releasing)
    (hr : (s.chan c).seq.releasing = some .selector) : releaseWaitEnds c s = enterGuard c s := by
  simp only [releaseWaitEnds, hstate, hr, nextRelease]

/-- A record's wait list after one holder has left (R136). -/
def waitsWithout (h : Holder) (q : QuietRecord) : QuietRecord := { q with waitList := q.waitList.filter (· != h) }

theorem waitsWithout_eq (q : QuietRecord) : waitsWithout h q =
    { q with waitList := q.waitList.filter fun x => decide (x ≠ h) } := by
  simp [waitsWithout, bne, beq_eq_decide]

/-- The last holder to leave a record whose settle has ended (R137). -/
def LastToLeave (h : Holder) (r : ChannelRecord) : Prop :=
  r.quiet.phase = .settling ∧ r.quiet.settled = true ∧ (waitsWithout h r.quiet).waitList = [] ∧
    r.engine.phase = .quietWait

theorem leaveWait_last (hlast : LastToLeave h (s.chan c)) : leaveWait c h s =
    startRunning c false ((s.updQuiet c (waitsWithout h)).updQuiet c fun q => { q with phase := .held }) := by
  unfold leaveWait startIfSettled
  obtain ⟨hphase, hsettled, hlist, hengine⟩ := hlast
  exact if_pos ⟨by simpa using hphase, by simpa using hsettled, by simpa [waitsWithout] using hlist,
    by simpa using hengine⟩

theorem leaveWait_other (hlast : ¬LastToLeave h (s.chan c)) : leaveWait c h s = s.updQuiet c (waitsWithout h) := by
  unfold leaveWait startIfSettled
  refine if_neg fun hall => hlast ?_
  obtain ⟨hphase, hsettled, hlist, hengine⟩ := hall
  exact ⟨by simpa using hphase, by simpa using hsettled, by simpa [waitsWithout] using hlist, by simpa using hengine⟩

/-- As its sequence ends, a session leaves the wait list of the other channel's record (R136, R137). -/
theorem sequenceEnds_other (hlast : ¬LastToLeave .own (s.chan c.other)) : (sequenceEnds c s).chan c.other =
    { s.chan c.other with quiet := waitsWithout .own (s.chan c.other).quiet } := by
  rw [sequenceEnds_eq, leaveWait_other, chan_updQuiet, chan_offersUrgent, chan_updClears_other]
  rwa [chan_offersUrgent, chan_updClears_other]

theorem sequenceEnds_last (hlast : LastToLeave .own (s.chan c.other)) :
    ((sequenceEnds c s).chan c.other).quiet = { (s.chan c.other).quiet with phase := .held, waitList := [] } ∧
      ((sequenceEnds c s).chan c.other).engine.phase = .running ∧
      ((sequenceEnds c s).chan c.other).session = (s.chan c.other).session := by
  obtain ⟨-, -, hlist, -⟩ := id hlast
  rw [sequenceEnds_eq, leaveWait_last]
  · refine ⟨?_, by simp [startRunning], by simp [startRunning, chan_offersUrgent]⟩
    rw [← hlist]
    simp [startRunning, chan_offersUrgent, waitsWithout]
  · rwa [chan_offersUrgent, chan_updClears_other]

theorem linkWith_foldl_room (o : Option Channel) (bs : List FrameBody) (l : Link) :
    (bs.foldl (fun l b => linkWith b o l) l).waiting = l.waiting ∧
      (bs.foldl (fun l b => linkWith b o l) l).queue.length = l.queue.length + bs.length := by
  induction bs generalizing l with
  | nil => exact ⟨rfl, rfl⟩
  | cons b bs ih =>
    obtain ⟨hwaiting, hlength⟩ := ih (linkWith b o l)
    rw [List.foldl_cons, hwaiting, hlength]
    refine ⟨rfl, ?_⟩
    simp only [linkWith, List.length_append, List.length_cons, List.length_nil]
    omega

/-- The session in GUARD, before the end of its sequence is told (R32). -/
def sessionGuarded (c : Channel) (s : State) : State :=
  (s.updSession c fun x => { x with state := .guard }).updSeq c fun q =>
    { q with releasing := none, waitEnd := some (s.now + s.guardTime (s.chan c).session.block) }

theorem enterGuard_waits (hg : s.guardTime (s.chan c).session.block ≠ 0) :
    enterGuard c s = sequenceEnds c (sessionGuarded c s) := if_neg hg

theorem enterGuard_closes (hg : s.guardTime (s.chan c).session.block = 0) :
    enterGuard c s = enterClosing c (sequenceEnds c (sessionGuarded c s)) := if_pos hg

/-- CLOSING queues the RELEASE at once where there is room for it (R32). -/
theorem enterClosing_of_room (hwaiting : s.link.waiting = []) (hslots : s.link.queue.length < 12) :
    (enterClosing c s).link = linkWith (.release (s.chan c).session.line (s.chan c).session.trunk) (some c) s.link ∧
      (enterClosing c s).port = s.port ∧ (enterClosing c s).chan c.other = s.chan c.other := by
  have hoffer := offerUrgent_of_room (b := .release (s.chan c).session.line (s.chan c).session.trunk) (o := some c)
    (s := (s.updSession c fun x => { x with state := .closing }).updSeq c fun q =>
      { q with waitEnd := none, releasing := none }) (by simpa using hwaiting) (by simpa using hslots)
  rw [enterClosing, hoffer, link_enqueue]
  simp

@[simp] theorem chan_other_enterClosing : (enterClosing c s).chan c.other = s.chan c.other := by
  simp [enterClosing]

@[simp] theorem clears_enterClosing : ((enterClosing c s).chan c).clears = (s.chan c).clears := by
  simp [enterClosing]

/-! GUARD, or CLOSING where the block's guard time is 0 (R32). -/

theorem enterGuard_session : ((enterGuard c s).chan c).session = { (s.chan c).session with
    state := if s.guardTime (s.chan c).session.block = 0 then .closing else .guard } := by
  by_cases hg : s.guardTime (s.chan c).session.block = 0
  · rw [enterGuard_closes hg, if_pos hg]
    simp [sessionGuarded]
  · rw [enterGuard_waits hg, if_neg hg]
    simp [sessionGuarded]

theorem enterGuard_releasing : ((enterGuard c s).chan c).seq.releasing = none := by
  by_cases hg : s.guardTime (s.chan c).session.block = 0
  · simp [enterGuard_closes hg]
  · simp [enterGuard_waits hg, sessionGuarded]

theorem enterGuard_waitEnd : ((enterGuard c s).chan c).seq.waitEnd =
    if s.guardTime (s.chan c).session.block = 0 then none
    else some (s.now + s.guardTime (s.chan c).session.block) := by
  by_cases hg : s.guardTime (s.chan c).session.block = 0
  · simp [enterGuard_closes hg, hg]
  · simp [enterGuard_waits hg, sessionGuarded, hg]

theorem enterGuard_clears : ((enterGuard c s).chan c).clears =
    (s.chan c).clears.map fun k => { k with clearQueued := true } := by
  by_cases hg : s.guardTime (s.chan c).session.block = 0
  · simp [enterGuard_closes hg, sessionGuarded]
  · simp [enterGuard_waits hg, sessionGuarded]

theorem enterGuard_other : (enterGuard c s).chan c.other = (sequenceEnds c (sessionGuarded c s)).chan c.other := by
  by_cases hg : s.guardTime (s.chan c).session.block = 0
  · rw [enterGuard_closes hg, chan_other_enterClosing]
  · rw [enterGuard_waits hg]

/-- With room for them, the clears owed and the RELEASE of a guard of 0 are queued in their order (R135). -/
theorem enterGuard_link (hwaiting : s.link.waiting = [])
    (hslots : s.link.queue.length + (owedFrames (s.chan c).clears ++
      if s.guardTime (s.chan c).session.block = 0
      then [FrameBody.release (s.chan c).session.line (s.chan c).session.trunk] else []).length ≤ 12) :
    (enterGuard c s).link = (owedFrames (s.chan c).clears ++
      if s.guardTime (s.chan c).session.block = 0
      then [FrameBody.release (s.chan c).session.line (s.chan c).session.trunk] else []).foldl
        (fun l b => linkWith b (some c) l) s.link ∧ (enterGuard c s).port = s.port := by
  have hclears : ((sessionGuarded c s).chan c).clears = (s.chan c).clears := by simp [sessionGuarded]
  have hlink : (sessionGuarded c s).link = s.link := by simp [sessionGuarded]
  have hport : (sessionGuarded c s).port = s.port := by simp [sessionGuarded]
  have hends := sequenceEnds_of_room (s := sessionGuarded c s) (c := c) (by rw [hlink, hwaiting])
    (by rw [hlink, hclears]; rw [List.length_append] at hslots; omega)
  rw [hclears, hlink, hport] at hends
  by_cases hg : s.guardTime (s.chan c).session.block = 0
  · rw [if_pos hg] at hslots ⊢
    obtain ⟨hw, hlength⟩ := linkWith_foldl_room (some c) (owedFrames (s.chan c).clears) s.link
    obtain ⟨hclosing, hports, -⟩ := enterClosing_of_room (c := c) (s := sequenceEnds c (sessionGuarded c s))
      (by rw [hends.1, hw, hwaiting])
      (by rw [hends.1, hlength]; simp only [List.length_append, List.length_singleton] at hslots; omega)
    rw [enterGuard_closes hg, hclosing, hports, hends.1, hends.2, List.foldl_append]
    simp [sessionGuarded]
  · rw [if_neg hg, List.append_nil, enterGuard_waits hg]
    exact hends

end ReleaseSequence

/-- Settles O29. -/
theorem releaseStepsLeadToGuardAndClosing : Obligations.ReleaseStepsLeadToGuardAndClosing := by
  refine ⟨fun s c hstate => ⟨fun hr => ⟨giveRelease c .testRelay s, ?_, ?_⟩, fun hr => ⟨giveRelease c .selector s, ?_, ?_⟩,
    fun hr => ?_⟩, fun s c hstate hwaiting hslots => ⟨enterClosing c s, ?_, ?_⟩⟩
  · rw [exec_releaseWaitEnd, releaseWaitEnds_next hstate hr rfl]
  · simp [giveRelease, releasedDrives]
  · rw [exec_releaseWaitEnd, releaseWaitEnds_next hstate hr rfl]
  · simp [giveRelease, releasedDrives]
  · refine ⟨enterGuard c s, by rw [exec_releaseWaitEnd, releaseWaitEnds_last hstate hr], enterGuard_session, ?_, ?_,
      enterGuard_clears, fun hwaiting hslots => ?_, fun hstarts => ?_, fun hstarts => ?_⟩
    · exact enterGuard_releasing
    · exact enterGuard_waitEnd
    · exact enterGuard_link hwaiting (by simpa [owedFrames] using hslots)
    · have hlast : ¬LastToLeave .own ((sessionGuarded c s).chan c.other) := by
        simpa [LastToLeave, waitsWithout_eq, sessionGuarded] using hstarts
      rw [enterGuard_other, sequenceEnds_other hlast]
      simp [sessionGuarded, waitsWithout_eq]
    · have hlast : LastToLeave .own ((sessionGuarded c s).chan c.other) := by
        simpa [LastToLeave, waitsWithout_eq, sessionGuarded] using hstarts
      obtain ⟨hquiet, hengine, hsession⟩ := sequenceEnds_last hlast
      rw [enterGuard_other, hquiet, hengine, hsession]
      simp [sessionGuarded]
  · rw [exec_guardEnd, if_pos hstate]
  · obtain ⟨hlink, hport, hother⟩ := enterClosing_of_room (c := c) hwaiting hslots
    exact ⟨session_enterClosing, hlink, hother, store_enterClosing, hport⟩

end Sys2Proof.Machine
end

section
/-! The readings of a measurement (O30), its end by the last answer (O31), and by HEAD TIMEOUT or CANCEL (O32). -/

namespace Sys2Proof.Machine

/-! ### The readings -/

section Readings

variable {s : State} {c : Channel} {a b : HeadAnswer} {q : HeadRequest} {k : Copies} {r r' : MeasureRecord}

theorem exec_headAnswer (c : Channel) (a : HeadAnswer) (s : State) : exec (.headAnswer c a) s = .next (takeAnswer c a s) :=
  rfl

theorem takeAnswer_discarded (h : (s.chan c).engine.request = none) : takeAnswer c a s = s := by
  simp only [takeAnswer, h]

theorem updEngine_updEngine (f g : EngineRecord → EngineRecord) :
    (s.updEngine c f).updEngine c g = s.updEngine c fun e => g (f e) := by
  cases c <;> rfl

/-- An answer that is not the last writes its value and asks for the next reading (R51). -/
theorem takeAnswer_next {rd : Reading} (hq : (s.chan c).engine.request = some q) (hk : (s.chan c).engine.copies = some k)
    (hr : (s.chan c).engine.record = some r)
    (hp : afterReading k q.reading (limitAnswer q.samples a) r = (r', some rd)) :
    takeAnswer c a s = s.updEngine c fun e => { e with
      request := some (requestFor r' s.now rd), raw := some (limitAnswer q.samples a), record := some r' } := by
  simp only [takeAnswer, hq, hk, hr, hp, sendRequest, updEngine_updEngine, now_updEngine, Option.map_some]

/-- The last answer writes its value and ends the measurement (R51). -/
theorem takeAnswer_last (hq : (s.chan c).engine.request = some q) (hk : (s.chan c).engine.copies = some k)
    (hr : (s.chan c).engine.record = some r)
    (hp : afterReading k q.reading (limitAnswer q.samples a) r = (r', none)) :
    takeAnswer c a s = measurementDone c k r' (s.updEngine c fun e => { e with
      request := none, raw := some (limitAnswer q.samples a), record := some r' }) := by
  simp only [takeAnswer, hq, hk, hr, hp]

/-- The leg that the first range stage of a stage set names (R51). -/
def FirstLeg (g : StageSet) (l : Leg) : Prop :=
  (l = .tr ∧ g.resTR = true) ∨ (l = .tg ∧ g.resTR = false ∧ g.resTG = true) ∨
    (l = .rg ∧ g.resTR = false ∧ g.resTG = false ∧ g.resRG = true)

theorem readingFromTR_first {g : StageSet} {l : Leg} (h : FirstLeg g l) :
    readingFromTR g = some (.range l .high) := by
  rcases h with ⟨rfl, hTR⟩ | ⟨rfl, hTR, hTG⟩ | ⟨rfl, hTR, hTG, hRG⟩
  · exact if_pos hTR
  · simp [readingFromTR, readingFromTG, hTR, hTG]
  · simp [readingFromTR, readingFromTG, readingFromRG, hTR, hTG, hRG]

theorem readingFromTR_none {g : StageSet} (h : g.resTR = false ∧ g.resTG = false ∧ g.resRG = false) :
    readingFromTR g = none := by
  obtain ⟨hTR, hTG, hRG⟩ := h
  simp [readingFromTR, readingFromTG, readingFromRG, hTR, hTG, hRG]

theorem isSome_readingFromCap (g : StageSet) :
    (readingFromCap g).isSome = (g.cap || g.resTR || g.resTG || g.resRG) := by
  unfold readingFromCap readingFromTR readingFromTG readingFromRG
  cases g.cap <;> cases g.resTR <;> cases g.resTG <;> cases g.resRG <;> rfl

/-- A range answer that stands is the leg's value (R55). -/
theorem afterReading_stands {l : Leg} {g : Range} (h : g = .high → 64 * r.n ≤ b.sum.natAbs) :
    afterReading k (.range l g) b r = (withLeg k l g b.sum r, readingAfter r.stages (.range l g)) := by
  cases g with
  | high => exact if_neg (Nat.not_lt.2 (h rfl))
  | low => rfl

theorem afterReading_toLow {l : Leg} (h : b.sum.natAbs < 64 * r.n) :
    afterReading k (.range l .high) b r = (r, some (.range l .low)) := if_pos h

theorem stages_withLeg {l : Leg} {g : Range} {n : Int} : (withLeg k l g n r).stages = r.stages := by cases l <;> rfl
theorem n_withLeg {l : Leg} {g : Range} {n : Int} : (withLeg k l g n r).n = r.n := by cases l <;> rfl
theorem extension_withLeg {l : Leg} {g : Range} {n : Int} : (withLeg k l g n r).extension = r.extension := by
  cases l <;> rfl

/-- The reading after one range reading of a leg `l` is of the next leg that the stage set names (R51). -/
theorem readingAfter_range {g : StageSet} {l l' : Leg} (x : Range)
    (h : (l = .tr ∧ l' = .tg ∧ g.resTG = true) ∨ (l = .tr ∧ l' = .rg ∧ g.resTG = false ∧ g.resRG = true) ∨
      (l = .tg ∧ l' = .rg ∧ g.resRG = true)) : readingAfter g (.range l x) = some (.range l' .high) := by
  rcases h with ⟨rfl, rfl, hTG⟩ | ⟨rfl, rfl, hTG, hRG⟩ | ⟨rfl, rfl, hRG⟩
  · simp [readingAfter, readingFromTG, hTG]
  · simp [readingAfter, readingFromTG, readingFromRG, hTG, hRG]
  · simp [readingAfter, readingFromRG, hRG]

theorem readingAfter_range_none {g : StageSet} {l : Leg} (x : Range)
    (h : l = .rg ∨ (l = .tg ∧ g.resRG = false) ∨ (l = .tr ∧ g.resTG = false ∧ g.resRG = false)) :
    readingAfter g (.range l x) = none := by
  rcases h with rfl | ⟨rfl, hRG⟩ | ⟨rfl, hTG, hRG⟩
  · rfl
  · simp [readingAfter, readingFromRG, hRG]
  · simp [readingAfter, readingFromTG, readingFromRG, hTG, hRG]

/-- A foreign voltage that cuts a measurement short: SATURATED, or above twice the Vac limit (R53). -/
def FvCuts (t : Thresholds) (f : FvValue) : Prop := f.saturated = true ∨ 2 * t.vacLimit < f.ac

theorem fvCuts_iff (t : Thresholds) (r : MeasureRecord) : fvCuts t r = true ↔
    (∃ f, r.fvTG = some f ∧ FvCuts t f) ∨ ∃ f, r.fvRG = some f ∧ FvCuts t f := by
  simp [fvCuts, FvCuts, Option.any_eq_true, or_comm]

theorem afterReading_cut (h : fvCuts k.thresholds { r with fvRG := some (fvOf b) } = true) :
    afterReading k (.fv .rg) b r = ({ r with
      fvRG := some (fvOf b)
      partialMark := r.stages.cap || r.stages.resTR || r.stages.resTG || r.stages.resRG }, none) := by
  rw [← isSome_readingFromCap]
  exact if_pos h

theorem afterReading_uncut (h : ¬fvCuts k.thresholds { r with fvRG := some (fvOf b) } = true) :
    afterReading k (.fv .rg) b r = ({ r with fvRG := some (fvOf b) }, readingFromCap r.stages) := if_neg h

theorem readingFromCap_cap {g : StageSet} (h : g.cap = true) : readingFromCap g = some .cap := if_pos h

theorem readingFromCap_range {g : StageSet} (h : g.cap = false) : readingFromCap g = readingFromTR g :=
  if_neg (by simp [h])

end Readings

/-- Settles O30: each answer by `takeAnswer_next` and the reading that follows. -/
theorem headAnswersDriveTheReadings : Obligations.HeadAnswersDriveTheReadings := by
  refine ⟨fun s c a h => (exec_headAnswer c a s).trans (by rw [takeAnswer_discarded h]), fun s c a q k r hq hk hr => ?_⟩
  have hnext : ∀ {r' : MeasureRecord} {rd : Reading},
      afterReading k q.reading (limitAnswer q.samples a) r = (r', some rd) →
      exec (.headAnswer c a) s = .next (s.updEngine c fun e => { e with
        request := some (requestFor r' s.now rd), raw := some (limitAnswer q.samples a), record := some r' }) :=
    fun hp => (exec_headAnswer c a s).trans (congrArg _ (takeAnswer_next hq hk hr hp))
  refine ⟨fun hread => ?_, fun l hread hlow => ?_, fun l g l' hread hstands hnextLeg => ?_, fun l hread hleg => ?_,
    fun f hread hf hsat hac hvsat hvac => ?_⟩
  · exact hnext (by rw [hread]; rfl)
  · exact hnext (by rw [hread, afterReading_toLow hlow])
  · have hexec := hnext (by rw [hread, afterReading_stands hstands, readingAfter_range g hnextLeg])
    rw [hexec, requestFor, extension_withLeg, n_withLeg]
    rfl
  · refine ⟨withCap k (limitAnswer q.samples a).time r, rfl, rfl, rfl, hnext (rd := .range l .high) ?_⟩
    rw [hread, afterReading, ← readingFromTR_first hleg]
    rfl
  · have huncut : ¬fvCuts k.thresholds { r with fvRG := some (fvOf (limitAnswer q.samples a)) } = true := by
      rw [fvCuts_iff]
      rintro (⟨g, hg, hcut⟩ | ⟨g, hg, hcut⟩)
      · have hgf : g = f := by simpa [hf] using hg.symm
        subst hgf
        rcases hcut with hcut | hcut
        · rw [hsat] at hcut
          cases hcut
        · omega
      · cases hg
        rcases hcut with hcut | hcut
        · rw [hvsat] at hcut
          cases hcut
        · omega
    refine ⟨fun hcap => hnext (rd := .cap) ?_, fun l hcap hleg =>
      hnext (r' := { r with fvRG := some (fvOf (limitAnswer q.samples a)) }) (rd := .range l .high) ?_⟩
    · rw [hread, afterReading_uncut huncut, readingFromCap_cap hcap]
    · rw [hread, afterReading_uncut huncut, readingFromCap_range hcap, readingFromTR_first hleg]

/-! ### A result handed to the Ticket Store, beside the channels -/

section Handed

variable {s t : State} {c : Channel} {x : ChannelRecord} {e : Event} {b : FrameBody} {f : QueuedFrame} {l : Line}
  {o : Observation} {n : TicketNo}

/-! What these operations do, they do whatever a channel's records are. -/

theorem emit_setChan : emit e (s.setChan c x) = (emit e s).setChan c x := by
  unfold emit
  rw [port_setChan]
  split <;> cases c <;> rfl

theorem updTickets_setChan (g : TicketStore → TicketStore) :
    (s.setChan c x).updTickets g = (s.updTickets g).setChan c x := by
  cases c <;> rfl

theorem updLink_setChan (g : Link → Link) : (s.setChan c x).updLink g = (s.updLink g).setChan c x := by
  cases c <;> rfl

theorem enqueue_setChan (q : QueuedBody) (d : Option Channel) :
    enqueue q d (s.setChan c x) = (enqueue q d s).setChan c x := by
  cases c <;> rfl

theorem failHandover_setChan (k : Ticket) (h : Handover) (y : HandoverReason) :
    failHandover k h y (s.setChan c x) = (failHandover k h y s).setChan c x := by
  rw [failHandover, updTickets_setChan, emit_setChan, failHandover]

theorem tellDropped_setChan : tellDropped b (s.setChan c x) = (tellDropped b s).setChan c x := by
  unfold tellDropped
  simp only [ticketStore_setChan, failHandover_setChan, updTickets_setChan]
  repeat' split
  all_goals rfl

theorem tellDroppedFrame_setChan : tellDroppedFrame f (s.setChan c x) = (tellDroppedFrame f s).setChan c x := by
  unfold tellDroppedFrame
  split
  · exact tellDropped_setChan
  · rfl
  · rfl

theorem setLinkError_setChan : setLinkError (s.setChan c x) = (setLinkError s).setChan c x := by
  unfold setLinkError
  rw [link_setChan, updLink_setChan, emit_setChan]
  split <;> rfl

theorem holdFrame_setChan : holdFrame f (s.setChan c x) = (holdFrame f s).setChan c x := by
  unfold holdFrame
  simp only [link_setChan, updLink_setChan, setLinkError_setChan, tellDroppedFrame_setChan]
  repeat' split
  all_goals rfl

theorem offerNotice_setChan : offerNotice b (s.setChan c x) = (offerNotice b s).setChan c x := by
  unfold offerNotice
  simp only [link_setChan, enqueue_setChan, holdFrame_setChan]
  split <;> rfl

theorem appendObservation_setChan : appendObservation n o (s.setChan c x) = (appendObservation n o s).setChan c x := by
  unfold appendObservation
  simp only [ticketStore_setChan, updTickets_setChan, emit_setChan]
  repeat' split
  all_goals rfl

theorem storeFailure_setChan : storeFailure l o (s.setChan c x) =
    ((storeFailure l o s).1, (storeFailure l o s).2.setChan c x) := by
  unfold storeFailure
  simp only [ticketStore_setChan, store_setChan, appendObservation_setChan, offerNotice_setChan, updTickets_setChan,
    emit_setChan]
  repeat' split
  all_goals rfl

theorem storeNoisy_setChan : storeNoisy l o (s.setChan c x) =
    ((storeNoisy l o s).1, (storeNoisy l o s).2.setChan c x) := by
  unfold storeNoisy
  simp only [ticketStore_setChan, appendObservation_setChan]
  split <;> rfl

theorem storeResult_setChan : storeResult l o (s.setChan c x) =
    ((storeResult l o s).1, (storeResult l o s).2.setChan c x) := by
  unfold storeResult
  simp only [storeFailure_setChan, storeNoisy_setChan]
  repeat' split
  all_goals rfl

/-- What the Ticket Store answers is read from its tickets and its index. -/
theorem storeResult_answer (h : t.ticketStore = s.ticketStore) : (storeResult l o t).1 = (storeResult l o s).1 := by
  unfold storeResult storeNoisy storeFailure
  simp only [h]
  repeat' split
  all_goals rfl

/-! None of them hands in a completion. -/

@[simp] theorem done_updTickets (g : TicketStore → TicketStore) (d : Channel) : (s.updTickets g).done d = s.done d := rfl
@[simp] theorem done_updLink (g : Link → Link) (d : Channel) : (s.updLink g).done d = s.done d := rfl
@[simp] theorem done_enqueue (q : QueuedBody) (k : Option Channel) (d : Channel) : (enqueue q k s).done d = s.done d := rfl

theorem done_emit (he : e.kind.isCompletion = false) (d : Channel) : (emit e s).done d = s.done d := by
  unfold emit
  split
  · simp [State.done, enterEvent, Event.completes, he]
  · rfl

@[simp] theorem done_failHandover (k : Ticket) (h : Handover) (y : HandoverReason) (d : Channel) :
    (failHandover k h y s).done d = s.done d := done_emit rfl d

@[simp] theorem done_tellDropped (d : Channel) : (tellDropped b s).done d = s.done d := by
  unfold tellDropped
  repeat' split
  all_goals simp

@[simp] theorem done_tellDroppedFrame (d : Channel) : (tellDroppedFrame f s).done d = s.done d := by
  unfold tellDroppedFrame
  split <;> simp

@[simp] theorem done_setLinkError (d : Channel) : (setLinkError s).done d = s.done d := by
  unfold setLinkError
  split
  · rfl
  · exact done_emit rfl d

@[simp] theorem done_holdFrame (d : Channel) : (holdFrame f s).done d = s.done d := by
  unfold holdFrame
  repeat' split
  all_goals simp

@[simp] theorem done_offerNotice (d : Channel) : (offerNotice b s).done d = s.done d := by
  unfold offerNotice
  split <;> simp

@[simp] theorem done_appendObservation (d : Channel) : (appendObservation n o s).done d = s.done d := by
  unfold appendObservation
  dsimp only
  repeat' split
  · rfl
  · exact done_emit rfl d
  · rfl

theorem done_storeFailure (d : Channel) : (storeFailure l o s).2.done d = s.done d := by
  unfold storeFailure
  dsimp only
  repeat' split
  · simp
  · simp
  · exact done_emit rfl d
  · exact done_emit rfl d

theorem done_storeNoisy (d : Channel) : (storeNoisy l o s).2.done d = s.done d := by
  unfold storeNoisy
  split <;> simp

theorem done_storeResult (d : Channel) : (storeResult l o s).2.done d = s.done d := by
  unfold storeResult
  repeat' split
  · rfl
  · exact done_storeNoisy d
  · exact done_storeFailure d

end Handed

/-! ### The end of a measurement -/

section MeasurementEnds

variable {s w : State} {c : Channel} {k : Copies} {r r' : MeasureRecord} {o : EventOutcome} {d : Option Deciding}
  {ans : TicketAnswer}

/-- With room in the queue, the end of a quiet is told by its frame alone (R139). -/
theorem quietEndAsked_of_room (h : UrgentRoom s) :
    (quietEndAsked c s).port = s.port ∧ (quietEndAsked c s).ticketStore = s.ticketStore := by
  obtain ⟨hwaiting, hslots⟩ := h
  have hend : (endQuiet c s).port = s.port ∧ (endQuiet c s).ticketStore = s.ticketStore := by
    unfold endQuiet
    split
    · exact ⟨rfl, rfl⟩
    · rw [offerUrgent_of_room (by simpa using hwaiting) (by simpa using hslots)]
      simp
  have hremoved : ∀ f, (removeIfQueued f s).port = s.port ∧ (removeIfQueued f s).ticketStore = s.ticketStore := by
    intro f
    cases f with
    | none => exact ⟨rfl, rfl⟩
    | some f => simp [removeIfQueued_some]
  unfold quietEndAsked
  split
  · exact ⟨rfl, rfl⟩
  · simp
  · split
    · simp
    · simp [hremoved]
  · exact hend
  · exact hend
  · simp

theorem closeMeasurement_quietless (h : needsQuiet r.stages = false) : closeMeasurement c r s =
    (s.updSession c fun x => { x with lastResult := some r }).updEngine c fun _ => .initial := by
  unfold closeMeasurement
  rw [h]
  rfl

theorem closeMeasurement_of_room (h : needsQuiet r.stages = false ∨ UrgentRoom s) :
    (closeMeasurement c r s).port = s.port ∧ (closeMeasurement c r s).ticketStore = s.ticketStore := by
  unfold closeMeasurement
  dsimp only
  split
  · next hquiet =>
      have hroom := quietEndAsked_of_room (c := c) (h.resolve_left (by simp [hquiet]))
      simpa using hroom
  · simp

/-- An operator's measurement that ends leaves its session CONNECTED with the record as last result (R30, R65). -/
def measurementClosed (c : Channel) (r : MeasureRecord) (s : State) : State := backToConnected c (closeMeasurement c r s)

theorem measurementClosed_chan :
    ((measurementClosed c r s).chan c).session =
      { (s.chan c).session with state := .connected, lastResult := some r } ∧
    ((measurementClosed c r s).chan c).engine = .initial := by
  obtain ⟨hsession, hengine⟩ := closeMeasurement_chan (s := s) (c := c) (r := r)
  rw [measurementClosed, backToConnected, chan_updSession]
  exact ⟨by rw [hsession], hengine⟩

@[simp] theorem store_measurementClosed : (measurementClosed c r s).store = s.store := by
  simp [measurementClosed, backToConnected]

/-- The state in which MEASURE-DONE is given out (R64, R68). -/
theorem measureDone_chan : ((measureDone c o d ans w).chan c).session = (w.chan c).session ∧
    ((measureDone c o d ans w).chan c).engine = (w.chan c).engine ∧
    ((measureDone c o d ans w).chan c).command = none ∧ (measureDone c o d ans w).ticketStore = w.ticketStore ∧
    (measureDone c o d ans w).link = w.link ∧ (measureDone c o d ans w).store = w.store := by
  simp [measureDone]

theorem done_after_complete {e : Event} (he : e.kind.isCompletion = true) : (complete c e w).done c = true := by
  cases h : w.done c with
  | false => exact done_complete he h
  | true => rw [complete, h, done_setCommand, if_pos rfl, h]

theorem done_measureDone : (measureDone c o d ans w).done c = true := done_after_complete rfl

theorem events_measureDone (h : w.done c = false) : (measureDone c o d ans w).port.events = w.port.events ++
    [{ kind := .measureDone, time := w.store.clock, channel := some c, line := some (w.chan c).session.line.val,
       trunk := some (w.chan c).session.trunk, outcome := some o, ticket := ans.1, station := ans.2, deciding := d
       lostBefore := w.port.lost }] := by
  rw [measureDone, complete_of_free h, port_setCommand]
  rfl

/-- The result of a measurement as the Ticket Store is given it (R146). -/
def resultOf (s : State) (k : Copies) (r : MeasureRecord) : Observation :=
  ⟨s.store.clock, .ownOperator, classOf k r, decidingOf k r (classOf k r), r.noisy⟩

/-- Whether a measurement's class is handed to the Ticket Store (R68). -/
def HandsIn (s : State) (c : Channel) (k : Copies) (r : MeasureRecord) : Prop :=
  classOf k r ≠ .pass ∧ (s.chan c).engine.ticketFlag = true

theorem failing_iff (x : FaultClass) : x.failing = true ↔ x ≠ .pass := by
  cases x <;> decide

theorem measurementDone_hands (hp : (s.chan c).session.purpose = .operator) (h : HandsIn s c k r) :
    measurementDone c k r s =
      measureDone c (.cls (classOf k r)) (decidingOf k r (classOf k r))
        (storeResult (s.chan c).session.line (resultOf s k r) (measurementClosed c (classified k r) s)).1
        (storeResult (s.chan c).session.line (resultOf s k r) (measurementClosed c (classified k r) s)).2 := by
  obtain ⟨hcls, hflag⟩ := h
  have hclock : (measurementClosed c (classified k r) s).store.clock = s.store.clock := by simp
  refine (if_neg (by rw [purpose_automatic_iff]; exact not_not_intro hp)).trans
    ((if_pos (by rw [(failing_iff _).2 hcls, hflag]; rfl)).trans ?_)
  rw [resultOf, ← hclock]
  rfl

theorem measurementDone_keeps (hp : (s.chan c).session.purpose = .operator) (h : ¬HandsIn s c k r) :
    measurementDone c k r s = measureDone c (.cls (classOf k r)) (decidingOf k r (classOf k r)) (none, none)
      (measurementClosed c (classified k r) s) := by
  have hnot : ¬((classOf k r).failing && (s.chan c).engine.ticketFlag) = true := by
    rw [Bool.and_eq_true, failing_iff]
    exact h
  exact (if_neg (by rw [purpose_automatic_iff]; exact not_not_intro hp)).trans (if_neg hnot)

/-- The state beside the port in which an operator's MEASURE-DONE is given out, by whether the class is handed in. -/
theorem measurementDone_cases (hp : (s.chan c).session.purpose = .operator) :
    ∃ w ans, measurementDone c k r s = measureDone c (.cls (classOf k r)) (decidingOf k r (classOf k r)) ans w ∧
      (w.chan c = (measurementClosed c (classified k r) s).chan c) ∧ w.store = s.store ∧
      w.done c = (measurementClosed c (classified k r) s).done c ∧
      (HandsIn s c k r →
        ans = (storeResult (s.chan c).session.line (resultOf s k r) (measurementClosed c (classified k r) s)).1 ∧
        w = (storeResult (s.chan c).session.line (resultOf s k r) (measurementClosed c (classified k r) s)).2) ∧
      (¬HandsIn s c k r → ans = (none, none) ∧ w = measurementClosed c (classified k r) s) := by
  by_cases h : HandsIn s c k r
  · have hb : Beside (measurementClosed c (classified k r) s)
        (storeResult (s.chan c).session.line (resultOf s k r) (measurementClosed c (classified k r) s)).2 :=
      beside_storeResult.2 (Beside.refl _)
    exact ⟨_, _, measurementDone_hands hp h, hb.chan c, hb.store.trans store_measurementClosed, done_storeResult c,
      fun _ => ⟨rfl, rfl⟩, fun hn => absurd h hn⟩
  · exact ⟨_, _, measurementDone_keeps hp h, rfl, store_measurementClosed, rfl, fun hn => absurd hn h,
      fun _ => ⟨rfl, rfl⟩⟩

/-- The last answer, whichever reading it ends (R51, R53). -/
theorem afterReading_last {b : HeadAnswer} {rd : Reading} (h :
    (∃ l g, rd = .range l g ∧ (g = .high → 64 * r.n ≤ b.sum.natAbs) ∧
        (l = .rg ∨ (l = .tg ∧ r.stages.resRG = false) ∨ (l = .tr ∧ r.stages.resTG = false ∧ r.stages.resRG = false)) ∧
        r' = withLeg k l g b.sum r) ∨
      (rd = .cap ∧ (r.stages.resTR = false ∧ r.stages.resTG = false ∧ r.stages.resRG = false) ∧
        r' = withCap k b.time r) ∨
      (rd = .fv .rg ∧ ¬FvCuts k.thresholds (fvOf b) ∧ (∀ f, r.fvTG = some f → ¬FvCuts k.thresholds f) ∧
        r.stages.cap = false ∧ (r.stages.resTR = false ∧ r.stages.resTG = false ∧ r.stages.resRG = false) ∧
        r' = { r with fvRG := some (fvOf b) }) ∨
      (rd = .fv .rg ∧ (FvCuts k.thresholds (fvOf b) ∨ ∃ f, r.fvTG = some f ∧ FvCuts k.thresholds f) ∧
        r' = { r with
          fvRG := some (fvOf b)
          partialMark := r.stages.cap || r.stages.resTR || r.stages.resTG || r.stages.resRG })) :
    afterReading k rd b r = (r', none) ∧ r'.stages = r.stages ∧ r'.noisy = r.noisy := by
  rcases h with ⟨l, g, rfl, hstands, hlast, rfl⟩ | ⟨rfl, hrange, rfl⟩ | ⟨rfl, hv, hf, hcap, hrange, rfl⟩ |
    ⟨rfl, hcut, rfl⟩
  · refine ⟨by rw [afterReading_stands hstands, readingAfter_range_none g hlast], stages_withLeg, ?_⟩
    cases l <;> rfl
  · refine ⟨?_, rfl, rfl⟩
    rw [afterReading, ← readingFromTR_none hrange]
    rfl
  · refine ⟨?_, rfl, rfl⟩
    rw [afterReading_uncut, readingFromCap_range hcap, readingFromTR_none hrange]
    rw [fvCuts_iff]
    rintro (⟨f, hfr, hcut⟩ | ⟨f, hfr, hcut⟩)
    · exact hf f hfr hcut
    · cases hfr
      exact hv hcut
  · refine ⟨afterReading_cut ?_, rfl, rfl⟩
    rw [fvCuts_iff]
    rcases hcut with hcut | hcut
    · exact .inr ⟨_, rfl, hcut⟩
    · exact .inl hcut

end MeasurementEnds

/-- The engine as the last answer is written, before the measurement ends (R51). -/
def lastAnswered (c : Channel) (b : HeadAnswer) (r : MeasureRecord) (s : State) : State :=
  s.updEngine c fun e => { e with request := none, raw := some b, record := some r }

theorem handsIn_lastAnswered {s : State} {c : Channel} {b : HeadAnswer} {k : Copies} {r : MeasureRecord} :
    HandsIn (lastAnswered c b r s) c k r ↔ HandsIn s c k r := by
  simp [HandsIn, lastAnswered]

/-- A measurement that needed no quiet ends on its own channel alone. -/
theorem measurementClosed_setChan {s : State} {c : Channel} {b : HeadAnswer} {k : Copies} {r : MeasureRecord}
    (h : needsQuiet r.stages = false) : measurementClosed c (classified k r) (lastAnswered c b r s) =
      s.setChan c ((measurementClosed c (classified k r) (lastAnswered c b r s)).chan c) := by
  have hclosed : measurementClosed c (classified k r) (lastAnswered c b r s) = backToConnected c
      (((lastAnswered c b r s).updSession c fun x => { x with lastResult := some (classified k r) }).updEngine c
        fun _ => .initial) := by rw [measurementClosed, closeMeasurement_quietless (r := classified k r) h]
  rw [hclosed]
  cases c <;> rfl

/-- Settles O31: `afterReading_last`, then the end of the measurement by `measurementDone_cases`. -/
theorem lastAnswerEndsTheMeasurement : Obligations.LastAnswerEndsTheMeasurement := by
  intro s c a q k r r' hq hk hr hp hdone
  dsimp only
  intro hlast
  obtain ⟨hafter, hstages, hnoisy⟩ := afterReading_last hlast
  have hexec : exec (.headAnswer c a) s =
      .next (measurementDone c k r' (lastAnswered c (limitAnswer q.samples a) r' s)) :=
    (exec_headAnswer c a s).trans (congrArg _ (takeAnswer_last hq hk hr hafter))
  generalize limitAnswer q.samples a = b at *
  have hsession : ((lastAnswered c b r' s).chan c).session = (s.chan c).session := by simp [lastAnswered]
  obtain ⟨w, ans, hend, hchan, hstore, hwdone, hhands, hkeeps⟩ :=
    measurementDone_cases (c := c) (k := k) (r := r') (s := lastAnswered c b r' s) (by rw [hsession, hp])
  obtain ⟨hs, hengine, hcmd, htickets, hlink, -⟩ := measureDone_chan (w := w) (c := c) (ans := ans)
    (o := .cls (classOf k r')) (d := decidingOf k r' (classOf k r'))
  obtain ⟨hsc, hec⟩ := measurementClosed_chan (s := lastAnswered c b r' s) (c := c) (r := classified k r')
  rw [handsIn_lastAnswered] at hhands hkeeps
  rw [hsession] at hhands
  have hobs : resultOf (lastAnswered c b r' s) k r' = resultOf s k r' := by simp [resultOf, lastAnswered]
  rw [hobs] at hhands
  have hw : (w.chan c).session = { (s.chan c).session with state := .connected, lastResult := some (classified k r') } := by
    rw [hchan, hsc, hsession]
  have hclock : w.store.clock = s.store.clock := by rw [hstore]; simp [lastAnswered]
  refine ⟨_, hexec, ?_, ?_, ?_, ?_, ?_, ?_, fun hroom => ?_, fun hquiet hcls hflag => ?_⟩ <;> rw [hend]
  · rw [hs, hw]
    rfl
  · rw [hengine, hchan, hec]
    rfl
  · rw [hengine, hchan, hec]
    rfl
  · rw [hengine, hchan, hec]
    rfl
  · exact busy_free hcmd (by rw [hs, hw]; exact hp)
  · exact done_measureDone
  · obtain ⟨hport, hstored⟩ := closeMeasurement_of_room (c := c) (s := lastAnswered c b r' s) (r := classified k r')
      (by simpa [lastAnswered, UrgentRoom, classified, hstages] using hroom)
    have hports : (measurementClosed c (classified k r') (lastAnswered c b r' s)).port = s.port := by
      simpa [measurementClosed, backToConnected, lastAnswered] using hport
    have hstores : (measurementClosed c (classified k r') (lastAnswered c b r' s)).ticketStore = s.ticketStore := by
      simpa [measurementClosed, backToConnected, lastAnswered] using hstored
    have hfree : w.done c = false := by rw [hwdone, done_of_port hports, hdone]
    have hevents := events_measureDone (o := .cls (classOf k r')) (d := decidingOf k r' (classOf k r')) (ans := ans) hfree
    rw [hw, hclock] at hevents
    refine ⟨⟨_, by rw [hevents]; exact List.mem_append_right _ (List.mem_singleton.2 rfl), rfl, rfl, rfl, rfl, rfl, rfl,
      ?_⟩, fun hpass => ?_⟩
    · by_cases h : HandsIn s c k r'
      · have hans : ans = (storeResult (s.chan c).session.line (resultOf s k r') s).1 := by
          rw [(hhands h).1, storeResult_answer hstores]
        rw [if_pos (show classOf k r' ≠ .pass ∧ (s.chan c).engine.ticketFlag = true from h), hans]
        exact ⟨rfl, rfl, rfl⟩
      · rw [if_neg (show ¬(classOf k r' ≠ .pass ∧ (s.chan c).engine.ticketFlag = true) from h), (hkeeps h).1]
        exact ⟨rfl, rfl, rfl⟩
    · have h : ¬HandsIn s c k r' := by
        rintro ⟨hcls, hflag⟩
        rcases hpass with hpass | hpass
        · exact hcls hpass
        · rw [hpass] at hflag
          cases hflag
      obtain ⟨hans, hwk⟩ := hkeeps h
      refine ⟨by rw [htickets, hwk, hstores], ?_⟩
      rw [hevents, hans, hwk, hports]
  · obtain ⟨-, hwk⟩ := hhands ⟨hcls, hflag⟩
    rw [htickets, hlink, hwk, measurementClosed_setChan (by rw [hstages, hquiet]), storeResult_setChan]
    simp [resultOf]

/-! ### Timeouts of the head, and CANCEL of a MEASURE -/

section Cut

variable {s : State} {c : Channel} {r : MeasureRecord} {o : MeasureOutcome} {done : ChannelOutcome}

@[simp] theorem done_removeFrame (f : QueuedFrame) (d : Channel) : (removeFrame f s).done d = s.done d :=
  done_of_port port_removeFrame d

@[simp] theorem done_displaced (f : QueuedFrame) (d : Channel) : (displaced f s).done d = s.done d := by
  unfold displaced
  split <;> simp

@[simp] theorem done_offerUrgent (b : FrameBody) (k : Option Channel) (d : Channel) :
    (offerUrgent b k s).done d = s.done d := by
  unfold offerUrgent
  dsimp only
  repeat' split
  all_goals simp

@[simp] theorem done_updQuiet (f : QuietRecord → QuietRecord) (d : Channel) : (s.updQuiet c f).done d = s.done d :=
  done_of_port (port_updQuiet c f s) d

@[simp] theorem done_updSession (f : Session → Session) (d : Channel) : (s.updSession c f).done d = s.done d :=
  done_of_port (port_updSession c f s) d

@[simp] theorem done_updEngine (f : EngineRecord → EngineRecord) (d : Channel) : (s.updEngine c f).done d = s.done d :=
  done_of_port (port_updEngine c f s) d

@[simp] theorem done_removeIfQueued (f : Option QueuedFrame) (d : Channel) : (removeIfQueued f s).done d = s.done d := by
  unfold removeIfQueued
  split <;> simp

@[simp] theorem done_endQuiet (d : Channel) : (endQuiet c s).done d = s.done d := by
  unfold endQuiet
  split <;> simp

@[simp] theorem done_quietEndAsked (d : Channel) : (quietEndAsked c s).done d = s.done d := by
  unfold quietEndAsked
  repeat' split
  all_goals simp

theorem done_measurementClosed (d : Channel) : (measurementClosed c r s).done d = s.done d := by
  unfold measurementClosed backToConnected closeMeasurement
  dsimp only
  split <;> simp

theorem expectedLength_eq (q : HeadRequest) :
    expectedLength q = q.settle + if q.reading = .cap then 66 else q.samples := by
  unfold expectedLength
  split
  · next h => rw [h]; rfl
  · next h => rw [if_neg h]

theorem headDue_iff {q : HeadRequest} (h : (s.chan c).engine.request = some q) :
    HeadDue s c ↔ q.sentAt + expectedLength q + 500 ≤ s.now := by
  simp [HeadDue, h, expectedLength_eq]

theorem exec_headTimeout (c : Channel) (s : State) : exec (.headTimeout c) s =
    .next (if headTimedOut c s then cutMeasurement c .headTimeout .headTimeout s else s) := rfl

theorem cutMeasurement_operator (hr : (s.chan c).engine.record = some r) (hp : (s.chan c).session.purpose = .operator) :
    cutMeasurement c o done s =
      measureDone c (.channel done) none (none, none) (measurementClosed c { r with outcome := some o } s) := by
  unfold cutMeasurement
  rw [hr]
  exact if_neg (by rw [purpose_automatic_iff]; exact not_not_intro hp)

theorem cutMeasurement_automatic (hr : (s.chan c).engine.record = some r)
    (hp : (s.chan c).session.purpose ≠ .operator) : cutMeasurement c o done s =
      releaseAutomatic c (report .timeout (measurementClosed c { r with outcome := some o } s)) := by
  unfold cutMeasurement
  rw [hr]
  exact if_pos ((purpose_automatic_iff _).2 hp)

/-- An operator's measurement cut short leaves the session on the line, and its MEASURE completes (R69, R70). -/
theorem cutMeasurement_ends (hr : (s.chan c).engine.record = some r) (hp : (s.chan c).session.purpose = .operator)
    (hdone : s.done c = false) :
    ((cutMeasurement c o done s).chan c).session =
      { (s.chan c).session with state := .connected, lastResult := some { r with outcome := some o } } ∧
    ((cutMeasurement c o done s).chan c).engine.phase = .idle ∧
    ((cutMeasurement c o done s).chan c).engine.request = none ∧ (cutMeasurement c o done s).store = s.store ∧
    (cutMeasurement c o done s).busy c = false ∧
    ∃ e ∈ (cutMeasurement c o done s).port.events, e.kind = .measureDone ∧ e.channel = some c ∧
      e.outcome = some (.channel done) ∧ e.ticket = none := by
  obtain ⟨hs, he⟩ := measurementClosed_chan (s := s) (c := c) (r := { r with outcome := some o })
  obtain ⟨hsession, hengine, hcmd, -, -, hstore⟩ := measureDone_chan (c := c) (o := .channel done) (d := none)
    (ans := (none, none)) (w := measurementClosed c { r with outcome := some o } s)
  rw [hs] at hsession
  rw [he] at hengine
  rw [cutMeasurement_operator hr hp]
  refine ⟨hsession, by rw [hengine]; rfl, by rw [hengine]; rfl, by rw [hstore, store_measurementClosed],
    busy_free hcmd (by rw [hsession]; exact hp), ?_⟩
  rw [events_measureDone (by rw [done_measurementClosed, hdone])]
  exact ⟨_, List.mem_append_right _ (List.mem_singleton.2 rfl), rfl, rfl, rfl, rfl⟩

end Cut

/-- Settles O32: `headTimedOut_iff` says when the row acts, `cutMeasurement_ends` what it leaves. -/
theorem headTimeoutAndCancelEndTheMeasurement : Obligations.HeadTimeoutAndCancelEndTheMeasurement := by
  refine ⟨fun s c h => ?_, fun r t => ⟨fun l => rfl, rfl, fun l => ⟨rfl, rfl⟩⟩, fun s c q h => headDue_iff h,
    fun s c r hr => ⟨fun hdue hp hdone => ?_, fun hdue hp => ?_, fun hphase hcmd hp hstate hdone => ?_⟩⟩
  · rw [exec_headTimeout, if_neg (by rw [headTimedOut_iff]; exact h)]
  · refine ⟨cutMeasurement c .headTimeout .headTimeout s, ?_, cutMeasurement_ends hr hp hdone⟩
    rw [exec_headTimeout, if_pos (headTimedOut_iff.2 hdue)]
  · refine ⟨cutMeasurement c .headTimeout .headTimeout s, ?_, ?_⟩
    · rw [exec_headTimeout, if_pos (headTimedOut_iff.2 hdue)]
    · obtain ⟨hs, he⟩ := measurementClosed_chan (s := s) (c := c) (r := { r with outcome := some .headTimeout })
      rw [cutMeasurement_automatic hr hp, releaseAutomatic, enterReleasing_driven (n := 5) (by simp)]
      simp [giveRelease, engine_releaseDisturbs, hs, he, EngineRecord.initial]
  · have hcancel : cancelCommand c .measure s = cutMeasurement c .cancelled .cancelled s := if_pos hstate
    obtain ⟨hs, hphase', hrequest, -, hbusy, hevent⟩ := cutMeasurement_ends (o := .cancelled) (done := .cancelled) hr hp hdone
    refine ⟨cutMeasurement c .cancelled .cancelled s, answers_of_take hphase rfl ?_, hs, hphase', hrequest, hbusy, hevent⟩
    rw [takeCancel_command (isAutomatic_false hp) hcmd, hcancel]

end Sys2Proof.Machine
end

section
/-! The own quiets: their timers (O37), the answers to them (O38), their end (O39). -/

namespace Sys2Proof.Machine

/-! ### The start of a quiet measurement -/

section Start

variable {s : State} {c : Channel} {h : Holder}

theorem exec_quietSettleEnd (c : Channel) (s : State) : exec (.quietSettleEnd c) s = .next (settleEnds c s) := rfl
theorem exec_quietLimit (c : Channel) (s : State) : exec (.quietLimit c) s = .next (limitReached c s) := rfl
theorem exec_ownQuietLapse (c : Channel) (s : State) : exec (.ownQuietLapse c) s = .next (quietLapses c s) := rfl

/-- The measurement of a channel runs from its record as it stood in `s`, marked `noisy` or not (R49, R137). -/
def RunsFrom (s : State) (c : Channel) (noisy : Bool) (t : State) : Prop :=
  (t.chan c).engine.phase = .running ∧ ∀ r, (s.chan c).engine.record = some r →
    (t.chan c).engine.record = some { r with noisy := r.noisy || noisy } ∧
    (t.chan c).engine.request = (firstReading r.stages).map (requestFor r s.now)

theorem requestFor_noisy (r : MeasureRecord) (k : Bool) : requestFor { r with noisy := k } = requestFor r := by
  funext n rd
  cases rd <;> rfl

theorem runsFrom_startRunning {t : State} {noisy : Bool} (hengine : (t.chan c).engine = (s.chan c).engine)
    (hnow : t.now = s.now) : RunsFrom s c noisy (startRunning c noisy t) := by
  refine ⟨by simp [startRunning], fun r hr => ?_⟩
  simp [startRunning, hengine, hr, hnow, requestFor_noisy]

theorem runsFrom_quietly {t : State} (h : RunsFrom s c false t) : (t.chan c).engine.phase = .running ∧
    ∀ r, (s.chan c).engine.record = some r → (t.chan c).engine.record = some r ∧
      (t.chan c).engine.request = (firstReading r.stages).map (requestFor r s.now) := by
  obtain ⟨hphase, hruns⟩ := h
  refine ⟨hphase, fun r hr => ?_⟩
  obtain ⟨hrecord, hrequest⟩ := hruns r hr
  rw [Bool.or_false] at hrecord
  exact ⟨hrecord, hrequest⟩

theorem settleEnds_settling (h : (s.chan c).quiet.phase = .settling) :
    settleEnds c s = startIfSettled c (s.updQuiet c fun q => { q with settled := true }) := if_pos h

theorem startIfSettled_starts (hphase : (s.chan c).quiet.phase = .settling) (hsettled : (s.chan c).quiet.settled = true)
    (hlist : (s.chan c).quiet.waitList = []) (hengine : (s.chan c).engine.phase = .quietWait) :
    startIfSettled c s = startRunning c false (s.updQuiet c fun q => { q with phase := .held }) :=
  if_pos ⟨hphase, hsettled, hlist, hengine⟩

theorem startIfSettled_waits (h : (s.chan c).quiet.waitList ≠ [] ∨ (s.chan c).quiet.settled = false) :
    startIfSettled c s = s := by
  refine if_neg fun hall => ?_
  rcases h with h | h
  · exact h hall.2.2.1
  · rw [hall.2.1] at h
    cases h

end Start

/-! ### Answers heard -/

section Answered

variable {s : State} {c : Channel} {b : Block} {n m : Station}

theorem busyHeard_elsewhere (h : (s.chan c).quiet.block ≠ some b) : busyHeard c b n s = s := if_pos h

theorem busyHeard_settling (h : (s.chan c).quiet.block = some b) (hphase : (s.chan c).quiet.phase = .settling) :
    busyHeard c b n s = joinWait c (.station n) s := (if_neg (not_not_intro h)).trans (if_pos hphase)

theorem busyHeard_held (h : (s.chan c).quiet.block = some b) (hphase : (s.chan c).quiet.phase = .held) :
    busyHeard c b n s = markNoisy c s :=
  (if_neg (not_not_intro h)).trans ((if_neg (by simp [hphase])).trans (if_pos hphase))

theorem markNoisy_running (h : (s.chan c).engine.phase = .running) :
    markNoisy c s = s.updEngine c fun e => { e with record := e.record.map fun r => { r with noisy := true } } := by
  unfold markNoisy State.updEngine
  dsimp only
  rw [if_pos h]

theorem clearHeard_elsewhere (h : (s.chan c).quiet.block ≠ some b) : clearHeard c b n s = s :=
  if_neg fun hall => h hall.1

theorem clearHeard_settling (h : (s.chan c).quiet.block = some b) (hphase : (s.chan c).quiet.phase = .settling) :
    clearHeard c b n s = leaveWait c (.station n) s := if_pos ⟨h, hphase⟩

theorem isOwn_heard_self (h : s.store.station = some m) : (s.heard n).isOwn m = true := by
  rw [State.isOwn, store_heard, h]
  exact beq_self_eq_true _

theorem isOwn_heard_other {k : Station} (h : s.store.station = some m) (hk : k ≠ m) : (s.heard n).isOwn k = false := by
  rw [State.isOwn, store_heard, h]
  exact beq_false_of_ne fun heq => hk (Option.some.inj heq).symm

theorem exec_quietBusy (h : Heard s n (.quietBusy b m)) : exec (.quietBusyTaken n b m) s =
    .next (if (s.heard n).isOwn m then busyHeard .b b n (busyHeard .a b n (s.heard n)) else s.heard n) := by
  obtain ⟨p, -, hexec⟩ := exec_heard h rfl
  exact hexec

theorem exec_quietClear (h : Heard s n (.quietClear b m)) : exec (.quietClearTaken n b m) s =
    .next (if (s.heard n).isOwn m then clearHeard .b b n (clearHeard .a b n (s.heard n)) else s.heard n) := by
  obtain ⟨p, -, hexec⟩ := exec_heard h rfl
  exact hexec

@[simp] theorem chan_other_busyHeard : (busyHeard c b n s).chan c.other = s.chan c.other := by
  unfold busyHeard
  dsimp only
  repeat' split
  all_goals simp [joinWait, markNoisy]

@[simp] theorem chan_other_clearHeard : (clearHeard c b n s).chan c.other = s.chan c.other := by
  unfold clearHeard
  dsimp only
  split
  · exact leaveWait_frame.2.2.2.2
  · rfl

/-- A QUIET-BUSY for this station, on the block of one channel's record alone (R136, R138). -/
theorem exec_quietBusy_one (hm : s.store.station = some m) (h : Heard s n (.quietBusy b m))
    (hother : (s.chan c.other).quiet.block ≠ some b) :
    exec (.quietBusyTaken n b m) s = .next (busyHeard c b n (s.heard n)) := by
  rw [exec_quietBusy h, if_pos (isOwn_heard_self hm)]
  cases c with
  | a =>
    have hb : ((busyHeard .a b n (s.heard n)).chan .b).quiet.block ≠ some b := by
      rw [show Channel.b = Channel.other .a from rfl, chan_other_busyHeard, chan_heard]
      exact hother
    rw [busyHeard_elsewhere hb]
  | b =>
    have ha : ((s.heard n).chan .a).quiet.block ≠ some b := by
      rw [chan_heard]
      exact hother
    rw [busyHeard_elsewhere ha]

/-- A QUIET-CLEAR for this station, on the block of one channel's record alone (R136, R138). -/
theorem exec_quietClear_one (hm : s.store.station = some m) (h : Heard s n (.quietClear b m))
    (hother : (s.chan c.other).quiet.block ≠ some b) :
    exec (.quietClearTaken n b m) s = .next (clearHeard c b n (s.heard n)) := by
  rw [exec_quietClear h, if_pos (isOwn_heard_self hm)]
  cases c with
  | a =>
    have hb : ((clearHeard .a b n (s.heard n)).chan .b).quiet.block ≠ some b := by
      rw [show Channel.b = Channel.other .a from rfl, chan_other_clearHeard, chan_heard]
      exact hother
    rw [clearHeard_elsewhere hb]
  | b =>
    have ha : ((s.heard n).chan .a).quiet.block ≠ some b := by
      rw [chan_heard]
      exact hother
    rw [clearHeard_elsewhere ha]

end Answered

/-- Settles O38. -/
theorem quietAnswersMoveTheWaitList : Obligations.QuietAnswersMoveTheWaitList := by
  intro s n m b c hm
  refine ⟨fun h hblock hother => ⟨fun hphase => ?_, fun hphase hengine => ?_⟩, fun h hblock hother hphase hsettled => ?_,
    fun k hk => ⟨fun h => ?_, fun h => ?_⟩, fun hnone => ⟨fun h => ?_, fun h => ?_⟩⟩
  · rw [exec_quietBusy_one hm h hother, busyHeard_settling (by simpa using hblock) (by simpa using hphase), joinWait]
    refine congrArg _ (congrArg (fun f => (s.heard n).updQuiet c f) (funext fun q => ?_))
    by_cases hmem : Holder.station n ∈ q.waitList <;> simp [hmem]
  · rw [exec_quietBusy_one hm h hother, busyHeard_held (by simpa using hblock) (by simpa using hphase),
      markNoisy_running (by simpa using hengine)]
  · rw [exec_quietClear_one hm h hother, clearHeard_settling (by simpa using hblock) (by simpa using hphase),
      leaveWait, startIfSettled_waits (.inr (by simpa using hsettled))]
    refine congrArg _ (congrArg (fun f => (s.heard n).updQuiet c f) (funext fun q => ?_))
    simp [bne, beq_eq_decide]
  · rw [exec_quietBusy h, if_neg (by rw [isOwn_heard_other hm hk]; exact Bool.false_ne_true)]
  · rw [exec_quietClear h, if_neg (by rw [isOwn_heard_other hm hk]; exact Bool.false_ne_true)]
  · rw [exec_quietBusy_one (c := .a) hm h (hnone _), busyHeard_elsewhere (by rw [chan_heard]; exact hnone .a)]
  · rw [exec_quietClear_one (c := .a) hm h (hnone _), clearHeard_elsewhere (by rw [chan_heard]; exact hnone .a)]

/-! ### The limit, the lapse and the request -/

section Limit

variable {s : State} {c : Channel} {b : Block} {f : QueuedFrame}

theorem limitRecord_pending (h : (s.chan c).quiet.phase = .pending) :
    limitRecord c s = s.updQuiet c fun _ => .initial := by
  unfold limitRecord
  rw [h]

theorem limitRecord_settling (h : (s.chan c).quiet.phase = .settling) :
    limitRecord c s = s.updQuiet c fun q => { q with phase := .held, waitList := [] } := by
  unfold limitRecord
  rw [h]

theorem limitRecord_ending (h : (s.chan c).quiet.phase = .ending) :
    limitRecord c s = s.updQuiet c fun q => { q with requestNoted := false, notedBlock := none } := by
  unfold limitRecord
  rw [h]

theorem limitRecord_queued (h : (s.chan c).quiet.phase = .requested) (hf : s.link.quietFrame c = some f)
    (hwire : s.link.onWire f = false) : limitRecord c s = (removeFrame f s).updQuiet c fun _ => .initial := by
  unfold limitRecord
  rw [h, hf]
  exact if_neg (by simp [frameOnWire, hwire])

theorem limitRecord_onWire (h : (s.chan c).quiet.phase = .requested) (hf : s.link.quietFrame c = some f)
    (hwire : s.link.onWire f = true) : limitRecord c s = s.updQuiet c fun q =>
      { q with withdrawal := some (q.withdrawal.getD .limit), requestNoted := false, notedBlock := none } := by
  unfold limitRecord
  rw [h, hf]
  exact if_pos (by simp [frameOnWire, hwire])

@[simp] theorem engine_limitRecord : ((limitRecord c s).chan c).engine = (s.chan c).engine := by
  unfold limitRecord
  split
  · rfl
  · simp
  · split <;> simp
  · simp
  · rfl
  · simp

@[simp] theorem now_limitRecord : (limitRecord c s).now = s.now := by
  unfold limitRecord
  split
  · rfl
  · simp
  · split <;> simp
  · simp
  · rfl
  · simp

@[simp] theorem quiet_startRunning {noisy : Bool} (d : Channel) :
    ((startRunning c noisy s).chan d).quiet = (s.chan d).quiet := by simp [startRunning]

@[simp] theorem link_startRunning {noisy : Bool} : (startRunning c noisy s).link = s.link := by simp [startRunning]

theorem limitReached_waiting (h : (s.chan c).engine.phase = .quietWait) :
    limitReached c s = startRunning c true (limitRecord c s) := if_pos h

theorem limitReached_running (h : (s.chan c).engine.phase ≠ .quietWait) : limitReached c s = s := if_neg h

theorem quietLapses_held (h : (s.chan c).quiet.phase = .held) : quietLapses c s = markNoisy c (endQuiet c s) := if_pos h

theorem quietLapses_none (h : (s.chan c).quiet.phase ≠ .held) : quietLapses c s = s := if_neg h

theorem endQuiet_of_room (hb : (s.chan c).quiet.block = some b) (h : UrgentRoom s) : endQuiet c s =
    enqueue (.built (.quietEnd b)) (some c) (s.updQuiet c fun q => { q with phase := .ending, waitList := [] }) := by
  obtain ⟨hwaiting, hslots⟩ := h
  unfold endQuiet
  rw [hb]
  exact offerUrgent_of_room (by simpa using hwaiting) (by simpa using hslots)

end Limit

section Requested

variable {s : State} {c : Channel} {b : Block}

theorem exec_quietRequestQueued (c : Channel) (s : State) :
    exec (.quietRequestQueued c) s = .next (serveQuiet c s) := rfl

theorem quietServable_iff (hb : (s.chan c).quiet.block = some b) : quietServable s c = true ↔
    (s.chan c).quiet.phase = .pending ∧ quietHolder s b = none ∧ (s.chan c.other).quiet.occupies b = false := by
  simp [quietServable, quietFree, hb]

theorem serveQuiet_queues (hb : (s.chan c).quiet.block = some b) (h : quietMayQueue s c = true) :
    serveQuiet c s = queueQuiet c b s := by
  unfold serveQuiet
  rw [hb]
  exact if_pos h

theorem serveQuiet_unserved (h : quietServable s c = false) : serveQuiet c s = s := by
  unfold serveQuiet
  split
  · rfl
  · exact if_neg (by simp [quietMayQueue, h])

/-- A record whose block no foreign quiet holds finds it free beside a record that wants nothing on it (R129). -/
theorem quietMayQueue_of_free (hphase : (s.chan c).quiet.phase = .pending) (hb : (s.chan c).quiet.block = some b)
    (hactive : s.link.state = .active) (hstarting : s.port.phase ≠ .starting) (hfree : quietHolder s b = none)
    (hother : (s.chan c.other).quiet.phase = .none ∨ (s.chan c.other).quiet.block ≠ some b)
    (hwaiting : s.link.waiting = []) (hlow : lowCount s.link.queue + aheadOfChannelQuiet s c < 8)
    (hslots : s.link.queue.length + aheadOfChannelQuiet s c < 12) : quietMayQueue s c = true := by
  have hunoccupied : (s.chan c.other).quiet.occupies b = false := by
    rcases hother with h | h <;> simp [QuietRecord.occupies, QuietRecord.stands, h]
  have hservable : quietServable s c = true := (quietServable_iff hb).2 ⟨hphase, hfree, hunoccupied⟩
  have hyields : yieldsToA s c = false := by
    cases c with
    | a => rfl
    | b =>
      have hb : s.chanB.quiet.block = some b := hb
      rcases hother with h | h
      · have h : s.chanA.quiet.phase = .none := h
        simp [yieldsToA, quietServable, h]
      · have h : s.chanA.quiet.block ≠ some b := h
        simp [yieldsToA, hb, h]
  have hline : s.onLine = true := by simp [State.onLine, hactive, hstarting]
  have hroom : s.link.roomLow (aheadOfChannelQuiet s c) = true := by
    simp [Link.roomLow, Config.lowSlots, Config.queueSlots, hlow, hslots, hwaiting]
  simp [quietMayQueue, hactive, hline, hservable, hyields, hroom]

theorem quietServable_held (hb : (s.chan c).quiet.block = some b) (h : quietHolder s b ≠ none) :
    quietServable s c = false := by
  rw [← Bool.not_eq_true, quietServable_iff hb]
  exact fun hall => h hall.2.1

theorem quietServable_phase (h : (s.chan c).quiet.phase ≠ .pending) : quietServable s c = false := by
  simp [quietServable, h]

end Requested

/-- Settles O37, a clause of the statement for each row. -/
theorem quietIsRequestedSettlesAndLapses : Obligations.QuietIsRequestedSettlesAndLapses := by
  refine ⟨fun s c hphase hengine => ?_, fun s c hengine => ?_, fun s c hengine => ?_, fun s c b hphase hb hwaiting hslots => ?_,
    fun s c hphase => ?_, fun s c b hphase hb hactive hstarting hfree hother hwaiting hlow hslots => ?_,
    fun s c hphase => ?_, fun s c b p q hb hp hq hqb => ?_⟩
  · dsimp only
    refine ⟨fun hlist => ?_, fun hlist => ?_, fun b n m hsettled hlist hb hother hm h => ?_⟩
    · refine ⟨_, (exec_quietSettleEnd c s).trans (congrArg _ ((settleEnds_settling hphase).trans
        (startIfSettled_starts (by simpa using hphase) (by simp) (by simpa using hlist) (by simpa using hengine)))),
        by simp, runsFrom_quietly (runsFrom_startRunning (by simp) (by simp)), by simp⟩
    · rw [exec_quietSettleEnd, settleEnds_settling hphase, startIfSettled_waits (.inl (by simpa using hlist))]
    · have hlast : LastToLeave (.station n) ((s.heard n).chan c) := by
        rw [chan_heard]
        exact ⟨hphase, hsettled, by simp [waitsWithout, hlist], hengine⟩
      refine ⟨_, (exec_quietClear_one hm h hother).trans (congrArg _ ((clearHeard_settling (by simpa using hb)
        (by simpa using hphase)).trans (leaveWait_last hlast))), ?_,
        runsFrom_quietly (runsFrom_startRunning (by simp) (by simp))⟩
      simp [waitsWithout, hlist]
  · refine ⟨_, (exec_quietLimit c s).trans (congrArg _ (limitReached_waiting hengine)), by simp [startRunning], fun r hr => ?_,
      fun hphase => ?_, fun hphase => ?_, fun f hphase hf hwire => ?_, fun f hphase hf hwire => ?_, fun hphase => ?_⟩
    · simp [startRunning, hr]
    · simp [limitRecord_pending hphase]
    · simp [limitRecord_settling hphase]
    · simp [limitRecord_queued hphase hf hwire, link_removeFrame]
    · rw [quiet_startRunning, link_startRunning, limitRecord_onWire hphase hf hwire]
      exact ⟨by simpa using hphase, by simp, fun hnone => by simp [hnone]⟩
    · simp [limitRecord_ending hphase]
  · rw [exec_quietLimit, limitReached_running hengine]
  · refine ⟨_, (exec_ownQuietLapse c s).trans (congrArg _ ((quietLapses_held hphase).trans (congrArg _
      (endQuiet_of_room hb ⟨hwaiting, hslots⟩)))), ?_, ?_, fun r hrun hr => ?_⟩
    · simp [markNoisy, enqueue]
    · simp [markNoisy, enqueue, newFrame, queuedUrgency, urgencyOf]
    · simp [markNoisy, enqueue, hrun, hr]
  · rw [exec_ownQuietLapse, quietLapses_none hphase]
  · refine ⟨_, (exec_quietRequestQueued c s).trans (congrArg _ (serveQuiet_queues hb (quietMayQueue_of_free hphase hb
      hactive hstarting ((quietHolder_none_iff b).2 hfree) hother hwaiting hlow hslots))), ?_, ?_, ?_, ?_, ?_⟩ <;>
    simp [queueQuiet, enqueue, newFrame, queuedUrgency, urgencyOf]
  · rw [exec_quietRequestQueued, serveQuiet_unserved (quietServable_phase hphase)]
  · rw [exec_quietRequestQueued, serveQuiet_unserved (quietServable_held hb fun hnone => ?_)]
    exact (quietHolder_none_iff b).1 hnone p hp q hq hqb

end Sys2Proof.Machine
end

section
/-! How an own attempt ends, said once: the frame on the wire, its loss, its void, its drop and its being taken (R77, R80,
R86, R95); what the go rule leaves as it was (R24, R25). -/

namespace Sys2Proof.Machine

/-! ### The frame on the wire -/

section Attempts

variable {s v : State} {w : Attempt} {f : QueuedFrame} {c : Channel} {how : AttemptEnd}

theorem exec_ownAttemptEnd (how : AttemptEnd) (s : State) : exec (.ownAttemptEnd how) s = .next (attemptEnds how s) := rfl

theorem exec_arbitrationLoss (hw : s.link.wire = some w) :
    exec .arbitrationLoss s = .next (arbitrationLost s) := by
  have hexec : exec .arbitrationLoss s = .next (if s.link.wire.isSome then arbitrationLost s else s) := rfl
  rw [hexec, if_pos (by rw [hw]; rfl)]

/-- The frame `f` of the queue is the one on the wire, its attempt `w`. -/
structure OnWire (s : State) (w : Attempt) (f : QueuedFrame) : Prop where
  wire : s.link.wire = some w
  link : LinkOk s.link
  mem : f ∈ s.link.queue
  entry : f.entry = w.entry

theorem OnWire.wireFrame (h : OnWire s w f) : wireFrame s = some f := by
  have hfind : s.link.queue.find? (·.entry == w.entry) = some f := by
    cases hfound : s.link.queue.find? (·.entry == w.entry) with
    | none => exact absurd (List.find?_eq_none.1 hfound f h.mem) (by simp [h.entry])
    | some g =>
      have hg : g.entry = w.entry := by simpa using List.find?_some hfound
      rw [frame_unique h.link h.mem (List.mem_of_find?_eq_some hfound) (hg.trans h.entry.symm)]
  unfold Machine.wireFrame
  rw [h.wire]
  exact hfind

/-- The state after the frame `f` has left the queue as its attempt ended, LINK-ERROR set or not (R80, R94). -/
structure FrameGone (s : State) (f : QueuedFrame) (err : Bool) (v : State) : Prop where
  link : v.link = { s.link with
    queue := s.link.queue.filter (·.entry ≠ f.entry), wire := none, linkError := s.link.linkError || err }
  chan : ∀ d, v.chan d = s.chan d
  roster : v.roster = s.roster
  store : v.store = s.store
  tickets : v.ticketStore = s.ticketStore
  watch : v.watch = s.watch
  now : v.now = s.now
  phase : v.port.phase = s.port.phase

@[simp] theorem link_clearWire : (clearWire s).link = { s.link with wire := none } := by simp [clearWire]
@[simp] theorem chan_clearWire (d : Channel) : (clearWire s).chan d = s.chan d := by simp [clearWire]
@[simp] theorem port_clearWire : (clearWire s).port = s.port := by simp [clearWire]
@[simp] theorem roster_clearWire : (clearWire s).roster = s.roster := by simp [clearWire]
@[simp] theorem store_clearWire : (clearWire s).store = s.store := by simp [clearWire]
@[simp] theorem ticketStore_clearWire : (clearWire s).ticketStore = s.ticketStore := by simp [clearWire]
@[simp] theorem auto_clearWire : (clearWire s).auto = s.auto := by simp [clearWire]
@[simp] theorem watch_clearWire : (clearWire s).watch = s.watch := by simp [clearWire]
@[simp] theorem now_clearWire : (clearWire s).now = s.now := by simp [clearWire]

@[simp] theorem link_updateFrame {g : QueuedFrame → QueuedFrame} : (updateFrame f g s).link = { s.link with
    queue := s.link.queue.map fun x => if x.entry = f.entry then g x else x } := by simp [updateFrame]
@[simp] theorem chan_updateFrame {g : QueuedFrame → QueuedFrame} (d : Channel) :
    (updateFrame f g s).chan d = s.chan d := by simp [updateFrame]

theorem filter_bne_entry (q : List QueuedFrame) : q.filter (·.entry != f.entry) = q.filter (·.entry ≠ f.entry) := by
  congr 1
  funext g
  simp [bne, beq_eq_decide]

theorem frameGone_removed : FrameGone s f false (removeFrame f (clearWire s)) where
  link := by simp [link_removeFrame, filter_bne_entry]
  chan d := by simp
  roster := by simp
  store := by simp
  tickets := by simp
  watch := by simp
  now := by simp
  phase := by simp

theorem setLinkError_set (h : s.link.linkError = true) : setLinkError s = s := if_pos h

theorem setLinkError_clear (h : s.link.linkError = false) : setLinkError s =
    emit { kind := .linkState, outcome := some .linkError } (s.updLink fun l => { l with linkError := true }) :=
  if_neg (by rw [h]; exact Bool.false_ne_true)

@[simp] theorem link_setLinkError : (setLinkError s).link = { s.link with linkError := true } := by
  cases h : s.link.linkError with
  | false => simp [setLinkError_clear h]
  | true =>
    rw [setLinkError_set h, ← h]

@[simp] theorem phase_emit (e : Event) : (emit e s).port.phase = s.port.phase := by
  unfold emit
  split
  · rfl
  · rfl

@[simp] theorem ticketStore_setLinkError : (setLinkError s).ticketStore = s.ticketStore := by
  unfold setLinkError
  split <;> simp

@[simp] theorem phase_setLinkError : (setLinkError s).port.phase = s.port.phase := by
  unfold setLinkError
  split <;> simp

theorem frameGone_dropped : FrameGone s f true (setLinkError (removeFrame f (clearWire s))) where
  link := by simp [link_removeFrame, filter_bne_entry]
  chan d := by simp
  roster := by simp
  store := by simp
  tickets := by simp
  watch := by simp
  now := by simp
  phase := by simp

/-! ### The ends of an attempt -/

theorem arbitrationLost_frame (h : OnWire s w f) :
    arbitrationLost s = attemptNotTaken f (updateFrame f afterLoss (clearWire s)) := by
  unfold arbitrationLost
  rw [h.wireFrame]

/-- A won attempt that no receiver objected to, and that was heard or may go unheard, is taken (R80, R81). -/
theorem attemptEnds_taken (h : OnWire s w f) (hfarewell : s.inFarewell = false) (hno : noObjection how = true)
    (hheard : isUnheard how = false) :
    attemptEnds how s = ownFrameTaken w f.origin (removeFrame f (clearWire s)) := by
  unfold attemptEnds
  rw [h.wire, h.wireFrame]
  simp [hfarewell, hno, hheard]

theorem attemptEnds_void (h : OnWire s w f) (hfarewell : s.inFarewell = false) (hobjected : noObjection how = false)
    (hheard : isUnheard how = false) : attemptEnds how s = attemptVoid f (clearWire s) := by
  unfold attemptEnds
  rw [h.wire, h.wireFrame]
  simp [hfarewell, hobjected, hheard]

theorem attemptEnds_unheard (h : OnWire s w f) (hfarewell : s.inFarewell = false) (hheard : isUnheard how = true)
    (hactive : s.link.state = .active) (hroster : s.roster ≠ []) :
    attemptEnds how s = loseLink .lost (some .unheard) (pendingActs s) := by
  unfold attemptEnds
  rw [h.wire, h.wireFrame]
  simp [hfarewell, hheard, hactive, hroster]

theorem attemptVoid_withdrawn (h : attemptWithdrawn f s = true) : attemptVoid f s = attemptNotTaken f s := if_pos h

theorem attemptVoid_counted (h : attemptWithdrawn f s = false) (hvoids : f.voids < 3) : attemptVoid f s =
    attemptNotTaken f (updateFrame f (fun x => { x with voids := x.voids + 1 }) s) :=
  (if_neg (by rw [h]; exact Bool.false_ne_true)).trans (if_pos (by omega))

theorem attemptVoid_dropped (h : attemptWithdrawn f s = false) (hvoids : f.voids = 3) : attemptVoid f s =
    ownFrameDropped f.body f.origin (setLinkError (removeFrame f s)) :=
  (if_neg (by rw [h]; exact Bool.false_ne_true)).trans (if_neg (by omega))

/-- Changing the one frame with `f`'s entry puts the changed `f` in its place. -/
theorem updateFrame_eq {g : QueuedFrame → QueuedFrame} (hl : LinkOk s.link) (hf : f ∈ s.link.queue) :
    updateFrame f g s = s.updLink fun l => { l with queue := l.queue.map fun x => if x.entry = f.entry then g f else x } := by
  have hmap : (s.link.queue.map fun x => if x.entry = f.entry then g x else x) =
      s.link.queue.map fun x => if x.entry = f.entry then g f else x := by
    refine List.map_congr_left fun x hx => ?_
    by_cases h : x.entry = f.entry
    · rw [if_pos h, if_pos h, frame_unique hl hf hx h]
    · rw [if_neg h, if_neg h]
  unfold updateFrame State.updLink
  dsimp only
  rw [hmap]

/-- The frame that left gave its slot back. -/
theorem FrameGone.urgentRoom {err : Bool} (h : FrameGone s f err v) (hl : LinkOk s.link) (hf : f ∈ s.link.queue)
    (hwaiting : s.link.waiting = []) : UrgentRoom v := by
  rw [UrgentRoom, h.link]
  refine ⟨hwaiting, ?_⟩
  have hslots : s.link.queue.length ≤ 12 := hl.slots
  have hless : (s.link.queue.filter (·.entry ≠ f.entry)).length < s.link.queue.length :=
    List.length_filter_lt_length_iff_exists.2 ⟨f, hf, by simp⟩
  exact Nat.lt_of_lt_of_le hless hslots

end Attempts

/-! ### What the go rule leaves as it was -/

section GoRule

variable {s : State} {c : Channel} {h : Holder} {b : Block}

/-- The go rule changes the session and the relay side of its channel alone (R24). -/
theorem goRule_shape : ∃ f g, goRule c s = (s.updSession c f).updSeq c g := by
  unfold goRule
  dsimp only
  split
  · exact ⟨_, _, rfl⟩
  · split
    · refine ⟨fun x => { x with state := .claimed, deferredBy := none }, id, ?_⟩
      cases c <;> rfl
    · split
      · exact ⟨_, _, rfl⟩
      · exact ⟨_, _, rfl⟩

theorem updSession_updSession {f g : Session → Session} :
    (s.updSession c f).updSession c g = s.updSession c fun x => g (f x) := by cases c <;> rfl

/-- The end of a quiet changes the session and the relay side of the channel it served alone (R25). -/
theorem undefer_shape : ∃ f g, undefer c h b s = (s.updSession c f).updSeq c g := by
  unfold undefer
  dsimp only
  split
  · obtain ⟨f, g, hgo⟩ := goRule_shape (c := c) (s := s.updSession c fun x => { x with deferredBy := none })
    rw [hgo, updSession_updSession]
    exact ⟨_, _, rfl⟩
  · refine ⟨id, id, ?_⟩
    cases c <;> rfl

theorem undefer_none (hne : (s.chan c).session.state ≠ .deferred ∨ (s.chan c).session.deferredBy ≠ some h ∨
    (s.chan c).session.block ≠ b) : undefer c h b s = s :=
  if_neg fun hall => by
    obtain ⟨hstate, hby, hblock⟩ := hall
    rcases hne with hne | hne | hne
    · exact hne hstate
    · exact hne hby
    · exact hne hblock

theorem undefer_deferred (hstate : (s.chan c).session.state = .deferred) (hby : (s.chan c).session.deferredBy = some h)
    (hblock : (s.chan c).session.block = b) :
    undefer c h b s = goRule c (s.updSession c fun x => { x with deferredBy := none }) := if_pos ⟨hstate, hby, hblock⟩

@[simp] theorem chan_other_undefer : (undefer c h b s).chan c.other = s.chan c.other := by
  obtain ⟨f, g, hshape⟩ := undefer_shape (s := s) (c := c) (h := h) (b := b)
  simp [hshape]
@[simp] theorem quiet_undefer (d : Channel) : ((undefer c h b s).chan d).quiet = (s.chan d).quiet := by
  obtain ⟨f, g, hshape⟩ := undefer_shape (s := s) (c := c) (h := h) (b := b)
  simp [hshape]
@[simp] theorem claim_undefer (d : Channel) : ((undefer c h b s).chan d).claim = (s.chan d).claim := by
  obtain ⟨f, g, hshape⟩ := undefer_shape (s := s) (c := c) (h := h) (b := b)
  simp [hshape]
@[simp] theorem clears_undefer (d : Channel) : ((undefer c h b s).chan d).clears = (s.chan d).clears := by
  obtain ⟨f, g, hshape⟩ := undefer_shape (s := s) (c := c) (h := h) (b := b)
  simp [hshape]
@[simp] theorem engine_undefer (d : Channel) : ((undefer c h b s).chan d).engine = (s.chan d).engine := by
  obtain ⟨f, g, hshape⟩ := undefer_shape (s := s) (c := c) (h := h) (b := b)
  simp [hshape]
/-- The go rule leaves a session on its block (R24). -/
theorem block_goRule : ((goRule c s).chan c).session.block = (s.chan c).session.block := by
  unfold goRule
  dsimp only
  split
  · simp
  · split
    · simp
    · split
      · simp [beginStep1]
      · simp [beginStep3]

theorem block_undefer : ((undefer c h b s).chan c).session.block = (s.chan c).session.block := by
  unfold undefer
  dsimp only
  split
  · rw [block_goRule]
    simp
  · rfl

@[simp] theorem link_undefer : (undefer c h b s).link = s.link := by
  obtain ⟨f, g, hshape⟩ := undefer_shape (s := s) (c := c) (h := h) (b := b)
  simp [hshape]
@[simp] theorem port_undefer : (undefer c h b s).port = s.port := by
  obtain ⟨f, g, hshape⟩ := undefer_shape (s := s) (c := c) (h := h) (b := b)
  simp [hshape]
@[simp] theorem auto_undefer : (undefer c h b s).auto = s.auto := by
  obtain ⟨f, g, hshape⟩ := undefer_shape (s := s) (c := c) (h := h) (b := b)
  simp [hshape]
@[simp] theorem roster_undefer : (undefer c h b s).roster = s.roster := by
  obtain ⟨f, g, hshape⟩ := undefer_shape (s := s) (c := c) (h := h) (b := b)
  simp [hshape]
@[simp] theorem store_undefer : (undefer c h b s).store = s.store := by
  obtain ⟨f, g, hshape⟩ := undefer_shape (s := s) (c := c) (h := h) (b := b)
  simp [hshape]
@[simp] theorem ticketStore_undefer : (undefer c h b s).ticketStore = s.ticketStore := by
  obtain ⟨f, g, hshape⟩ := undefer_shape (s := s) (c := c) (h := h) (b := b)
  simp [hshape]
@[simp] theorem now_undefer : (undefer c h b s).now = s.now := by
  obtain ⟨f, g, hshape⟩ := undefer_shape (s := s) (c := c) (h := h) (b := b)
  simp [hshape]

/-- A session whose quiet has ended goes on with step 1, where nothing else quiets its block (R24 to R26). -/
theorem undefer_steps (hstate : (s.chan c).session.state = .deferred) (hby : (s.chan c).session.deferredBy = some h)
    (hblock : (s.chan c).session.block = b) (hfree : quietedBy s c b = none) (hstep : (s.chan c).session.relayStep = none)
    (hfrozen : (s.chan c).session.frozenAtClaim = false) : ((undefer c h b s).chan c).session =
      { (s.chan c).session with state := .connecting, relayStep := some 1, deferredBy := none } := by
  have hquieted : quietedBy (s.updSession c fun x => { x with deferredBy := none }) c (s.chan c).session.block = none := by
    rw [hblock, ← hfree]
    simp [quietedBy, quietHolder, quietStandsOn]
  rw [undefer_deferred hstate hby hblock, goRule_first (by simpa using hquieted) (by simpa using hfrozen)
    (by simpa using hstep)]
  simp [beginStep1]

end GoRule

end Sys2Proof.Machine
end

section
/-! The end of the own quiets (O39); own quiets and releases beside a foreign quiet (O40). -/

namespace Sys2Proof.Machine

/-! ### The record of a quiet that has ended -/

section Ended

variable {s v : State} {c : Channel} {b : Block} {f : QueuedFrame} {err : Bool} {q : QuietRecord}

theorem phase_recordCleared : (recordCleared q).phase = .none := by
  unfold recordCleared
  split <;> rfl

theorem recordEnded_eq : notedEnters (recordCleared q) = if q.requestNoted then { QuietRecord.initial with
    phase := .pending, block := q.notedBlock, limitTime := q.limitTime } else .initial := by
  unfold recordCleared
  split
  · rfl
  · rfl

/-- The own quiet is gone from its channel; the other channel is not yet served (R139). -/
def quietOver (c : Channel) (s : State) : State :=
  (s.updQuiet c recordCleared).updSession c fun x => { x with quietHeld := none }

/-- The own quiet is gone, and a session it deferred goes on (R139). -/
def quietFreed (c : Channel) (b : Block) (s : State) : State := undefer c.other .own b (quietOver c s)

theorem ownQuietEnds_eq (hb : (s.chan c).quiet.block = some b) : ownQuietEnds c s =
    (if ((quietFreed c b s).chan c.other).quiet.block = some b then serveQuiet c.other (quietFreed c b s)
      else quietFreed c b s).updQuiet c notedEnters := by
  unfold ownQuietEnds
  rw [hb]
  rfl

theorem chan_quietFreed : (quietFreed c b s).chan c = { s.chan c with
    quiet := recordCleared (s.chan c).quiet, session := { (s.chan c).session with quietHeld := none } } := by
  have hother : (quietFreed c b s).chan c.other.other = (quietOver c s).chan c.other.other := chan_other_undefer
  rw [other_other] at hother
  rw [hother]
  simp [quietOver]

theorem quiet_other_quietFreed : ((quietFreed c b s).chan c.other).quiet = (s.chan c.other).quiet := by
  simp [quietFreed, quietOver]

theorem link_quietFreed : (quietFreed c b s).link = s.link := by simp [quietFreed, quietOver]
theorem port_quietFreed : (quietFreed c b s).port = s.port := by simp [quietFreed, quietOver]
theorem roster_quietFreed : (quietFreed c b s).roster = s.roster := by simp [quietFreed, quietOver]
theorem ticketStore_quietFreed : (quietFreed c b s).ticketStore = s.ticketStore := by simp [quietFreed, quietOver]

theorem quietHolder_quietFreed : quietHolder (quietFreed c b s) b = quietHolder s b :=
  quietHolder_of_roster roster_quietFreed b

/-- A session that the ended quiet had deferred goes on with step 1, where no station quiets its block (R25, R139). -/
theorem session_quietFreed (hstate : (s.chan c.other).session.state = .deferred)
    (hby : (s.chan c.other).session.deferredBy = some .own) (hblock : (s.chan c.other).session.block = b)
    (hfree : quietHolder s b = none) (hstep : (s.chan c.other).session.relayStep = none)
    (hfrozen : (s.chan c.other).session.frozenAtClaim = false) : ((quietFreed c b s).chan c.other).session =
      { (s.chan c.other).session with state := .connecting, relayStep := some 1, deferredBy := none } := by
  have hquieted : quietedBy (quietOver c s) c.other b = none := by
    have hholder : quietHolder (quietOver c s) b = none := by
      rw [quietHolder_of_roster (s := s) (by simp [quietOver]), hfree]
    have hstands : quietStandsOn (quietOver c s) c b = false := by
      simp [quietStandsOn, QuietRecord.stands, quietOver, phase_recordCleared]
    simp [quietedBy, hholder, hstands]
  rw [quietFreed, undefer_steps (by simpa [quietOver] using hstate) (by simpa [quietOver] using hby)
    (by simpa [quietOver] using hblock) hquieted (by simpa [quietOver] using hstep) (by simpa [quietOver] using hfrozen)]
  simp [quietOver]

theorem chan_other_quietFreed (hstate : (s.chan c.other).session.state ≠ .deferred) :
    (quietFreed c b s).chan c.other = s.chan c.other := by
  rw [quietFreed, undefer_none (.inl (by simpa [quietOver] using hstate))]
  simp [quietOver]

/-- Whether the other channel's record waits for the block that an ended quiet has freed, with room for its QUIET. -/
def ServedAfter (c : Channel) (b : Block) (s : State) : Prop :=
  (s.chan c.other).quiet.block = some b ∧ quietMayQueue (quietFreed c b s) c.other = true

theorem ownQuietEnds_served (hb : (s.chan c).quiet.block = some b) (h : ServedAfter c b s) :
    ownQuietEnds c s = (queueQuiet c.other b (quietFreed c b s)).updQuiet c notedEnters := by
  obtain ⟨hblock, hmay⟩ := h
  have hblock : ((quietFreed c b s).chan c.other).quiet.block = some b := by rw [quiet_other_quietFreed, hblock]
  rw [ownQuietEnds_eq hb, if_pos hblock, serveQuiet_queues hblock hmay]

theorem ownQuietEnds_unserved (hb : (s.chan c).quiet.block = some b) (h : ¬ServedAfter c b s) :
    ownQuietEnds c s = (quietFreed c b s).updQuiet c notedEnters := by
  rw [ownQuietEnds_eq hb]
  by_cases hblock : ((quietFreed c b s).chan c.other).quiet.block = some b
  · rw [if_pos hblock]
    have hmay : ¬quietMayQueue (quietFreed c b s) c.other = true :=
      fun hmay => h ⟨by rw [← quiet_other_quietFreed, hblock], hmay⟩
    unfold serveQuiet
    rw [hblock]
    exact congrArg _ (if_neg hmay)
  · rw [if_neg hblock]

theorem not_servedAfter (h : (s.chan c.other).quiet.phase ≠ .pending ∨ (s.chan c.other).quiet.block ≠ some b ∨
    quietHolder s b ≠ none) : ¬ServedAfter c b s := by
  rintro ⟨hblock, hmay⟩
  have hblock' : ((quietFreed c b s).chan c.other).quiet.block = some b := by rw [quiet_other_quietFreed, hblock]
  have hservable : quietServable (quietFreed c b s) c.other = true := by
    by_contra hnot
    simp [quietMayQueue, hnot] at hmay
  obtain ⟨hphase, hfree, -⟩ := (quietServable_iff hblock').1 hservable
  rw [quiet_other_quietFreed] at hphase
  rw [quietHolder_quietFreed] at hfree
  rcases h with h | h | h
  · exact h hphase
  · exact h hblock
  · exact h hfree

/-! What is the same of an ended own quiet, whether the other record is served or not. -/

theorem quiet_ownQuietEnds (hb : (s.chan c).quiet.block = some b) :
    ((ownQuietEnds c s).chan c).quiet = notedEnters (recordCleared (s.chan c).quiet) ∧
    ((ownQuietEnds c s).chan c).session = { (s.chan c).session with quietHeld := none } ∧
    ((ownQuietEnds c s).chan c.other).session = ((quietFreed c b s).chan c.other).session ∧
    (ownQuietEnds c s).link.wire = s.link.wire ∧ (ownQuietEnds c s).link.linkError = s.link.linkError := by
  have hself := chan_quietFreed (s := s) (c := c) (b := b)
  by_cases h : ServedAfter c b s
  · rw [ownQuietEnds_served hb h]
    simp [hself, queueQuiet, enqueue, link_quietFreed]
  · rw [ownQuietEnds_unserved hb h]
    simp [hself, link_quietFreed]

/-- No frame waits for room ahead of a PENDING quiet that did not before (R85). -/
theorem aheadOfQuiet_gone (h : FrameGone s f err v) (hf : f.body ≠ .noteMark) (hl : LinkOk s.link) (hm : f ∈ s.link.queue) :
    aheadOfQuiet v = aheadOfQuiet s := by
  have hany : (s.link.queue.filter (·.entry ≠ f.entry)).any (·.body == .noteMark) =
      s.link.queue.any (·.body == .noteMark) := by
    rw [Bool.eq_iff_iff]
    simp only [List.any_eq_true, List.mem_filter, beq_iff_eq, decide_eq_true_eq]
    constructor
    · rintro ⟨g, ⟨hg, -⟩, hbody⟩
      exact ⟨g, hg, hbody⟩
    · rintro ⟨g, hg, hbody⟩
      exact ⟨g, ⟨hg, fun he => hf (frame_unique hl hm hg he ▸ hbody)⟩, hbody⟩
  have hnote : v.noteMark = s.noteMark := by
    unfold State.noteMark State.onLine
    rw [h.link, h.phase, h.tickets]
    dsimp only
    rw [hany]
  unfold aheadOfQuiet aheadOfNote
  rw [hnote, h.link]

/-- The other channel's PENDING record on the freed block is served, as soon as there is room (R139). -/
theorem servedAfter_of_free (h : FrameGone s f err v) (hf : f.body ≠ .noteMark) (hl : LinkOk s.link)
    (hm : f ∈ s.link.queue) (hphase : (s.chan c.other).quiet.phase = .pending)
    (hb : (s.chan c.other).quiet.block = some b) (hactive : s.link.state = .active) (hstarting : s.port.phase ≠ .starting)
    (hfree : quietHolder s b = none) (hwaiting : s.link.waiting = [])
    (hlow : lowCount s.link.queue + aheadOfChannelQuiet s c.other < 8)
    (hslots : s.link.queue.length + aheadOfChannelQuiet s c.other < 12) : ServedAfter c b v := by
  have hclear : ((quietFreed c b v).chan c).quiet.phase = .none := by rw [chan_quietFreed]; exact phase_recordCleared
  have hahead : aheadOfChannelQuiet (quietFreed c b v) c.other ≤ aheadOfChannelQuiet s c.other := by
    have hquiet : aheadOfQuiet (quietFreed c b v) = aheadOfQuiet s := by
      rw [← aheadOfQuiet_gone h hf hl hm]
      unfold aheadOfQuiet State.noteMark State.onLine
      rw [link_quietFreed, port_quietFreed, ticketStore_quietFreed]
    have hnone : ¬(c.other = .b ∧ quietServable (quietFreed c b v) .a) := by
      rintro ⟨hother, hservable⟩
      cases c with
      | a => exact absurd hservable (by rw [quietServable_phase (by rw [hclear]; simp)]; simp)
      | b => cases hother
    unfold aheadOfChannelQuiet
    rw [hquiet, if_neg hnone]
    exact Nat.le_add_right _ _
  have hq : v.link.queue = s.link.queue.filter (·.entry ≠ f.entry) := by rw [h.link]
  have hless : lowCount v.link.queue ≤ lowCount s.link.queue := by rw [hq]; exact lowCount_filter_le _ _
  have hshort : v.link.queue.length ≤ s.link.queue.length := by rw [hq]; exact List.length_filter_le _ _
  refine ⟨by rw [h.chan, hb], quietMayQueue_of_free (b := b) ?_ ?_ ?_ ?_ ?_ ?_ ?_ ?_ ?_⟩
  · rw [quiet_other_quietFreed, h.chan, hphase]
  · rw [quiet_other_quietFreed, h.chan, hb]
  · rw [link_quietFreed, h.link, hactive]
  · rw [port_quietFreed, h.phase]
    exact hstarting
  · rw [quietHolder_quietFreed, quietHolder_of_roster h.roster, hfree]
  · rw [other_other]
    exact .inl hclear
  · rw [link_quietFreed, h.link, hwaiting]
  · rw [link_quietFreed]
    omega
  · rw [link_quietFreed]
    omega

end Ended

/-! ### The end of an own QUIET-END -/

section OwnEnd

variable {s : State} {w : Attempt} {f : QueuedFrame} {b : Block} {c : Channel} {how : AttemptEnd}

theorem ownFrameTaken_quietEnd (hw : w.body = .quietEnd b) : ownFrameTaken w (some c) s = ownQuietEnds c s := by
  unfold ownFrameTaken
  rw [hw]

theorem ownFrameTaken_quiet (hw : w.body = .quiet b) : ownFrameTaken w (some c) s = ownQuietTaken c s := by
  unfold ownFrameTaken
  rw [hw]

theorem attemptNotTaken_quiet (hbody : f.body = .built (.quiet b)) (horigin : f.origin = some c) :
    attemptNotTaken f s = quietNotTaken c f s := by
  unfold attemptNotTaken
  rw [hbody, horigin]

theorem attemptWithdrawn_quietEnd (hbody : f.body = .built (.quietEnd b)) : attemptWithdrawn f s = false := by
  unfold attemptWithdrawn
  rw [hbody]

/-- A QUIET-END that is taken, or dropped after its fourth void, ends the quiet as its frame has left (R139). -/
theorem exec_quietEndGone (h : OnWire s w f) (hbody : f.body = .built (.quietEnd b)) (hwbody : w.body = .quietEnd b)
    (horigin : f.origin = some c) (hfarewell : s.inFarewell = false)
    (hhow : how = .slots true false ∨ (how = .slots true true ∧ f.voids = 3)) :
    ∃ v, FrameGone s f (decide (how = .slots true true)) v ∧ exec (.ownAttemptEnd how) s = .next (ownQuietEnds c v) := by
  rcases hhow with rfl | ⟨rfl, hvoids⟩
  · refine ⟨_, frameGone_removed, (exec_ownAttemptEnd _ s).trans (congrArg _ ?_)⟩
    rw [attemptEnds_taken h hfarewell rfl rfl, horigin, ownFrameTaken_quietEnd hwbody]
  · refine ⟨_, frameGone_dropped, (exec_ownAttemptEnd _ s).trans (congrArg _ ?_)⟩
    rw [attemptEnds_void h hfarewell rfl rfl, attemptVoid_dropped (attemptWithdrawn_quietEnd hbody) hvoids, hbody,
      horigin]
    rfl

/-- An own QUIET is taken: its record SETTLING, or by a withdrawal HELD, and quiet held in its session (R130, R131). -/
def quietTakes (c : Channel) (b : Block) (s : State) : State :=
  (s.updQuiet c (quietTakenRecord s.now)).updSession c fun x =>
    if x.state = .idle then x else { x with quietHeld := some b }

theorem ownQuietTaken_eq (hb : (s.chan c).quiet.block = some b) : ownQuietTaken c s = answerOwnQuiet c b
    (if (s.chan c).quiet.withdrawal = some .ended then endQuiet c (quietTakes c b s) else quietTakes c b s) := by
  unfold ownQuietTaken
  rw [hb]
  rfl

/-- What a taken QUIET does to the other channel's session leaves an ENDING record and the link as they were (R131). -/
theorem answerOwnQuiet_ending (hphase : (s.chan c).quiet.phase = .ending) :
    ((answerOwnQuiet c b s).chan c).quiet = (s.chan c).quiet ∧ (answerOwnQuiet c b s).link = s.link := by
  have hdefer : (deferClaimed c.other .own s).chan c = s.chan c := by
    have hother := chan_updSession_other c.other (fun x => { x with state := .deferred, deferredBy := some .own }) s
    rwa [other_other] at hother
  unfold answerOwnQuiet
  dsimp only
  split
  · exact ⟨rfl, rfl⟩
  · split
    · rw [hdefer]
      exact ⟨rfl, by simp [deferClaimed]⟩
    · rw [if_neg (by simp [hphase])]
      exact ⟨rfl, rfl⟩
    · rw [if_neg (by simp [hphase])]
      exact ⟨rfl, rfl⟩
    · exact ⟨rfl, rfl⟩

/-- An own QUIET whose withdrawal is pending, its measurement ended: taken, it ends at once (R130, R139). -/
theorem ownQuietTaken_ended (hb : (s.chan c).quiet.block = some b)
    (hwithdrawn : (s.chan c).quiet.withdrawal = some .ended) (hroom : UrgentRoom s) :
    ((ownQuietTaken c s).chan c).quiet.phase = .ending ∧
    (ownQuietTaken c s).link = linkWith (.quietEnd b) (some c) s.link := by
  have hend := endQuiet_of_room (c := c) (b := b) (s := quietTakes c b s)
    (by simpa [quietTakes, quietTakenRecord] using hb) (by rwa [UrgentRoom, quietTakes, link_updSession, link_updQuiet])
  obtain ⟨hquiet, hlink⟩ := answerOwnQuiet_ending (c := c) (b := b) (s := endQuiet c (quietTakes c b s))
    (by rw [hend]; simp [enqueue])
  rw [ownQuietTaken_eq hb, if_pos hwithdrawn, hquiet, hlink, hend]
  simp [enqueue, newFrame, queuedUrgency, linkWith, quietTakes]

theorem entry_afterLoss (f : QueuedFrame) : (afterLoss f).entry = f.entry := by
  unfold afterLoss
  dsimp only
  split <;> rfl

/-- A frame changed in its place leaves the same frames behind as it goes. -/
theorem filter_entry_map {g : QueuedFrame → QueuedFrame} (hg : ∀ x, (g x).entry = x.entry) (n : Nat)
    (q : List QueuedFrame) : ((q.map g).filter (·.entry ≠ n)).map (·.entry) = (q.filter (·.entry ≠ n)).map (·.entry) := by
  rw [List.filter_map, List.map_map]
  simp only [Function.comp_def, hg]

end OwnEnd

/-! ### The end of a measurement that asked for quiet -/

section Asked

variable {s : State} {c : Channel} {b : Block} {f : QueuedFrame} {r : MeasureRecord}

theorem quietEndAsked_none (h : (s.chan c).quiet.phase = .none) : quietEndAsked c s = s := by
  unfold quietEndAsked
  rw [h]

theorem quietEndAsked_pending (h : (s.chan c).quiet.phase = .pending) :
    quietEndAsked c s = s.updQuiet c fun _ => .initial := by
  unfold quietEndAsked
  rw [h]

theorem quietEndAsked_ending (h : (s.chan c).quiet.phase = .ending) :
    quietEndAsked c s = s.updQuiet c fun q => { q with requestNoted := false, notedBlock := none } := by
  unfold quietEndAsked
  rw [h]

theorem quietEndAsked_queued (h : (s.chan c).quiet.phase = .requested) (hf : s.link.quietFrame c = some f)
    (hwire : s.link.onWire f = false) : quietEndAsked c s = (removeFrame f s).updQuiet c fun _ => .initial := by
  unfold quietEndAsked
  rw [h, hf]
  exact if_neg (by simp [frameOnWire, hwire])

theorem quietEndAsked_onWire (h : (s.chan c).quiet.phase = .requested) (hf : s.link.quietFrame c = some f)
    (hwire : s.link.onWire f = true) : quietEndAsked c s = s.updQuiet c fun q =>
      { q with withdrawal := some .ended, requestNoted := false, notedBlock := none } := by
  unfold quietEndAsked
  rw [h, hf]
  exact if_pos (by simp [frameOnWire, hwire])

theorem quietEndAsked_standing (h : (s.chan c).quiet.phase = .settling ∨ (s.chan c).quiet.phase = .held) :
    quietEndAsked c s = endQuiet c s := by
  unfold quietEndAsked
  rcases h with h | h <;> rw [h]

/-- An operator's measurement that asked for quiet, cut short, does to the quiet what `quietEndAsked` does (R139). -/
theorem cutMeasurement_quiet {o : MeasureOutcome} {done : ChannelOutcome} (hr : (s.chan c).engine.record = some r)
    (hquiet : needsQuiet r.stages = true) (hp : (s.chan c).session.purpose = .operator) :
    ((cutMeasurement c o done s).chan c).engine.phase = .idle ∧
    ((cutMeasurement c o done s).chan c).quiet = ((quietEndAsked c s).chan c).quiet ∧
    (cutMeasurement c o done s).link = (quietEndAsked c s).link := by
  have hclosed : closeMeasurement c { r with outcome := some o } s = ((quietEndAsked c s).updSession c fun x =>
      { x with lastResult := some { r with outcome := some o } }).updEngine c fun _ => .initial := by
    unfold closeMeasurement
    rw [if_pos hquiet]
  rw [cutMeasurement_operator hr hp, measureDone, measurementClosed, backToConnected, hclosed]
  simp [EngineRecord.initial]

end Asked

/-- Settles O39: a QUIET-END by `ownQuietEnds_served` and `ownQuietEnds_unserved`, a measurement's end by
`cutMeasurement_quiet`, a withdrawn QUIET by what its attempt's end does. -/
theorem ownQuietsEndWithTheirMeasurement : Obligations.OwnQuietsEndWithTheirMeasurement := by
  refine ⟨fun s w f b c hw hl hf he hbody hwbody horigin hfarewell hb how hhow => ?_, fun s c r hr hquiet hp => ?_,
    fun s w f b c hw hl hf he hbody hwbody horigin hfarewell hwaiting hb hwithdrawn hnoted => ?_⟩
  · obtain ⟨v, hgone, hexec⟩ := exec_quietEndGone ⟨hw, hl, hf, he⟩ hbody hwbody horigin hfarewell hhow
    have hvb : (v.chan c).quiet.block = some b := by rw [hgone.chan, hb]
    have hholder : quietHolder v b = quietHolder s b := quietHolder_of_roster hgone.roster b
    have hcalm : ¬ServedAfter c b v → (ownQuietEnds c v).link.queue = s.link.queue.filter (·.entry ≠ f.entry) ∧
        ((ownQuietEnds c v).chan c.other).quiet = (s.chan c.other).quiet := by
      intro h
      rw [ownQuietEnds_unserved hvb h]
      simp [link_quietFreed, hgone.link, quiet_other_quietFreed, hgone.chan]
    obtain ⟨hquiet, hsession, hsother, hwire, herr⟩ := quiet_ownQuietEnds hvb
    dsimp only
    refine ⟨_, hexec, ?_, fun hor => ?_, fun hphase hqb hactive hstarting hfree hwaiting hlow hslots => ?_, fun hheld => ?_,
      ?_, ?_, ?_, fun hstate hby hblock hfree hstep hfrozen => ?_, fun hstate hor => ?_⟩
    · rw [hwire, hgone.link]
    · refine hcalm (not_servedAfter ?_)
      rw [hgone.chan]
      exact hor.imp_right .inl
    · have hserved := servedAfter_of_free hgone (by rw [hbody]; simp) hl hf hphase hqb hactive hstarting hfree hwaiting
        hlow hslots
      rw [ownQuietEnds_served hvb hserved]
      simp [queueQuiet, enqueue, newFrame, queuedUrgency, urgencyOf, link_quietFreed, hgone.link, quiet_other_quietFreed,
        hgone.chan]
    · refine hcalm (not_servedAfter (.inr (.inr ?_)))
      rwa [hholder]
    · rw [herr, hgone.link]
    · rw [hsession, hgone.chan]
    · rw [hquiet, recordEnded_eq, hgone.chan]
    · rw [hsother, session_quietFreed (by rwa [hgone.chan]) (by rwa [hgone.chan]) (by rwa [hgone.chan])
        (by rwa [hholder]) (by rwa [hgone.chan]) (by rwa [hgone.chan]), hgone.chan]
    · have hunserved : ¬ServedAfter c b v := by
        refine not_servedAfter ?_
        rw [hgone.chan]
        exact hor.imp_right .inl
      rw [ownQuietEnds_unserved hvb hunserved]
      simp [chan_other_quietFreed, hgone.chan, hstate]
  · intro q ended
    have hended : ∀ o done, ended (cutMeasurement c o done s) := by
      intro o done
      obtain ⟨hidle, hq, hlink⟩ := cutMeasurement_quiet (o := o) (done := done) hr hquiet hp
      refine ⟨hidle, fun hphase => ?_, fun hphase => ?_, fun f hphase hf => ⟨fun hwire => ?_, fun hwire => ?_⟩,
        fun b hphase hb hroom => ?_, fun hphase => ?_⟩ <;> rw [hq, hlink]
      · rw [quietEndAsked_none hphase]
        exact ⟨rfl, rfl⟩
      · rw [quietEndAsked_pending hphase]
        simp
      · rw [quietEndAsked_queued hphase hf hwire]
        simp [link_removeFrame, filter_bne_entry]
      · rw [quietEndAsked_onWire hphase hf hwire]
        simp [q]
      · rw [quietEndAsked_standing hphase, endQuiet_of_room hb hroom]
        simp [q, enqueue, newFrame, queuedUrgency, linkWith]
      · rw [quietEndAsked_ending hphase]
        simp [q]
    refine ⟨fun hdue => ⟨_, ?_, hended .headTimeout .headTimeout⟩, fun hphase hcmd hstate =>
      ⟨_, answers_of_take hphase rfl ?_, hended .cancelled .cancelled⟩⟩
    · rw [exec_headTimeout, if_pos (headTimedOut_iff.2 hdue)]
    · rw [takeCancel_command (isAutomatic_false hp) hcmd]
      exact congrArg _ (if_pos hstate)
  · have h : OnWire s w f := ⟨hw, hl, hf, he⟩
    have hgone := frameGone_removed (s := s) (f := f)
    obtain ⟨hending, hlink⟩ := ownQuietTaken_ended (c := c) (b := b) (s := removeFrame f (clearWire s))
      (by rw [hgone.chan, hb]) (by rw [hgone.chan, hwithdrawn]) (hgone.urgentRoom hl hf hwaiting)
    refine ⟨⟨ownQuietTaken c (removeFrame f (clearWire s)), ?_, hending, ?_⟩,
      ⟨quietNotTaken c f (updateFrame f afterLoss (clearWire s)), ?_, ?_⟩⟩
    · rw [exec_ownAttemptEnd, attemptEnds_taken h hfarewell rfl rfl, horigin, ownFrameTaken_quiet hwbody]
    · rw [hlink, hgone.link]
      simp [linkWith]
    · rw [exec_arbitrationLoss hw, arbitrationLost_frame h, attemptNotTaken_quiet hbody horigin]
    · have hpending : ((updateFrame f afterLoss (clearWire s)).chan c).quiet.withdrawal.isSome = true := by
        simp [hwithdrawn]
      rw [quietNotTaken, if_pos hpending]
      refine ⟨by simp [recordEnded, recordEnded_eq, hnoted], ?_⟩
      rw [link_updQuiet, link_removeFrame, filter_bne_entry, link_updateFrame, link_clearWire]
      refine filter_entry_map (fun x => ?_) _ _
      split
      · exact entry_afterLoss x
      · rfl

/-! ### A foreign quiet recorded -/

section Foreign

variable {s : State} {c d : Channel} {b old : Block} {n : Station} {f : QueuedFrame} {p : Peer}

/-- The row of a frame heard that shows its sender neither new nor first joining (R79, R97). -/
theorem exec_heard_of {a : FrameBody} (h : Heard s n a) (hp : s.peer n = some p)
    (hj : joiningFlag a = false ∨ p.joining = true) :
    exec (frameRow n a) s = .next (applyFrame n a { p with lastHeard := s.now } (s.heard n)) := by
  rw [exec_frameRow, frameTaken_heard h, handOn_heard hp hj]

@[simp] theorem quiet_quietEnded : ((quietEnded n b s).chan d).quiet = (s.chan d).quiet := by
  simp [quietEnded, undeferBoth]
@[simp] theorem claim_quietEnded : ((quietEnded n b s).chan d).claim = (s.chan d).claim := by
  simp [quietEnded, undeferBoth]
@[simp] theorem clears_quietEnded : ((quietEnded n b s).chan d).clears = (s.chan d).clears := by
  simp [quietEnded, undeferBoth]
@[simp] theorem engine_quietEnded : ((quietEnded n b s).chan d).engine = (s.chan d).engine := by
  simp [quietEnded, undeferBoth]
@[simp] theorem link_quietEnded : (quietEnded n b s).link = s.link := by simp [quietEnded, undeferBoth]
@[simp] theorem port_quietEnded : (quietEnded n b s).port = s.port := by simp [quietEnded, undeferBoth]
@[simp] theorem roster_quietEnded : (quietEnded n b s).roster = s.roster := by simp [quietEnded, undeferBoth]
@[simp] theorem store_quietEnded : (quietEnded n b s).store = s.store := by simp [quietEnded, undeferBoth]
@[simp] theorem now_quietEnded : (quietEnded n b s).now = s.now := by simp [quietEnded, undeferBoth]
@[simp] theorem ticketStore_quietEnded : (quietEnded n b s).ticketStore = s.ticketStore := by
  simp [quietEnded, undeferBoth]

theorem channel_eq_or_other (c d : Channel) : d = c ∨ d = c.other := by
  cases c <;> cases d <;> decide

/-- The end of a quiet on one block moves no session that is on another (R25). -/
theorem chan_undefer_elsewhere {h : Holder} (hblock : (s.chan d).session.block ≠ b) :
    (undefer c h b s).chan d = s.chan d := by
  rcases channel_eq_or_other c d with rfl | rfl
  · rw [undefer_none (.inr (.inr hblock))]
  · exact chan_other_undefer

theorem chan_quietEnded_elsewhere (hblock : (s.chan d).session.block ≠ b) : (quietEnded n b s).chan d = s.chan d := by
  rw [quietEnded, undeferBoth, chan_undefer_elsewhere, chan_undefer_elsewhere hblock]
  rwa [chan_undefer_elsewhere hblock]

theorem block_undefer_of (c : Channel) {h : Holder} :
    ((undefer c h b s).chan d).session.block = (s.chan d).session.block := by
  rcases channel_eq_or_other c d with rfl | rfl
  · exact block_undefer
  · rw [chan_other_undefer]

theorem block_quietEnded : ((quietEnded n b s).chan d).session.block = (s.chan d).session.block := by
  rw [quietEnded, undeferBoth, block_undefer_of, block_undefer_of]

/-- A session that has nothing to answer to a quiet on a block: it is elsewhere, or in no state that answers (R133). -/
def NothingToAnswer (s : State) (b : Block) : Prop := ∀ d, (s.chan d).session.block ≠ b ∨
  (s.chan d).session.state ∉ [SessionState.claimed, .connecting, .releasing]

theorem answerQuiet_nothing (h : NothingToAnswer s b) (c : Channel) : answerQuiet c b n s = s := by
  unfold answerQuiet
  dsimp only
  rcases h c with h | h
  · exact if_pos h
  · simp only [List.mem_cons, List.not_mem_nil, or_false, not_or] at h
    obtain ⟨hclaimed, hconnecting, hreleasing⟩ := h
    split
    · rfl
    · split <;> simp_all

theorem NothingToAnswer.quietEnded (h : NothingToAnswer s b) (hold : old ≠ b) :
    NothingToAnswer (quietEnded n old s) b := by
  intro d
  by_cases hblock : (s.chan d).session.block = b
  · rw [chan_quietEnded_elsewhere (by rw [hblock]; exact hold.symm)]
    exact h d
  · exact .inl (by rwa [block_quietEnded])

theorem withdrawRequested_none (h : (s.chan c).quiet.phase ≠ .requested) : withdrawRequested c b s = s :=
  if_neg fun hall => h hall.1

theorem withdrawRequested_queued (hphase : (s.chan c).quiet.phase = .requested) (hb : (s.chan c).quiet.block = some b)
    (hwire : s.link.wire = none) (hf : s.link.quietFrame c = some f) :
    withdrawRequested c b s = (removeFrame f s).updQuiet c fun q => { q with phase := .pending } := by
  have hoff : ¬frameOnWire s.link (s.link.quietFrame c) = true := by
    simp [frameOnWire, hf, Link.onWire, hwire]
  refine (if_pos ⟨hphase, hb, hoff⟩).trans ?_
  rw [hf, removeIfQueued_some]

/-- A quiet newly recorded on a block takes the one own QUIET requested there out of the queue (R132). -/
theorem withdrawBoth_one (hother : (s.chan c.other).quiet.phase ≠ .requested)
    (hphase : (s.chan c).quiet.phase = .requested) (hb : (s.chan c).quiet.block = some b) (hwire : s.link.wire = none)
    (hf : s.link.quietFrame c = some f) :
    withdrawBoth b s = (removeFrame f s).updQuiet c fun q => { q with phase := .pending } := by
  have hqueued := withdrawRequested_queued hphase hb hwire hf
  cases c with
  | a =>
    rw [withdrawBoth, hqueued, withdrawRequested_none]
    rw [show Channel.b = Channel.other .a from rfl, chan_updQuiet_other, chan_removeFrame]
    exact hother
  | b => rw [withdrawBoth, withdrawRequested_none (c := .a) hother, hqueued]

theorem withdrawBoth_none (h : ∀ c, (s.chan c).quiet.phase ≠ .requested) : withdrawBoth b s = s := by
  rw [withdrawBoth, withdrawRequested_none (h .a), withdrawRequested_none (h .b)]

theorem findQuiet_recorded (hfree : ∀ o ∈ s.roster, ∀ q ∈ o.quiets, q.block ≠ b) (hown : ownQuietOn s b = false) :
    findQuiet s n b = .recorded := by
  have hlisted : ¬((s.peer n).any fun p => p.quiets.any (·.block == b)) = true := by
    cases hp : s.peer n with
    | none => simp
    | some p => simpa using hfree p (peer_mem hp).1
  rw [findQuiet, if_neg hlisted, if_neg]
  rw [(quietHolder_none_iff b).2 hfree, hown]
  simp

theorem peer_of_roster {t : State} (h : t.roster = s.roster) : t.peer n = s.peer n := by
  rw [State.peer, State.peer, h]

theorem peer_removeQuiet (hp : s.peer n = some p) :
    (removeQuiet n old s).peer n = some { p with quiets := p.quiets.filter (·.block != old) } :=
  peer_updatePeer (fun _ => rfl) hp

theorem peer_addQuiet (hp : s.peer n = some p) :
    (addQuiet n b s).peer n = some { p with quiets := p.quiets ++ [⟨b, s.now + 10500⟩] } :=
  peer_updatePeer (fun _ => rfl) hp

/-- The oldest of two quiet blocks of a station leaves for a third (R99). -/
def makesRoom (n : Station) (s : State) : State :=
  match displacedQuiet s n with
  | none => s
  | some old => quietEnded n old (removeQuiet n old s)

theorem recordQuiet_eq : recordQuiet n b s =
    answerQuiet .b b n (answerQuiet .a b n (withdrawBoth b (addQuiet n b (makesRoom n s)))) := rfl

theorem makesRoom_cases : makesRoom n s = s ∨
    ∃ old p, s.peer n = some p ∧ (∃ q ∈ p.quiets, q.block = old) ∧ makesRoom n s = quietEnded n old (removeQuiet n old s) := by
  unfold makesRoom displacedQuiet
  cases hp : s.peer n with
  | none => exact .inl rfl
  | some p =>
    rcases hq : p.quiets with _ | ⟨q, _ | ⟨q', rest⟩⟩
    · simp [hq]
    · simp [hq]
    · refine .inr ⟨q.block, p, rfl, ⟨q, by simp [hq], rfl⟩, ?_⟩
      simp [hq]

/-- The room a station makes for a new block touches no quiet, no frame and no session on that block. -/
theorem makesRoom_frame (hfree : ∀ o ∈ s.roster, ∀ q ∈ o.quiets, q.block ≠ b) :
    (∀ d, ((makesRoom n s).chan d).quiet = (s.chan d).quiet) ∧ (makesRoom n s).link = s.link ∧
    (NothingToAnswer s b → NothingToAnswer (makesRoom n s) b) ∧
    ((s.peer n).isSome = true → ((makesRoom n s).peer n).isSome = true) := by
  rcases makesRoom_cases (s := s) (n := n) with h | ⟨old, p, hp, ⟨q, hq, hold⟩, h⟩ <;> rw [h]
  · exact ⟨fun _ => rfl, rfl, id, id⟩
  · have hne : old ≠ b := by
      rw [← hold]
      exact hfree p (peer_mem hp).1 q hq
    refine ⟨fun d => by simp [removeQuiet], by simp [removeQuiet], fun hcalm => ?_, fun _ => ?_⟩
    · refine NothingToAnswer.quietEnded (fun d => ?_) hne
      rw [removeQuiet, chan_updatePeer]
      exact hcalm d
    · rw [peer_of_roster (roster_quietEnded), peer_removeQuiet hp]
      rfl

theorem quietHolder_heard : quietHolder (s.heard n) b = quietHolder s b := by
  have hmap : ∀ r : List Peer, (r.map fun q => if q.station = n then { q with lastHeard := s.now } else q).find?
      (fun p => p.quiets.any (·.block == b)) = (r.find? fun p => p.quiets.any (·.block == b)).map
        fun q => if q.station = n then { q with lastHeard := s.now } else q := by
    intro r
    rw [List.find?_map]
    congr 2
    funext q
    simp only [Function.comp_apply]
    split <;> rfl
  rw [quietHolder, quietHolder, State.heard, roster_updatePeer, rosterWith, roster_answered, hmap, Option.map_map]
  congr 1
  funext q
  simp only [Function.comp_apply]
  split <;> rfl

theorem contest_nil : contest n [] s = s := by
  have hfirst : ∀ c (v : State), contestFirst n [] c v = v := by
    intro c v
    simp [contestFirst, lineContested, trunkContested]
  have hsecond : ∀ c (v : State), contestSecond n [] c v = v := by
    intro c v
    simp [contestSecond, trunkContested]
  rw [contest, hfirst, hfirst, hsecond, hsecond]

/-- Quiets of a station that have left the view one after another (R100, R101). -/
theorem foldl_quietEnded_frame (bs : List Block) (s : State) : (∀ d,
    ((bs.foldl (fun r b => quietEnded n b r) s).chan d).quiet = (s.chan d).quiet) ∧
    (bs.foldl (fun r b => quietEnded n b r) s).link = s.link ∧
    (bs.foldl (fun r b => quietEnded n b r) s).roster = s.roster := by
  induction bs generalizing s with
  | nil => exact ⟨fun _ => rfl, rfl, rfl⟩
  | cons b bs ih =>
    obtain ⟨hquiet, hlink, hroster⟩ := ih (quietEnded n b s)
    rw [List.foldl_cons]
    exact ⟨fun d => by rw [hquiet, quiet_quietEnded], by rw [hlink, link_quietEnded], by rw [hroster, roster_quietEnded]⟩

theorem ownQuietOn_of_quiet {t : State} (h : ∀ d, (t.chan d).quiet = (s.chan d).quiet) :
    ownQuietOn t b = ownQuietOn s b := by
  rw [ownQuietOn, ownQuietOn, quietStandsOn, quietStandsOn, quietStandsOn, quietStandsOn, h, h]

theorem listsQuiet_of (hp : s.peer n = some p) (hb : ∃ q ∈ p.quiets, q.block = b) : listsQuiet s n b = true := by
  rw [listsQuiet, hp]
  simpa using hb

/-- The quiet blocks of a PRESENCE that lists the one free block beside those it listed before (R101). -/
theorem mem_presenceQuiets (hfree : ∀ o ∈ s.roster, ∀ q ∈ o.quiets, q.block ≠ b) (hlists : ∀ q ∈ p.quiets, q.block ≠ b)
    (hown : ownQuietOn s b = false) : presenceQuiets s p [b] = [⟨b, s.now + 10500⟩] := by
  have hkept : (p.quiets.filter fun q => [b].contains q.block) = [] :=
    List.filter_eq_nil_iff.2 fun q hq => by simpa using hlists q hq
  have hnew : ([b].filter fun k => !(p.quiets.any (·.block == k)) && !ownQuietOn s k &&
      !(s.roster.any fun o => o.station != p.station && o.quiets.any (·.block == k))) = [b] := by
    refine List.filter_eq_self.2 fun k hk => ?_
    rw [List.mem_singleton.1 hk, hown]
    have hnone : (p.quiets.any (·.block == b)) = false := by simpa using hlists
    have hothers : (s.roster.any fun o => o.station != p.station && o.quiets.any (·.block == b)) = false := by
      rw [List.any_eq_false]
      intro o ho
      simpa using fun _ => hfree o ho
    rw [hnone, hothers]
    rfl
  rw [presenceQuiets, hkept, hnew]
  rfl

@[simp] theorem session_withdrawRequested : ((withdrawRequested c b s).chan d).session = (s.chan d).session := by
  unfold withdrawRequested
  dsimp only
  split
  · simp
  · rfl

@[simp] theorem session_withdrawBoth : ((withdrawBoth b s).chan d).session = (s.chan d).session := by
  simp [withdrawBoth]

/-- A state in which a quiet of station `n` on a block has been recorded, and no own quiet or frame touched (R99). -/
structure Recorded (s : State) (n : Station) (b : Block) (w : State) : Prop where
  quiet : ∀ d, (w.chan d).quiet = (s.chan d).quiet
  link : w.link = s.link
  lists : listsQuiet w n b = true

/-- A QUIET for a free block is recorded and withdraws the own one there; no session answers it (R99, R132). -/
theorem takeQuiet_recorded (hp : s.peer n = some p) (hfree : ∀ o ∈ s.roster, ∀ q ∈ o.quiets, q.block ≠ b)
    (hown : ownQuietOn s b = false) (hcalm : NothingToAnswer s b) :
    ∃ w, takeQuiet n b s = withdrawBoth b w ∧ Recorded s n b w := by
  obtain ⟨hquiet, hlink, hnothing, hknown⟩ := makesRoom_frame (n := n) hfree
  obtain ⟨r, hr⟩ := Option.isSome_iff_exists.1 (hknown (by rw [hp]; rfl))
  have hstill : NothingToAnswer (withdrawBoth b (addQuiet n b (makesRoom n s))) b := by
    intro d
    rw [session_withdrawBoth, addQuiet, chan_updatePeer]
    exact hnothing hcalm d
  refine ⟨addQuiet n b (makesRoom n s), ?_, fun d => by simp [addQuiet, hquiet], by simp [addQuiet, hlink],
    listsQuiet_of (peer_addQuiet hr) ⟨_, List.mem_append_right _ (List.mem_singleton.2 rfl), rfl⟩⟩
  have htake : takeQuiet n b s = recordQuiet n b s := by
    unfold takeQuiet
    rw [findQuiet_recorded hfree hown]
  rw [htake, recordQuiet_eq, answerQuiet_nothing hstill .a, answerQuiet_nothing hstill .b]

/-- A PRESENCE that lists one free block and no holding records it and withdraws the own QUIET there (R101, R132). -/
theorem takePresence_recorded {j : Bool} (hp : s.peer n = some p)
    (hfree : ∀ o ∈ s.roster, ∀ q ∈ o.quiets, q.block ≠ b) (hown : ownQuietOn s b = false)
    (hj : j = false ∨ p.joining = true) :
    ∃ w, takePresence n j [] [b] p s = withdrawBoth b w ∧ Recorded s n b w := by
  have hlists : ∀ q ∈ p.quiets, q.block ≠ b := hfree p (peer_mem hp).1
  have hadds : presenceAdds s p [b] = [b] := by
    have hnone : (p.quiets.any (·.block == b)) = false := by simpa using hlists
    simp [presenceAdds, mem_presenceQuiets hfree hlists hown, hnone]
  obtain ⟨hquiet, hlink, hroster⟩ := foldl_quietEnded_frame (n := n) (presenceEnds p [b]) (replacePeer n j [] [b] s)
  refine ⟨(presenceEnds p [b]).foldl (fun r b => quietEnded n b r) (replacePeer n j [] [b] s), ?_,
    fun d => by rw [hquiet, replacePeer, chan_updatePeer], by rw [hlink, replacePeer, link_updatePeer], ?_⟩
  · have hfirst : (j && !p.joining) = false := by
      rcases hj with hj | hj <;> simp [hj]
    unfold takePresence
    dsimp only
    rw [hadds, hfirst, List.map_nil, contest_nil]
    rfl
  · have hpeer : (replacePeer n j [] [b] s).peer n = some { p with
        holdings := [], quiets := presenceQuiets s p [b], joining := j } := peer_updatePeer (fun _ => rfl) hp
    refine listsQuiet_of ((peer_of_roster hroster).trans hpeer) ⟨⟨b, s.now + 10500⟩, ?_, rfl⟩
    dsimp only
    rw [mem_presenceQuiets hfree hlists hown]
    exact List.mem_singleton.2 rfl

end Foreign

/-! ### A release beside a quiet -/

section Release

variable {s : State} {c : Channel} {b : Block} {n : Station}

/-- A foreign quiet on a block is answered QUIET-BUSY, unless the session owes it a clear already (R134). -/
def answersHolder (c : Channel) (b : Block) (s : State) : State :=
  match quietHolder s b with
  | none => s
  | some n => if owesClear (s.chan c) b n then s else queueBusy c b n s

/-- The other channel's own quiet on a block lists or marks the release (R136, R138). -/
def meetsOther (c : Channel) (b : Block) (s : State) : State :=
  if (s.chan c.other).quiet.block ≠ some b then s
  else if (s.chan c.other).quiet.phase = .settling then joinWait c.other .own s
  else if (s.chan c.other).quiet.phase = .held then markNoisy c.other s
  else s

theorem releaseDisturbs_eq : releaseDisturbs c s =
    meetsOther c (s.chan c).session.block (answersHolder c (s.chan c).session.block s) := rfl

theorem answersHolder_owed (hn : quietHolder s b = some n) (h : owesClear (s.chan c) b n = true) :
    answersHolder c b s = s := by
  unfold answersHolder
  rw [hn]
  exact if_pos h

theorem answersHolder_owes (hn : quietHolder s b = some n) (h : owesClear (s.chan c) b n = false)
    (hroom : UrgentRoom s) : answersHolder c b s =
      enqueue (.built (.quietBusy b n)) (some c) (s.updClears c (· ++ [⟨b, n, false, false⟩])) := by
  obtain ⟨hwaiting, hslots⟩ := hroom
  unfold answersHolder
  rw [hn]
  refine (if_neg (by rw [h]; exact Bool.false_ne_true)).trans ?_
  exact offerUrgent_of_room (by simpa using hwaiting) (by simpa using hslots)

theorem chan_other_answersHolder : (answersHolder c b s).chan c.other = s.chan c.other := by
  unfold answersHolder
  split
  · rfl
  · split
    · rfl
    · simp [queueBusy]

theorem meetsOther_settling (hb : (s.chan c.other).quiet.block = some b) (h : (s.chan c.other).quiet.phase = .settling) :
    meetsOther c b s = joinWait c.other .own s := (if_neg (not_not_intro hb)).trans (if_pos h)

theorem meetsOther_held (hb : (s.chan c.other).quiet.block = some b) (h : (s.chan c.other).quiet.phase = .held) :
    meetsOther c b s = markNoisy c.other s :=
  (if_neg (not_not_intro hb)).trans ((if_neg (by simp [h])).trans (if_pos h))

@[simp] theorem link_meetsOther : (meetsOther c b s).link = s.link := by
  unfold meetsOther
  repeat' split
  all_goals simp [joinWait, markNoisy]

@[simp] theorem clears_meetsOther (d : Channel) : ((meetsOther c b s).chan d).clears = (s.chan d).clears := by
  unfold meetsOther
  repeat' split
  all_goals simp [joinWait, markNoisy]

/-- The state of an accepted RELEASE before its session's quiets (R35). -/
def releaseBegun (c : Channel) (s : State) : State :=
  ((s.setCommand c (some .release)).updSession c fun x => { x with relayStep := some 5 }).updSession c fun x =>
    { x with state := .releasing }

theorem takeReleaseCommand_begins (hstate : (s.chan c).session.state = .connected)
    (hpurpose : (s.chan c).session.purpose = .operator) (hbusy : s.busy c = false) (hdone : s.done c = false) :
    takeReleaseCommand (some c) s = (.accepted .nothing, giveRelease c .cutOff
      (meetsOther c (s.chan c).session.block (answersHolder c (s.chan c).session.block (releaseBegun c s)))) := by
  rw [takeReleaseCommand_operator (by simp [hstate]) hpurpose, if_neg (by simp [hbusy, hdone]),
    if_neg (not_not_intro hstate), enterReleasing_driven (n := 5) (by simp), releaseDisturbs_eq]
  simp [releaseBegun, accepted]

theorem quiet_joinWait (h : Holder) : ((joinWait c h s).chan c).quiet = { (s.chan c).quiet with
    waitList := if h ∈ (s.chan c).quiet.waitList then (s.chan c).quiet.waitList
      else (s.chan c).quiet.waitList ++ [h] } := by
  rw [joinWait]
  by_cases hmem : h ∈ (s.chan c).quiet.waitList <;> simp [hmem]

theorem quiet_giveRelease (r : Relay) (d : Channel) : ((giveRelease c r s).chan d).quiet = (s.chan d).quiet := by
  simp [giveRelease]

theorem owesClear_iff (r : ChannelRecord) : owesClear r b n = true ↔
    ∃ k ∈ r.clears, k.block = b ∧ k.requester = n ∧ k.clearQueued = false := by
  simp [owesClear, and_assoc]

end Release

/-- Settles O40: a QUIET by `recordQuiet_eq`, a PRESENCE by its one new block, a release by `releaseDisturbs_eq`. -/
theorem foreignQuietsWithdrawAndAreAnswered : Obligations.ForeignQuietsWithdrawAndAreAnswered := by
  refine ⟨fun s n b c f p _ hp hfree hown hphase hb hf hother hcalm i j hi => ?_, fun s c hport hstate hpurpose hbusy hdone => ?_⟩
  · have hvp : (s.heard n).peer n = some { p with lastHeard := s.now } := peer_heard hp
    have hvfree : ∀ o ∈ (s.heard n).roster, ∀ q ∈ o.quiets, q.block ≠ b := by
      rw [← quietHolder_none_iff, quietHolder_heard, quietHolder_none_iff]
      exact hfree
    have hvown : ownQuietOn (s.heard n) b = false := by
      rw [ownQuietOn_of_quiet (s := s) (fun d => by rw [chan_heard])]
      exact hown
    have hends : ∀ w : State, Recorded (s.heard n) n b w → s.link.wire = none →
        ((withdrawBoth b w).chan c).quiet = { (s.chan c).quiet with phase := .pending } ∧
        (withdrawBoth b w).link.queue = s.link.queue.filter (·.entry ≠ f.entry) ∧
        listsQuiet (withdrawBoth b w) n b = true := by
      intro w hw hwire
      have hquiet : ∀ d, (w.chan d).quiet = (s.chan d).quiet := fun d => by rw [hw.quiet, chan_heard]
      have hlink : w.link = s.answered.link := hw.link
      rw [withdrawBoth_one (f := f) (by rwa [hquiet]) (by rwa [hquiet]) (by rwa [hquiet]) (by rw [hlink]; exact hwire)
        (by rw [hlink]; exact hf)]
      refine ⟨by simp [hquiet], by simp [link_removeFrame, hlink, filter_bne_entry], ?_⟩
      rw [listsQuiet, peer_of_roster (s := w) (by simp)]
      exact hw.lists
    rcases hi with ⟨rfl, h⟩ | ⟨rfl, h, hj⟩
    · obtain ⟨w, htake, hw⟩ := takeQuiet_recorded hvp hvfree hvown (fun d => by rw [chan_heard]; exact hcalm d)
      exact ⟨_, (exec_heard_of h hp (.inl rfl)).trans (congrArg _ htake), hends w hw h.wire⟩
    · obtain ⟨w, htake, hw⟩ := takePresence_recorded hvp hvfree hvown hj
      exact ⟨_, (exec_heard_of h hp hj).trans (congrArg _ htake), hends w hw h.wire⟩
  · intro b q
    have hv : quietHolder (releaseBegun c s) b = quietHolder s b := quietHolder_of_roster (by simp [releaseBegun]) b
    have hlinkv : (releaseBegun c s).link = s.link := by simp [releaseBegun]
    have hclears : ((releaseBegun c s).chan c).clears = (s.chan c).clears := by simp [releaseBegun]
    have hotherv : ((answersHolder c b (releaseBegun c s)).chan c.other) = s.chan c.other := by
      rw [chan_other_answersHolder]
      simp [releaseBegun]
    refine ⟨_, answers_of_take hport rfl (takeReleaseCommand_begins hstate hpurpose hbusy hdone),
      fun n hn => ⟨fun hall hroom => ?_, fun howed => ?_⟩, fun hb hphase => ?_, fun hb hphase r hrun hr => ?_⟩
    · have howes : owesClear ((releaseBegun c s).chan c) b n = false := by
        rw [← Bool.not_eq_true, owesClear_iff, hclears]
        rintro ⟨k, hk, hblock, hrequester, hqueued⟩
        rw [hall k hk hblock hrequester] at hqueued
        cases hqueued
      rw [answersHolder_owes (hv.trans hn) howes (by rwa [UrgentRoom, hlinkv])]
      simp [giveRelease, enqueue, hlinkv, hclears, newFrame, queuedUrgency, linkWith]
    · have howes : owesClear ((releaseBegun c s).chan c) b n = true := by
        rw [owesClear_iff, hclears]
        exact howed
      rw [answersHolder_owed (hv.trans hn) howes]
      simp [giveRelease, hlinkv, hclears]
    · rw [meetsOther_settling (by rw [hotherv]; exact hb) (by rw [hotherv]; exact hphase),
        quiet_giveRelease, quiet_joinWait, hotherv]
    · rw [meetsOther_held (by rw [hotherv]; exact hb) (by rw [hotherv]; exact hphase),
        markNoisy_running (by rw [hotherv]; exact hrun)]
      rw [giveRelease, engine_updSeq, chan_updEngine, hotherv, hr]
      rfl

end Sys2Proof.Machine
end

section
/-! The line joined: out notices one after another, the entry to JOINING (R89, R103, R104), and CONFIGURE (O18). -/

namespace Sys2Proof.Machine

/-! ### Tickets that stay -/

section SameTickets

variable {ts us vs : TicketStore} {s : State}

/-- The same tickets by number and line, with the same index, list and counter; none holds its note back anew (R142,
R161). -/
structure SameTickets (ts us : TicketStore) : Prop where
  index : us.index = ts.index
  closedNotes : us.closedNotes = ts.closedNotes
  nextNumber : us.nextNumber = ts.nextNumber
  lines : us.tickets.map (fun t => (t.number, t.line)) = ts.tickets.map fun t => (t.number, t.line)
  released : (∀ t ∈ ts.tickets, t.noteHeldBack = false) → ∀ t ∈ us.tickets, t.noteHeldBack = false

theorem SameTickets.refl (ts : TicketStore) : SameTickets ts ts := ⟨rfl, rfl, rfl, rfl, id⟩

theorem SameTickets.trans (h : SameTickets ts us) (k : SameTickets us vs) : SameTickets ts vs :=
  ⟨k.index.trans h.index, k.closedNotes.trans h.closedNotes, k.nextNumber.trans h.nextNumber, k.lines.trans h.lines,
    fun hall => k.released (h.released hall)⟩

theorem sameTickets_map {f : Ticket → Ticket} (hf : ∀ t, (f t).number = t.number ∧ (f t).line = t.line)
    (hn : ∀ t : Ticket, t.noteHeldBack = false → (f t).noteHeldBack = false) :
    SameTickets ts { ts with tickets := ts.tickets.map f } where
  index := rfl
  closedNotes := rfl
  nextNumber := rfl
  lines := by
    rw [List.map_map]
    refine List.map_congr_left fun t _ => ?_
    obtain ⟨hnumber, hline⟩ := hf t
    rw [Function.comp_apply, hnumber, hline]
  released hall t ht := by
    obtain ⟨u, hu, rfl⟩ := List.mem_map.1 ht
    exact hn u (hall u hu)

theorem sameTickets_updateTicket {n : TicketNo} {f : Ticket → Ticket}
    (hf : ∀ t, (f t).number = t.number ∧ (f t).line = t.line)
    (hn : ∀ t : Ticket, t.noteHeldBack = false → (f t).noteHeldBack = false) : SameTickets ts (updateTicket n f ts) := by
  refine sameTickets_map (fun t => ?_) fun t ht => ?_
  · split
    · exact hf t
    · exact ⟨rfl, rfl⟩
  · split
    · exact hn t ht
    · exact ht

theorem sameTickets_tellDropped {b : FrameBody} : SameTickets s.ticketStore (tellDropped b s).ticketStore := by
  have hreturned : ∀ k t, (handoverReturned k t).noteHeldBack = t.noteHeldBack := by
    intro k t
    unfold handoverReturned
    split <;> rfl
  unfold tellDropped
  split
  · split
    · exact SameTickets.refl _
    · split
      · exact SameTickets.refl _
      · split
        · rw [failHandover, emit_ticketStore, ticketStore_updTickets]
          exact sameTickets_updateTicket (fun t => ⟨handoverReturned_number _ t, handoverReturned_line _ t⟩)
            fun t ht => (hreturned _ t).trans ht
        · exact SameTickets.refl _
  · rw [ticketStore_updTickets]
    exact sameTickets_updateTicket (fun t => ⟨rfl, rfl⟩) fun _ _ => rfl
  · exact SameTickets.refl _

theorem sameTickets_tellDroppedFrame {f : QueuedFrame} : SameTickets s.ticketStore (tellDroppedFrame f s).ticketStore := by
  unfold tellDroppedFrame
  split
  · exact sameTickets_tellDropped
  · exact SameTickets.refl _
  · exact SameTickets.refl _

theorem sameTickets_announceOpen : SameTickets ts (announceOpen ts) := by
  refine sameTickets_map (fun t => ?_) fun t ht => ?_
  · split <;> exact ⟨rfl, rfl⟩
  · split <;> exact ht

end SameTickets

/-! ### Notices behind the queue -/

section Notices

variable {s t u r : State} {b : FrameBody} {k : Trunk} {ts : List Trunk}

/-- The state has only gained frames: at the end of the queue or in the holding area, with what a full holding area drops
(R82, R84). -/
structure Gains (s t : State) : Prop where
  link : t.link = { s.link with queue := t.link.queue, nextEntry := t.link.nextEntry, holding := t.link.holding,
                                linkError := t.link.linkError }
  queue : ∃ rest, t.link.queue.map (·.body) = s.link.queue.map (·.body) ++ rest
  beside : Beside s t
  phase : t.port.phase = s.port.phase
  auto : t.auto = s.auto
  tickets : SameTickets s.ticketStore t.ticketStore

theorem Gains.refl (s : State) : Gains s s := ⟨rfl, ⟨[], by simp⟩, Beside.refl s, rfl, rfl, SameTickets.refl _⟩

theorem Gains.trans (h : Gains s t) (k : Gains t u) : Gains s u := by
  obtain ⟨rest, hrest⟩ := h.queue
  obtain ⟨more, hmore⟩ := k.queue
  refine ⟨?_, ⟨rest ++ more, ?_⟩, h.beside.trans k.beside, k.phase.trans h.phase,
    k.auto.trans h.auto, h.tickets.trans k.tickets⟩
  · rw [k.link, h.link]
  · rw [hmore, hrest, List.append_assoc]

@[simp] theorem link_tellDropped : (tellDropped b s).link = s.link := by
  unfold tellDropped
  repeat' split
  all_goals simp [failHandover]

@[simp] theorem phase_tellDropped : (tellDropped b s).port.phase = s.port.phase := by
  unfold tellDropped
  repeat' split
  all_goals simp [failHandover]

theorem tellDroppedFrame_cases (f : QueuedFrame) : tellDroppedFrame f s = s ∨
    ∃ b, f.body = .built b ∧ tellDroppedFrame f s = tellDropped b s := by
  unfold tellDroppedFrame
  split
  · next b h => exact .inr ⟨b, h, rfl⟩
  · exact .inl rfl
  · exact .inl rfl

@[simp] theorem link_tellDroppedFrame {f : QueuedFrame} : (tellDroppedFrame f s).link = s.link := by
  rcases tellDroppedFrame_cases (s := s) f with h | ⟨b, -, h⟩ <;> rw [h]
  exact link_tellDropped

@[simp] theorem phase_tellDroppedFrame {f : QueuedFrame} : (tellDroppedFrame f s).port.phase = s.port.phase := by
  rcases tellDroppedFrame_cases (s := s) f with h | ⟨b, -, h⟩ <;> rw [h]
  exact phase_tellDropped

theorem gains_enqueue {q : QueuedBody} {o : Option Channel} : Gains s (enqueue q o s) :=
  ⟨by simp [enqueue], ⟨[q], by simp [enqueue, newFrame]⟩, beside_enqueue.2 (Beside.refl s), by simp [enqueue],
    by simp, by simpa using SameTickets.refl s.ticketStore⟩

theorem gains_holdFrame {f : QueuedFrame} : Gains s (holdFrame f s) := by
  have htickets : SameTickets s.ticketStore (holdFrame f s).ticketStore := by
    unfold holdFrame
    repeat' split
    · simpa using SameTickets.refl s.ticketStore
    · simpa using SameTickets.refl s.ticketStore
    · next oldest rest _ _ =>
      have h := sameTickets_tellDroppedFrame (f := oldest)
        (s := setLinkError (s.updLink fun l => { l with holding := rest ++ [f] }))
      simpa using h
  refine ⟨?_, ⟨[], ?_⟩, beside_holdFrame.2 (Beside.refl s), ?_, by simp, htickets⟩
  all_goals
    unfold holdFrame
    repeat' split
    all_goals simp

theorem gains_offerNotice : Gains s (offerNotice b s) := by
  unfold offerNotice
  split
  · exact gains_enqueue
  · exact gains_holdFrame

theorem gains_queueTrunkNotice {out : Bool} : Gains s (queueTrunkNotice k out s) := by
  unfold queueTrunkNotice
  split
  · exact gains_offerNotice
  · exact Gains.refl s

/-- Out notices for trunks one after another (R104, R105). -/
def outNotices (ts : List Trunk) (s : State) : State := ts.foldl (fun r t => queueTrunkNotice t true r) s

theorem gains_outNotices : Gains s (outNotices ts s) := by
  induction ts generalizing s with
  | nil => exact Gains.refl s
  | cons k ts ih => exact gains_queueTrunkNotice.trans ih

/-- Out notices go out for the trunks that this station declared out, as the store says at the start (R104). -/
theorem announceTrunks_eq : announceTrunks s = outNotices s.declaredOut s := by
  have hfold : ∀ (ts : List Trunk) (r : State), r.store = s.store →
      ts.foldl (fun r t => if (r.trunkEntry t).declaredBy = some .self then queueTrunkNotice t true r else r) r =
        outNotices (ts.filter fun t => (s.trunkEntry t).declaredBy = some .self) r := by
    intro ts
    induction ts with
    | nil => exact fun r _ => rfl
    | cons k ts ih =>
      intro r hr
      have hentry : r.trunkEntry k = s.trunkEntry k := trunkEntry_of_store hr k
      by_cases hself : (s.trunkEntry k).declaredBy = some .self
      · rw [List.foldl_cons, hentry, if_pos hself, List.filter_cons_of_pos (by simpa using hself),
          ih _ ((gains_queueTrunkNotice.beside.store).trans hr)]
        rfl
      · rw [List.foldl_cons, hentry, if_neg hself, List.filter_cons_of_neg (by simpa using hself), ih r hr]
  exact hfold allTrunks s rfl

/-- A frame whose drop the Ticket Store does not hear of. -/
def IsTrunkNotice (f : QueuedFrame) : Prop := ∃ t o, f.body = .built (.trunkNotice t o)

/-- The holding area holds no frame but trunk notices. -/
def NoticesHeld (s : State) : Prop := ∀ f ∈ s.link.holding, IsTrunkNotice f

theorem tellDroppedFrame_notice {f : QueuedFrame} (h : IsTrunkNotice f) : tellDroppedFrame f s = s := by
  obtain ⟨t, o, hbody⟩ := h
  unfold tellDroppedFrame
  rw [hbody]
  rfl

/-- Notices of trunks that find no frame but such in the holding area leave the tickets alone (R163). -/
theorem offerNotice_noticesHeld {out : Bool} (h : NoticesHeld s) :
    NoticesHeld (offerNotice (.trunkNotice k out) s) ∧
    (offerNotice (.trunkNotice k out) s).ticketStore = s.ticketStore := by
  have hnew : IsTrunkNotice (newFrame (.built (.trunkNotice k out)) none 0) := ⟨k, out, rfl⟩
  unfold offerNotice
  split
  · exact ⟨by simpa [NoticesHeld, enqueue] using h, by simp⟩
  · unfold holdFrame
    split
    · exact ⟨by simpa [NoticesHeld] using hnew, by simp⟩
    · next oldest rest hheld =>
      rw [NoticesHeld, hheld, List.forall_mem_cons] at h
      obtain ⟨holdest, hrest⟩ := h
      split
      · refine ⟨?_, by simp⟩
        rw [NoticesHeld, link_updLink, hheld]
        simpa [or_imp, forall_and, hnew] using ⟨holdest, hrest⟩
      · rw [tellDroppedFrame_notice holdest]
        refine ⟨?_, by simp⟩
        rw [NoticesHeld, link_setLinkError, link_updLink]
        simpa [or_imp, forall_and, hnew] using hrest

theorem outNotices_noticesHeld (h : NoticesHeld s) : (outNotices ts s).ticketStore = s.ticketStore := by
  induction ts generalizing s with
  | nil => rfl
  | cons k ts ih =>
    have hone : NoticesHeld (queueTrunkNotice k true s) ∧ (queueTrunkNotice k true s).ticketStore = s.ticketStore := by
      unfold queueTrunkNotice
      split
      · exact offerNotice_noticesHeld h
      · exact ⟨h, rfl⟩
    rw [outNotices, List.foldl_cons]
    exact (ih hone.1).trans hone.2

theorem lowCount_append_low {q : List QueuedFrame} {f : QueuedFrame} (h : f.low = true) :
    lowCount (q ++ [f]) = lowCount q + 1 := by
  rw [lowCount_append, lowCount, lowCount, List.filter_cons_of_pos h]
  rfl

/-- Where there is room for all of them, the out notices enter the queue in order (R82, R104). -/
theorem outNotices_of_room (honLine : s.onLine = true) (hholding : s.link.holding = []) (hwaiting : s.link.waiting = [])
    (hlow : lowCount s.link.queue + ts.length ≤ 8) (hslots : s.link.queue.length + ts.length ≤ 12) :
    (outNotices ts s).link.queue.map (·.body) =
      s.link.queue.map (·.body) ++ ts.map fun t => .built (.trunkNotice t true) := by
  induction ts generalizing s with
  | nil => simp [outNotices]
  | cons k ts ih =>
    rw [List.length_cons] at hlow hslots
    have hone : queueTrunkNotice k true s = enqueue (.built (.trunkNotice k true)) none s := by
      rw [queueTrunkNotice, if_pos honLine]
      exact offerNotice_of_room ⟨hwaiting, hholding, by omega, by omega⟩
    rw [outNotices, List.foldl_cons, hone]
    refine (ih (s := enqueue (.built (.trunkNotice k true)) none s) ?_ ?_ ?_ ?_ ?_).trans ?_
    · simpa [State.onLine, enqueue] using honLine
    · simpa [enqueue] using hholding
    · simpa [enqueue] using hwaiting
    · have hcount : lowCount (enqueue (.built (.trunkNotice k true)) none s).link.queue = lowCount s.link.queue + 1 := by
        rw [enqueue, link_updLink]
        exact lowCount_append_low rfl
      omega
    · have hlength : (enqueue (.built (.trunkNotice k true)) none s).link.queue.length = s.link.queue.length + 1 := by
        simp [enqueue]
      omega
    · simp [enqueue, newFrame]

end Notices

/-! ### The entry to JOINING -/

section Joining

variable {s : State} {old : LinkState}

@[simp] theorem link_emitLinkState : (emitLinkState s).link = s.link := emit_link _ _
@[simp] theorem ticketStore_emitLinkState : (emitLinkState s).ticketStore = s.ticketStore := emit_ticketStore _ _
@[simp] theorem auto_emitLinkState : (emitLinkState s).auto = s.auto := emit_auto _ _

theorem servePresence_of_room (hmark : s.link.presenceMark = true) (h : PresenceRoom s) : servePresence s =
    enqueue .presenceMark none (s.updLink fun l => { l with presenceMark := false }) := by
  obtain ⟨hwaiting, hlow, hslots⟩ := h
  refine if_pos ?_
  simp [hmark, Link.roomLow, aheadOfPresence, Config.lowSlots, Config.queueSlots, hwaiting, hlow, hslots]

theorem servePresence_waits (h : ¬PresenceRoom s) : servePresence s = s := by
  refine if_neg fun hall => h ?_
  simp only [Link.roomLow, aheadOfPresence, Bool.and_eq_true, List.isEmpty_iff] at hall
  obtain ⟨-, ⟨hlow, hslots⟩, hwaiting⟩ := hall
  exact ⟨hwaiting, of_decide_eq_true hlow, of_decide_eq_true hslots⟩

/-- The link as it enters JOINING, its presence mark set (R89, R103). -/
def joiningLink (s : State) : State := s.updLink fun l =>
  { l with
    state := .joining
    cause := none
    presenceMark := true
    joinEnd := some (s.now + Config.joinTime)
    presenceDue := some (s.now + Config.presenceInterval) }

/-- The state in JOINING before the out notices (R89). -/
def joined (s : State) : State :=
  (emitIfChanged s.link.state (servePresence (joiningLink s))).updTickets announceOpen

theorem enterJoining_eq : enterJoining s = announceTrunks (joined s) := rfl

@[simp] theorem link_emitIfChanged : (emitIfChanged old s).link = s.link := by
  unfold emitIfChanged
  split <;> simp

@[simp] theorem ticketStore_emitIfChanged : (emitIfChanged old s).ticketStore = s.ticketStore := by
  unfold emitIfChanged
  split <;> simp

theorem beside_emitIfChanged {r : State} : Beside r (emitIfChanged old s) ↔ Beside r s := by
  unfold emitIfChanged
  split <;> simp

theorem beside_servePresence {r : State} : Beside r (servePresence s) ↔ Beside r s := by
  unfold servePresence
  split <;> simp

theorem beside_joined : Beside s (joined s) := by
  rw [joined, beside_updTickets, beside_emitIfChanged, beside_servePresence, joiningLink, beside_updLink]
  exact Beside.refl s

theorem declaredOut_joined : (joined s).declaredOut = s.declaredOut := by
  unfold State.declaredOut
  congr 1
  funext t
  rw [trunkEntry_of_store beside_joined.store]

theorem phase_joined : (joined s).port.phase = s.port.phase := by
  unfold joined emitIfChanged emitLinkState servePresence joiningLink
  repeat' split
  all_goals simp

theorem presenceRoom_joiningLink : PresenceRoom (joiningLink s) ↔ PresenceRoom s := by
  simp [PresenceRoom, joiningLink]

theorem link_joined_of_room (h : PresenceRoom s) : (joined s).link = { s.link with
    state := .joining, cause := none, presenceMark := false, joinEnd := some (s.now + 1500)
    presenceDue := some (s.now + 1000), nextEntry := s.link.nextEntry + 1
    queue := s.link.queue ++ [newFrame .presenceMark none s.link.nextEntry] } := by
  rw [joined, link_updTickets, link_emitIfChanged,
    servePresence_of_room (by simp [joiningLink]) (presenceRoom_joiningLink.2 h)]
  simp [joiningLink, enqueue, Config.joinTime, Config.presenceInterval]

theorem link_joined_waits (h : ¬PresenceRoom s) : (joined s).link = { s.link with
    state := .joining, cause := none, presenceMark := true, joinEnd := some (s.now + 1500)
    presenceDue := some (s.now + 1000) } := by
  rw [joined, link_updTickets, link_emitIfChanged, servePresence_waits (fun hroom => h (presenceRoom_joiningLink.1 hroom))]
  simp [joiningLink, Config.joinTime, Config.presenceInterval]

/-- What is the same of the link in JOINING, whether its PRESENCE has entered the queue or not (R89, R103). -/
theorem link_joined : (joined s).link = { s.link with
    state := .joining, cause := none, joinEnd := some (s.now + 1500), presenceDue := some (s.now + 1000)
    presenceMark := (joined s).link.presenceMark, queue := (joined s).link.queue
    nextEntry := (joined s).link.nextEntry } := by
  by_cases h : PresenceRoom s
  · rw [link_joined_of_room h]
  · rw [link_joined_waits h]

theorem announceOpen_eq (ts : TicketStore) : announceOpen ts = { ts with tickets := announced ts.tickets } := by
  unfold announceOpen announced
  congr 2
  funext t
  by_cases h : t.state = .cleared
  · rw [if_neg (by simp [Ticket.isOpen, h]), decide_eq_false (not_not_intro h), Bool.or_false]
  · rw [if_pos (by simp [Ticket.isOpen, h]), decide_eq_true h, Bool.or_true]

theorem tickets_joined : (joined s).ticketStore = { s.ticketStore with tickets := announced s.ticketStore.tickets } := by
  have hserve : (servePresence (joiningLink s)).ticketStore = s.ticketStore := by
    unfold servePresence joiningLink
    split <;> simp
  rw [joined, ticketStore_updTickets, ticketStore_emitIfChanged, hserve, announceOpen_eq]

theorem gains_enterJoining : Gains (joined s) (enterJoining s) := by
  rw [enterJoining_eq, announceTrunks_eq]
  exact gains_outNotices

/-- Out notices queued behind the PRESENCE (R89, R104). -/
theorem joinFrames_enterJoining : JoinFramesQueued s (enterJoining s) := by
  intro hstarting hholding hwaiting hlow hslots
  have hroom : PresenceRoom s := ⟨hwaiting, by rw [hholding]; exact Nat.lt_of_le_of_lt (Nat.add_le_add_left (Nat.zero_le _) _) hlow,
    by rw [hholding]; exact Nat.lt_of_le_of_lt (Nat.add_le_add_left (Nat.zero_le _) _) hslots⟩
  have hlink := link_joined_of_room hroom
  have hline : (joined s).onLine = true := by
    rw [State.onLine, hlink, phase_joined]
    simp [hstarting]
  have hcount : lowCount (joined s).link.queue = lowCount s.link.queue + 1 := by
    rw [hlink]
    exact lowCount_append_low rfl
  rw [enterJoining_eq, announceTrunks_eq, declaredOut_joined, outNotices_of_room hline (by rw [hlink]; exact hholding)
    (by rw [hlink]; exact hwaiting) (by omega) (by rw [hlink]; simp; omega), hlink]
  simp [newFrame]

theorem enterJoining_joins : JoinsTheLine s (enterJoining s) where
  state := enterJoining_state s
  cause := by
    rw [gains_enterJoining.link, link_joined]
  presence h := by
    obtain ⟨rest, hrest⟩ := gains_enterJoining (s := s).queue
    refine ⟨by rw [gains_enterJoining.link, link_joined_of_room h], rest, ?_⟩
    rw [hrest, link_joined_of_room h]
    simp [newFrame]
  mark h := by rw [gains_enterJoining.link, link_joined_waits h]
  frames := joinFrames_enterJoining
  settle := by rw [gains_enterJoining.link, link_joined]
  timer := by rw [gains_enterJoining.link, link_joined]
  tickets h := by
    rw [enterJoining_eq, announceTrunks_eq, declaredOut_joined, ← tickets_joined]
    rcases h with h | h
    · rw [h]
      rfl
    · refine outNotices_noticesHeld ?_
      rw [NoticesHeld, link_joined, h]
      simp
  store := enterJoining_store s
  channels := ⟨gains_enterJoining.beside.chanA.trans beside_joined.chanA,
    gains_enterJoining.beside.chanB.trans beside_joined.chanB⟩
  event hstate hroom hdeclared := by
    rw [enterJoining_eq, announceTrunks_eq, declaredOut_joined, hdeclared]
    have hserve : (servePresence (joiningLink s)).port = s.port ∧ (servePresence (joiningLink s)).store = s.store := by
      unfold servePresence joiningLink
      split <;> simp
    have hlink : (servePresence (joiningLink s)).link.state = .joining ∧
        (servePresence (joiningLink s)).link.cause = none := by
      unfold servePresence joiningLink
      split <;> simp [enqueue]
    have hjoined : joined s = (emitLinkState (servePresence (joiningLink s))).updTickets announceOpen := by
      rw [joined, emitIfChanged, if_neg (by rw [hlink.1]; exact hstate.symm)]
    rw [outNotices, List.foldl_nil, hjoined, port_updTickets, emitLinkState, port_emit_of_room (by rwa [hserve.1]),
      portWith, portWith, hserve.1, hserve.2, hlink.1, hlink.2]

end Joining

/-! ### CONFIGURE -/

section Configure

variable {s v : State} {n : Nat} {a : AutoChannelArg} {l : Bool}

@[simp] theorem auto_emitIfChanged {old : LinkState} : (emitIfChanged old s).auto = s.auto := by
  unfold emitIfChanged
  split <;> simp

theorem auto_joined : (joined s).auto = s.auto := by
  have hserve : (servePresence (joiningLink s)).auto = s.auto := by
    unfold servePresence joiningLink
    split <;> simp
  rw [joined, auto_updTickets, auto_emitIfChanged, hserve]

@[simp] theorem auto_enterJoining : (enterJoining s).auto = s.auto := gains_enterJoining.auto.trans auto_joined

theorem beside_enterJoining : Beside s (enterJoining s) := beside_joined.trans gains_enterJoining.beside

theorem sameTickets_enterJoining : SameTickets s.ticketStore (enterJoining s).ticketStore := by
  refine SameTickets.trans ?_ gains_enterJoining.tickets
  rw [tickets_joined, ← announceOpen_eq]
  exact sameTickets_announceOpen

theorem mask_of_aside {r : State} (h : Aside r s) : s.port.mask = r.port.mask :=
  show ({ s.port with events := [], lost := 0 } : Port).mask = _ by rw [h.port]

theorem mask_enterJoining : (enterJoining s).port.mask = s.port.mask := mask_of_aside (aside_enterJoining.2 (Aside.refl s))

/-- What `configureLink` can do: nothing, or the entry to JOINING, with the view empty or without (R88). -/
theorem configureLink_cases (changed : Bool) : (s.link.state = .mute ∧ changed = false ∧ configureLink changed s = s) ∨
    ((s.link.state = .off ∨ (s.link.state = .mute ∧ changed = true)) ∧ configureLink changed s = enterJoining s) ∨
    ((s.link.state ≠ .off ∧ s.link.state ≠ .mute) ∧
      configureLink changed s = enterJoining (dropQuiets (emptyView s))) := by
  unfold configureLink
  cases h : s.link.state with
  | off => simp
  | mute => cases changed <;> simp
  | joining => simp
  | active => simp
  | lost => simp

theorem sameTickets_emptyView : (dropQuiets (emptyView s)).ticketStore.tickets.map (fun t => (t.number, t.line)) =
    s.ticketStore.tickets.map fun t => (t.number, t.line) := by
  simp [dropQuiets, emptyView, releaseAllNotes, Function.comp_def]

theorem takeConfigure_badStation (h : stationOk n = false) : takeConfigure n a l s = (.badArgument 1, s) :=
  if_pos (by rw [h]; rfl)

theorem takeConfigure_badChannel (h : stationOk n = true) : takeConfigure n .other l s = (.badArgument 2, s) :=
  if_neg (by rw [h]; exact Bool.false_ne_true)

/-- CONFIGURE of a good number and channel is decided by the lock and the sessions (R208). -/
theorem takeConfigure_checked (h : stationOk n = true) (ha : a ≠ .other) : ∃ u : State, takeConfigure n a l s =
    if s.store.lock then (.locked, s) else if !s.noSession then (.wrongState, s)
    else (.accepted (.linkState u.link.state), u) := by
  unfold takeConfigure
  rw [if_neg (by rw [h]; exact Bool.false_ne_true)]
  cases a with
  | other => exact absurd rfl ha
  | none => exact ⟨_, rfl⟩
  | channel c => exact ⟨_, rfl⟩

/-- The argument for an automatic channel (R208). -/
def autoArg (a : Option Channel) : AutoChannelArg := match a with | some c => .channel c | none => .none

/-- The state of an accepted CONFIGURE before the link (R185, R208). -/
def configured (n : Nat) (a : Option Channel) (l : Bool) (s : State) : State :=
  haltEngine (dropItem (s.updStore fun r =>
    { r with configured := true, station := some n, autoChannel := a, lock := l }))

theorem takeConfigure_accepted {a : Option Channel} (h : stationOk n = true) (hlock : s.store.lock = false)
    (hidle : s.noSession = true) : takeConfigure n (autoArg a) l s =
      (.accepted (.linkState (configureLink (s.store.station != some n) (configured n a l s)).link.state),
        configureLink (s.store.station != some n) (configured n a l s)) := by
  unfold takeConfigure
  rw [if_neg (by rw [h]; exact Bool.false_ne_true)]
  cases a <;> simp only [autoArg, hlock, hidle, Bool.false_eq_true, if_false, Bool.not_true] <;> rfl

theorem link_configured {a : Option Channel} : (configured n a l s).link = s.link := by
  simp [configured, haltEngine, dropItem]

end Configure

/-- Settles O18: `configureLink_cases` says which links are entered, `enterJoining_joins` what JOINING is. -/
theorem configureJoinsTheLine : Obligations.ConfigureJoinsTheLine := by
  refine ⟨fun s n a l hphase => ⟨fun h => ?_, fun h ha => ?_, fun h ha hlock => ?_, fun h ha hlock hsession => ?_⟩,
    fun s n a l hphase h hlock hidle => ?_⟩
  · exact answers_of_take (take := takeConfigure n a l) hphase rfl (takeConfigure_badStation h)
  · subst ha
    exact answers_of_take (take := takeConfigure n .other l) hphase rfl (takeConfigure_badChannel h)
  · obtain ⟨u, htake⟩ := takeConfigure_checked (s := s) (l := l) h ha
    exact answers_of_take (take := takeConfigure n a l) hphase rfl (htake.trans (if_pos hlock))
  · obtain ⟨u, htake⟩ := takeConfigure_checked (s := s) (l := l) h ha
    have hnone : (!s.noSession) = true := by
      rw [Bool.not_eq_true', ← Bool.not_eq_true, State.noSession_iff]
      obtain ⟨c, hc⟩ := hsession
      exact fun hall => hc (hall c)
    exact answers_of_take (take := takeConfigure n a l) hphase rfl
      (htake.trans ((if_neg (by rw [hlock]; exact Bool.false_ne_true)).trans (if_pos hnone)))
  · have hexec : ∀ u ans, takeConfigure n (autoArg a) l s = (ans, u) →
        Answers (.configure n (match a with | some c => .channel c | none => .none) l) s ans u := by
      intro u ans htake
      cases a with
      | none => exact answers_of_take (take := takeConfigure n .none l) hphase rfl htake
      | some c => exact answers_of_take (take := takeConfigure n (.channel c) l) hphase rfl htake
    have htake := takeConfigure_accepted (l := l) (a := a) h hlock ((State.noSession_iff s).2 hidle)
    refine ⟨_, hexec _ _ htake, ?_⟩
    have hlink := link_configured (n := n) (a := a) (l := l) (s := s)
    have hstore : (configured n a l s).store =
        { s.store with configured := true, station := some n, autoChannel := a, lock := l } := by
      simp [configured, haltEngine, dropItem]
    have hauto : (configured n a l s).auto = { s.auto with
        run := .halted, returnState := none, freezeCause := none, item := none, waitingForRoom := false } := by
      simp [configured, haltEngine, dropItem, halted]
    have hrest : (configured n a l s).ticketStore = s.ticketStore ∧ (configured n a l s).port = s.port ∧
        (configured n a l s).watch = s.watch ∧ (configured n a l s).pending = s.pending := by
      simp [configured, haltEngine, dropItem]
    obtain ⟨htickets, hport, hwatch, hpending⟩ := hrest
    rcases configureLink_cases (s := configured n a l s) (s.store.station != some n) with
      ⟨hmute, hsame, hu⟩ | ⟨hstate, hu⟩ | ⟨⟨hoff, hmute⟩, hu⟩ <;> rw [hu]
    · rw [hlink] at hmute
      refine ⟨hstore, hauto, ?_, fun _ hnot => absurd hmute hnot, by rw [htickets], by rw [hport], hwatch, hpending⟩
      rw [hlink, if_pos ⟨hmute, by simpa using hsame⟩, hmute]
    · rw [hlink] at hstate
      refine ⟨(enterJoining_store _).trans hstore, auto_enterJoining.trans hauto, ?_, fun hoff hmute => ?_, ?_, ?_,
        beside_enterJoining.watch.trans hwatch, beside_enterJoining.pending.trans hpending⟩
      · rw [enterJoining_state, if_neg]
        rintro ⟨hmute, hsame⟩
        rcases hstate with hoff | ⟨-, hchanged⟩
        · rw [hoff] at hmute
          cases hmute
        · simp [hsame] at hchanged
      · rcases hstate with h | ⟨h, -⟩
        · exact absurd h hoff
        · exact absurd h hmute
      · rw [sameTickets_enterJoining.lines, htickets]
      · rw [mask_enterJoining, hport]
    · rw [hlink] at hoff hmute
      refine ⟨(enterJoining_store _).trans hstore, auto_enterJoining.trans hauto, ?_, fun _ _ => ⟨?_, ?_⟩, ?_, ?_,
        beside_enterJoining.watch.trans hwatch, beside_enterJoining.pending.trans hpending⟩
      · rw [enterJoining_state, if_neg fun hboth => hmute hboth.1]
      · rw [beside_enterJoining.roster]
        rfl
      · rw [sameTickets_enterJoining.index]
        rfl
      · rw [sameTickets_enterJoining.lines, sameTickets_emptyView, htickets]
      · rw [mask_enterJoining, ← hport]
        rfl

end Sys2Proof.Machine
end

section
/-! A layer for the frames and the line: what the blocks do to a session, a ticket or the queue leaves the view's entries
and the state of the link as they were. -/

namespace Sys2Proof.Machine

section View

variable {r s t : State} {c : Channel} {n : Station} {m : Option Station} {b : Block}

/-- The view's entries and the state of the link are the same. -/
structure ViewKept (r s : State) : Prop where
  roster : s.roster = r.roster
  state : s.link.state = r.link.state

theorem ViewKept.refl (s : State) : ViewKept s s := ⟨rfl, rfl⟩

theorem ViewKept.trans (h : ViewKept r s) (k : ViewKept s t) : ViewKept r t :=
  ⟨k.roster.trans h.roster, k.state.trans h.state⟩

theorem ViewKept.step_iff (h : ViewKept s t) : ViewKept r t ↔ ViewKept r s :=
  ⟨fun k => ⟨h.roster.symm.trans k.roster, h.state.symm.trans k.state⟩, fun k => k.trans h⟩

theorem viewKept_foldl {α : Type} {f : State → α → State} (hf : ∀ s a, ViewKept r (f s a) ↔ ViewKept r s) :
    ∀ (l : List α) (s : State), ViewKept r (l.foldl f s) ↔ ViewKept r s
  | [], _ => Iff.rfl
  | a :: l, s => (viewKept_foldl hf l (f s a)).trans (hf s a)

/-! The parts of the state. -/

@[simp] theorem viewKept_updSession {f : Session → Session} : ViewKept r (s.updSession c f) ↔ ViewKept r s :=
  ViewKept.step_iff ⟨by simp, by simp⟩
@[simp] theorem viewKept_updSeq {f : Sequencer → Sequencer} : ViewKept r (s.updSeq c f) ↔ ViewKept r s :=
  ViewKept.step_iff ⟨by simp, by simp⟩
@[simp] theorem viewKept_updClaim {f : ClaimRecord → ClaimRecord} : ViewKept r (s.updClaim c f) ↔ ViewKept r s :=
  ViewKept.step_iff ⟨by simp, by simp⟩
@[simp] theorem viewKept_updQuiet {f : QuietRecord → QuietRecord} : ViewKept r (s.updQuiet c f) ↔ ViewKept r s :=
  ViewKept.step_iff ⟨by simp, by simp⟩
@[simp] theorem viewKept_updClears {f : List OwedClear → List OwedClear} :
    ViewKept r (s.updClears c f) ↔ ViewKept r s := ViewKept.step_iff ⟨by simp, by simp⟩
@[simp] theorem viewKept_updEngine {f : EngineRecord → EngineRecord} : ViewKept r (s.updEngine c f) ↔ ViewKept r s :=
  ViewKept.step_iff ⟨by simp, by simp⟩
@[simp] theorem viewKept_setCommand {k : Option ChannelCommand} : ViewKept r (s.setCommand c k) ↔ ViewKept r s :=
  ViewKept.step_iff ⟨by simp, by simp⟩
@[simp] theorem viewKept_updTickets {f : TicketStore → TicketStore} : ViewKept r (s.updTickets f) ↔ ViewKept r s :=
  ViewKept.step_iff ⟨by simp, by simp⟩
@[simp] theorem viewKept_updAuto {f : AutoEngine → AutoEngine} : ViewKept r (s.updAuto f) ↔ ViewKept r s :=
  ViewKept.step_iff ⟨by simp, by simp⟩
@[simp] theorem viewKept_updStore {f : Store → Store} : ViewKept r (s.updStore f) ↔ ViewKept r s :=
  ViewKept.step_iff ⟨by simp, by simp⟩
@[simp] theorem viewKept_emit {e : Event} : ViewKept r (emit e s) ↔ ViewKept r s :=
  ViewKept.step_iff ⟨by simp, by simp⟩
@[simp] theorem viewKept_complete {e : Event} : ViewKept r (complete c e s) ↔ ViewKept r s :=
  ViewKept.step_iff ⟨by simp, by simp⟩

/-! The queue. -/

theorem Gains.viewKept (h : Gains s t) : ViewKept s t := ⟨h.beside.roster, by rw [h.link]⟩

@[simp] theorem viewKept_enqueue {q : QueuedBody} {o : Option Channel} : ViewKept r (enqueue q o s) ↔ ViewKept r s :=
  ViewKept.step_iff gains_enqueue.viewKept
@[simp] theorem viewKept_holdFrame {f : QueuedFrame} : ViewKept r (holdFrame f s) ↔ ViewKept r s :=
  ViewKept.step_iff gains_holdFrame.viewKept
@[simp] theorem viewKept_offerNotice {a : FrameBody} : ViewKept r (offerNotice a s) ↔ ViewKept r s :=
  ViewKept.step_iff gains_offerNotice.viewKept
@[simp] theorem viewKept_removeFrame {f : QueuedFrame} : ViewKept r (removeFrame f s) ↔ ViewKept r s :=
  ViewKept.step_iff ⟨by simp, by simp [link_removeFrame]⟩
@[simp] theorem viewKept_removeIfQueued {f : Option QueuedFrame} : ViewKept r (removeIfQueued f s) ↔ ViewKept r s := by
  cases f with
  | none => exact Iff.rfl
  | some f => rw [removeIfQueued_some, viewKept_removeFrame]
@[simp] theorem viewKept_displaced {f : QueuedFrame} : ViewKept r (displaced f s) ↔ ViewKept r s := by
  unfold displaced
  split
  · exact ViewKept.step_iff ⟨by simp, by simp⟩
  · exact Iff.rfl
  · exact viewKept_holdFrame
@[simp] theorem viewKept_offerUrgent {a : FrameBody} {o : Option Channel} :
    ViewKept r (offerUrgent a o s) ↔ ViewKept r s := by
  have hwait : ∀ f, ViewKept r (s.updLink fun l => { l with waiting := l.waiting ++ [f] }) ↔ ViewKept r s :=
    fun f => ViewKept.step_iff ⟨by simp, by simp⟩
  unfold offerUrgent
  dsimp only
  repeat' split
  · exact viewKept_enqueue
  · exact hwait _
  · exact hwait _
  · rw [viewKept_displaced, viewKept_enqueue, viewKept_removeFrame]
@[simp] theorem viewKept_announceTrunks : ViewKept r (announceTrunks s) ↔ ViewKept r s := by
  rw [announceTrunks_eq]
  exact ViewKept.step_iff gains_outNotices.viewKept
@[simp] theorem viewKept_queueTrunkNotice {k : Trunk} {out : Bool} :
    ViewKept r (queueTrunkNotice k out s) ↔ ViewKept r s := ViewKept.step_iff gains_queueTrunkNotice.viewKept

/-! Tickets and the engine. -/

@[simp] theorem viewKept_appendObservation {k : TicketNo} {o : Observation} :
    ViewKept r (appendObservation k o s) ↔ ViewKept r s := by
  unfold appendObservation
  dsimp only
  repeat' split
  all_goals simp
@[simp] theorem viewKept_failHandover {k : Ticket} {h : Handover} {x : HandoverReason} :
    ViewKept r (failHandover k h x s) ↔ ViewKept r s := by simp [failHandover]
@[simp] theorem viewKept_postponeRetest {k : TicketNo} {d : Nat} :
    ViewKept r (postponeRetest k d s) ↔ ViewKept r s := by simp [postponeRetest]
@[simp] theorem viewKept_updSweep {f : Sweep → Sweep} : ViewKept r (updSweep f s) ↔ ViewKept r s := by simp [updSweep]
@[simp] theorem viewKept_updItem {f : Item → Item} : ViewKept r (updItem f s) ↔ ViewKept r s := by simp [updItem]
@[simp] theorem viewKept_dropItem : ViewKept r (dropItem s) ↔ ViewKept r s := by simp [dropItem]
@[simp] theorem viewKept_haltEngine : ViewKept r (haltEngine s) ↔ ViewKept r s := by simp [haltEngine]
@[simp] theorem viewKept_completeSweep : ViewKept r (completeSweep s) ↔ ViewKept r s := by
  unfold completeSweep
  repeat' split
  all_goals simp
@[simp] theorem viewKept_skipLine {l : Line} : ViewKept r (skipLine l s) ↔ ViewKept r s := by simp [skipLine]
@[simp] theorem viewKept_deferLine {l : Line} : ViewKept r (deferLine l s) ↔ ViewKept r s := by
  unfold deferLine
  repeat' split
  all_goals simp
@[simp] theorem viewKept_sweepOutcome {i : Item} {o : ItemOutcome} : ViewKept r (sweepOutcome i o s) ↔ ViewKept r s := by
  unfold sweepOutcome
  dsimp only
  repeat' split
  all_goals simp
@[simp] theorem viewKept_retestOutcome {k : TicketNo} {o : ItemOutcome} :
    ViewKept r (retestOutcome k o s) ↔ ViewKept r s := by
  unfold retestOutcome
  split <;> simp
@[simp] theorem viewKept_emitItemResult {i : Item} {o : ItemOutcome} {k : Option FaultClass} {a : TicketAnswer} :
    ViewKept r (emitItemResult i o k a s) ↔ ViewKept r s := by
  unfold emitItemResult
  split <;> simp
@[simp] theorem viewKept_report {o : ItemOutcome} : ViewKept r (report o s) ↔ ViewKept r s := by
  unfold report fixOutcome
  dsimp only
  repeat' split
  all_goals simp
@[simp] theorem viewKept_itemEnds : ViewKept r (itemEnds s) ↔ ViewKept r s := by
  unfold itemEnds
  dsimp only
  repeat' split
  all_goals simp

/-! Quiets and relays. -/

@[simp] theorem viewKept_joinWait {h : Holder} : ViewKept r (joinWait c h s) ↔ ViewKept r s := by simp [joinWait]
@[simp] theorem viewKept_markNoisy : ViewKept r (markNoisy c s) ↔ ViewKept r s := by simp [markNoisy]
@[simp] theorem viewKept_leaveWait {h : Holder} : ViewKept r (leaveWait c h s) ↔ ViewKept r s := by
  unfold leaveWait startIfSettled startRunning
  dsimp only
  split <;> simp
@[simp] theorem viewKept_queueBusy : ViewKept r (queueBusy c b n s) ↔ ViewKept r s := by simp [queueBusy]
@[simp] theorem viewKept_releaseDisturbs : ViewKept r (releaseDisturbs c s) ↔ ViewKept r s := by
  unfold releaseDisturbs
  dsimp only
  repeat' split
  all_goals simp
@[simp] theorem viewKept_endQuiet : ViewKept r (endQuiet c s) ↔ ViewKept r s := by
  unfold endQuiet
  split <;> simp
@[simp] theorem viewKept_quietEndAsked : ViewKept r (quietEndAsked c s) ↔ ViewKept r s := by
  unfold quietEndAsked
  repeat' split
  all_goals simp
@[simp] theorem viewKept_undefer {h : Holder} : ViewKept r (undefer c h b s) ↔ ViewKept r s :=
  ViewKept.step_iff ⟨by simp, by simp⟩
@[simp] theorem viewKept_quietEnded : ViewKept r (quietEnded n b s) ↔ ViewKept r s :=
  ViewKept.step_iff ⟨by simp, by simp⟩
@[simp] theorem viewKept_withdrawBoth : ViewKept r (withdrawBoth b s) ↔ ViewKept r s := by
  unfold withdrawBoth withdrawRequested
  dsimp only
  repeat' split
  all_goals simp
@[simp] theorem viewKept_answerQuiet : ViewKept r (answerQuiet c b n s) ↔ ViewKept r s := by
  unfold answerQuiet
  dsimp only
  repeat' split
  all_goals simp [deferClaimed]
@[simp] theorem viewKept_busyHeard : ViewKept r (busyHeard c b n s) ↔ ViewKept r s := by
  unfold busyHeard
  dsimp only
  repeat' split
  all_goals simp
@[simp] theorem viewKept_clearHeard : ViewKept r (clearHeard c b n s) ↔ ViewKept r s := by
  unfold clearHeard
  dsimp only
  split <;> simp

/-! Sessions and claims. -/

@[simp] theorem viewKept_finishSession {o : ChannelOutcome} : ViewKept r (finishSession c o m s) ↔ ViewKept r s :=
  ViewKept.step_iff ⟨by simp, by simp⟩
@[simp] theorem viewKept_enterClosing : ViewKept r (enterClosing c s) ↔ ViewKept r s := by simp [enterClosing]
@[simp] theorem viewKept_enterReleasing : ViewKept r (enterReleasing c s) ↔ ViewKept r s := by
  unfold enterReleasing
  split <;> simp [giveRelease]
@[simp] theorem viewKept_abandonMeasurement : ViewKept r (abandonMeasurement c s) ↔ ViewKept r s := by
  unfold abandonMeasurement
  dsimp only
  split <;> simp
@[simp] theorem viewKept_reverseSession : ViewKept r (reverseSession c s) ↔ ViewKept r s := by
  unfold reverseSession
  split <;> simp [abandonOperate]
@[simp] theorem viewKept_conflict : ViewKept r (conflict c s) ↔ ViewKept r s := by
  unfold conflict
  dsimp only
  repeat' split
  all_goals simp [fixSession]
@[simp] theorem viewKept_endClaim {o : ChannelOutcome} : ViewKept r (endClaim c o m s) ↔ ViewKept r s := by
  unfold endClaim
  dsimp only
  rw [viewKept_finishSession]
  split <;> simp
@[simp] theorem viewKept_rerouteClaim : ViewKept r (rerouteClaim c m s) ↔ ViewKept r s := by
  unfold rerouteClaim
  split
  · exact ViewKept.step_iff ⟨by simp, by simp⟩
  · exact viewKept_endClaim
@[simp] theorem viewKept_contestFirst {ps : List Pair} : ViewKept r (contestFirst n ps c s) ↔ ViewKept r s := by
  unfold contestFirst
  dsimp only
  repeat' split
  all_goals simp
@[simp] theorem viewKept_contestSecond {ps : List Pair} : ViewKept r (contestSecond n ps c s) ↔ ViewKept r s := by
  unfold contestSecond
  dsimp only
  split <;> simp
@[simp] theorem viewKept_contest {ps : List Pair} : ViewKept r (contest n ps s) ↔ ViewKept r s := by simp [contest]
@[simp] theorem viewKept_releaseContests {p : Pair} : ViewKept r (releaseContests p c s) ↔ ViewKept r s := by
  unfold releaseContests
  dsimp only
  split <;> simp
@[simp] theorem viewKept_trunkWentOut {k : Trunk} : ViewKept r (trunkWentOut k m s) ↔ ViewKept r s := by
  have hfirst : ∀ (c : Channel) (s : State), ViewKept r (trunkOutFirst k m c s) ↔ ViewKept r s := by
    intro c s
    unfold trunkOutFirst
    dsimp only
    repeat' split
    all_goals simp
  have hsecond : ∀ (c : Channel) (s : State), ViewKept r (trunkOutSecond k m c s) ↔ ViewKept r s := by
    intro c s
    unfold trunkOutSecond
    dsimp only
    split <;> simp
  rw [trunkWentOut, hsecond, hsecond, hfirst, hfirst]
theorem viewKept_withTrunkWatch {k : Trunk} {f : State → State} (hf : ViewKept r (f s) ↔ ViewKept r s) :
    ViewKept r (withTrunkWatch k m f s) ↔ ViewKept r s := by
  unfold withTrunkWatch
  dsimp only
  split
  · rw [viewKept_trunkWentOut, hf]
  · exact hf
@[simp] theorem viewKept_setTrunk {k : Trunk} {e : TrunkEntry} : ViewKept r (s.setTrunk k e) ↔ ViewKept r s := by
  simp [State.setTrunk]
@[simp] theorem viewKept_takeTrunkNotice {k : Trunk} {out : Bool} :
    ViewKept r (takeTrunkNotice n k out s) ↔ ViewKept r s := by
  unfold takeTrunkNotice changeTrunk
  dsimp only
  repeat' split
  all_goals simp

/-! Frames about tickets, and the Line Watch. -/

@[simp] theorem viewKept_mergeTicket {e : NoteEntry} {k : Ticket} {x : Bool} :
    ViewKept r (mergeTicket n e k x s) ↔ ViewKept r s := by
  unfold mergeTicket
  dsimp only
  rw [viewKept_emit, viewKept_updTickets]
  repeat' split
  all_goals simp
@[simp] theorem viewKept_takeNote {es : List NoteEntry} : ViewKept r (takeNote n es s) ↔ ViewKept r s := by
  refine viewKept_foldl (fun s e => ?_) es s
  unfold takeNoteEntry
  repeat' split
  all_goals simp
@[simp] theorem viewKept_takeAddition {k : TicketNo} {l : Line} {o : ObsData} :
    ViewKept r (takeAddition n k l o s) ↔ ViewKept r s := by
  unfold takeAddition
  repeat' split
  all_goals simp
@[simp] theorem viewKept_takeOffer {o : HandOffer} : ViewKept r (takeOffer n o s) ↔ ViewKept r s := by
  unfold takeOffer
  dsimp only
  repeat' split
  all_goals simp
@[simp] theorem viewKept_takeAccept {k : TicketNo} : ViewKept r (takeAccept n k s) ↔ ViewKept r s := by
  unfold takeAccept
  repeat' split
  all_goals simp
@[simp] theorem viewKept_takeRefusal {k : TicketNo} {x : RefuseReason} :
    ViewKept r (takeRefusal n k x s) ↔ ViewKept r s := by
  unfold takeRefusal
  repeat' split
  all_goals simp
@[simp] theorem viewKept_monitorClaim {own : Bool} {l : Line} {k : Trunk} {p : Purpose} :
    ViewKept r (monitorClaim own n l k p c s) ↔ ViewKept r s := by
  unfold monitorClaim emitWatchHit
  repeat' split
  · exact ViewKept.step_iff ⟨rfl, rfl⟩
  · rw [viewKept_emit]
    exact ViewKept.step_iff ⟨rfl, rfl⟩
  · exact Iff.rfl

/-! ### A frame changes its sender's entry alone -/

/-- Of the view, station `n`'s entry alone may have changed, and not in the time it was last heard (R97). -/
structure EntryKept (n : Station) (r s : State) : Prop where
  state : s.link.state = r.link.state
  others : ∀ m, m ≠ n → s.peer m = r.peer m
  heard : (s.peer n).map (·.lastHeard) = (r.peer n).map (·.lastHeard)

theorem ViewKept.entryKept (h : ViewKept r s) : EntryKept n r s :=
  ⟨h.state, fun m _ => peer_of_roster h.roster, by rw [peer_of_roster h.roster]⟩

theorem EntryKept.trans (h : EntryKept n r s) (k : EntryKept n s t) : EntryKept n r t :=
  ⟨k.state.trans h.state, fun m hm => (k.others m hm).trans (h.others m hm), k.heard.trans h.heard⟩

theorem EntryKept.of_viewKept (h : EntryKept n r s) (k : ViewKept s t) : EntryKept n r t := h.trans k.entryKept

theorem peer_updatePeer_eq {f : Peer → Peer} (hf : ∀ q, (f q).station = q.station) (k : Station) :
    (updatePeer n f s).peer k = (s.peer k).map fun q => if q.station = n then f q else q := by
  rw [State.peer, State.peer, roster_updatePeer, rosterWith, List.find?_map]
  congr 2
  funext q
  rw [Function.comp_apply]
  split
  · rw [hf]
  · rfl

theorem peer_updatePeer_other {f : Peer → Peer} (hf : ∀ q, (f q).station = q.station) {k : Station} (hk : k ≠ n) :
    (updatePeer n f s).peer k = s.peer k := by
  rw [peer_updatePeer_eq hf]
  cases hp : s.peer k with
  | none => rfl
  | some p => rw [Option.map_some, if_neg (by rw [(peer_mem hp).2]; exact hk)]

theorem entryKept_updatePeer {f : Peer → Peer} (hf : ∀ q, (f q).station = q.station)
    (hh : ∀ q, (f q).lastHeard = q.lastHeard) : EntryKept n s (updatePeer n f s) := by
  refine ⟨rfl, fun m hm => peer_updatePeer_other hf hm, ?_⟩
  rw [peer_updatePeer_eq hf]
  cases s.peer n with
  | none => rfl
  | some p =>
    rw [Option.map_some, Option.map_some, Option.map_some]
    split
    · rw [hh]
    · rfl

theorem entryKept_removeQuiet : EntryKept n s (removeQuiet n b s) :=
  entryKept_updatePeer (fun _ => rfl) fun _ => rfl

theorem entryKept_takeRelease {l : Line} {k : Trunk} : EntryKept n s (takeRelease n l k s) := by
  have hremove : EntryKept n s (updatePeer n (fun q => { q with holdings := removeHolding l k q.holdings }) s) :=
    entryKept_updatePeer (fun _ => rfl) fun _ => rfl
  exact hremove.of_viewKept (by simpa [takeRelease] using ViewKept.refl _)

theorem entryKept_takeClaim {l : Line} {k : Trunk} {p : Purpose} : EntryKept n s (takeClaim n l k p c s) := by
  have hadd : EntryKept n s (updatePeer n (fun q => { q with holdings := addHolding ⟨l, k, p⟩ q.holdings }) s) :=
    entryKept_updatePeer (fun _ => rfl) fun _ => rfl
  exact hadd.of_viewKept (by simpa [takeClaim] using ViewKept.refl _)

theorem entryKept_takeQuiet : EntryKept n s (takeQuiet n b s) := by
  have hrecord : EntryKept n s (recordQuiet n b s) := by
    have hroom : EntryKept n s (makesRoom n s) := by
      unfold makesRoom
      split
      · exact (ViewKept.refl s).entryKept
      · exact entryKept_removeQuiet.of_viewKept (by simpa using ViewKept.refl _)
    have hadd : EntryKept n (makesRoom n s) (addQuiet n b (makesRoom n s)) :=
      entryKept_updatePeer (fun _ => rfl) fun _ => rfl
    rw [recordQuiet_eq]
    exact (hroom.trans hadd).of_viewKept (by simpa using ViewKept.refl _)
  unfold takeQuiet
  split
  · exact hrecord
  · exact (ViewKept.refl s).entryKept
  · exact (ViewKept.refl s).entryKept

theorem entryKept_takeQuietEnd : EntryKept n s (takeQuietEnd n b s) := by
  unfold takeQuietEnd
  split
  · exact entryKept_removeQuiet.of_viewKept (by simpa using ViewKept.refl _)
  · exact (ViewKept.refl s).entryKept

theorem entryKept_takePresence {j : Bool} {hs : List Holding} {qs : List Block} {p : Peer} :
    EntryKept n s (takePresence n j hs qs p s) := by
  have hreplace : EntryKept n s (replacePeer n j hs qs s) := entryKept_updatePeer (fun _ => rfl) fun _ => rfl
  refine hreplace.of_viewKept ?_
  unfold takePresence
  dsimp only
  have hends := (viewKept_foldl (r := replacePeer n j hs qs s) (f := fun r b => quietEnded n b r)
    (fun _ _ => viewKept_quietEnded) (presenceEnds p qs) (replacePeer n j hs qs s)).2 (ViewKept.refl _)
  have hadds := (viewKept_foldl (f := fun r b => withdrawBoth b r) (fun _ _ => viewKept_withdrawBoth)
    (presenceAdds s p qs) _).2 hends
  split
  · rw [joinReplies, viewKept_announceTrunks, viewKept_updTickets, viewKept_contest]
    exact hadds
  · rw [viewKept_contest]
    exact hadds

/-- What a taken frame does by its kind (R79, R97): of the view it changes its sender's entry alone. -/
theorem entryKept_applyFrame {a : FrameBody} {p : Peer} : EntryKept n s (applyFrame n a p s) := by
  have hkept := (ViewKept.refl s).entryKept (n := n)
  unfold applyFrame
  split
  · exact entryKept_takeRelease
  · split
    · exact hkept.of_viewKept (by simpa using ViewKept.refl _)
    · exact hkept
  · split
    · exact hkept.of_viewKept (by simpa using ViewKept.refl _)
    · exact hkept
  · exact entryKept_takeQuietEnd
  · exact entryKept_takeClaim
  · exact entryKept_takeQuiet
  · exact hkept.of_viewKept (by simpa using ViewKept.refl _)
  · split
    · exact hkept.of_viewKept (by simpa using ViewKept.refl _)
    · exact hkept
  · split
    · exact hkept.of_viewKept (by simpa using ViewKept.refl _)
    · exact hkept
  · split
    · exact hkept.of_viewKept (by simpa using ViewKept.refl _)
    · exact hkept
  · split
    · exact hkept.of_viewKept (by simpa using ViewKept.refl _)
    · exact hkept
  · exact hkept.of_viewKept ((viewKept_withTrunkWatch viewKept_takeTrunkNotice).2 (ViewKept.refl _))
  · exact entryKept_takePresence

end View

end Sys2Proof.Machine
end

section
/-! The line lost: MUTE and LOST (R40, R91, R93, R141), and the rows that join and lose it (O50). -/

namespace Sys2Proof.Machine

/-! ### Sessions lost with the line -/

section Lost

variable {s r : State} {c d : Channel} {o : ChannelOutcome} {m : Option Station} {f : QueuedFrame}

theorem engine_reportEnd {x : Session} : ((reportEnd c x o m s).chan c).engine = (s.chan c).engine := by
  rcases reportEnd_cases (c := c) (x := x) (o := o) (n := m) (s := s) with h | ⟨k, h⟩ | ⟨e, h⟩ <;> simp [h]

@[simp] theorem engine_finishSession : ((finishSession c o m s).chan c).engine = (s.chan c).engine := by
  by_cases hp : (s.chan c).session.purpose = .operator
  · rw [finishSession_operator hp, engine_reportEnd]
    simp [clearSession]
  · rw [finishSession_automatic hp]
    simp [clearSession]

@[simp] theorem ticketStore_itemEnds : (itemEnds s).ticketStore = s.ticketStore := by
  unfold itemEnds
  dsimp only
  repeat' split
  all_goals simp [dropItem, haltEngine]

@[simp] theorem ticketStore_finishSession : (finishSession c o m s).ticketStore = s.ticketStore := by
  by_cases hp : (s.chan c).session.purpose = .operator
  · obtain ⟨-, -, -, -, -, -, -, -, htickets, -⟩ :=
      reportEnd_frame (c := c) (x := (s.chan c).session) (o := o) (n := m) (s := clearSession c s)
    rw [finishSession_operator hp, htickets, ticketStore_clearSession]
  · rw [finishSession_automatic hp]
    simp

theorem dropDrives_chan : ((dropDrives c s).chan c).seq.drives = ⟨false, false, false, []⟩ ∧
    ((dropDrives c s).chan c).engine = .initial ∧ ((dropDrives c s).chan c).session = (s.chan c).session := by
  simp [dropDrives, Drives.none]

theorem dropDrives_frame : (dropDrives c s).chan c.other = s.chan c.other ∧ (dropDrives c s).link = s.link ∧
    (dropDrives c s).store = s.store ∧ (dropDrives c s).ticketStore = s.ticketStore := by
  simp [dropDrives, abandonOperate]

/-- A lost session is IDLE, its drives released and its measurement gone (R40). -/
theorem loseSession_chan : ((loseSession c s).chan c).session.state = .idle ∧
    ((loseSession c s).chan c).seq.drives = ⟨false, false, false, []⟩ ∧
    ((loseSession c s).chan c).engine = .initial := by
  obtain ⟨hdrives, hengine, hsession⟩ := dropDrives_chan (c := c) (s := s)
  unfold loseSession
  dsimp only
  split
  · next hidle => exact ⟨hidle, hdrives, hengine⟩
  · rw [session_finishSession, seq_finishSession, engine_finishSession]
    exact ⟨rfl, hdrives, hengine⟩

theorem loseSession_frame : (loseSession c s).chan c.other = s.chan c.other ∧ (loseSession c s).link = s.link ∧
    (loseSession c s).store = s.store ∧ (loseSession c s).ticketStore = s.ticketStore := by
  obtain ⟨hother, hlink, hstore, htickets⟩ := dropDrives_frame (c := c) (s := s)
  unfold loseSession
  dsimp only
  split
  · exact ⟨hother, hlink, hstore, htickets⟩
  · rw [chan_other_finishSession, link_finishSession, store_finishSession, ticketStore_finishSession]
    exact ⟨hother, hlink, hstore, htickets⟩

/-- Both sessions lost, channel A's first (R91). -/
def loseBoth (s : State) : State := loseSession .b (loseSession .a s)

theorem loseBoth_chan (c : Channel) : ((loseBoth s).chan c).session.state = .idle ∧
    ((loseBoth s).chan c).seq.drives = ⟨false, false, false, []⟩ ∧ ((loseBoth s).chan c).engine = .initial := by
  cases c with
  | a =>
    have hother : (loseBoth s).chan .a = (loseSession .a s).chan .a := loseSession_frame.1
    rw [hother]
    exact loseSession_chan
  | b => exact loseSession_chan

theorem loseBoth_frame : (loseBoth s).link = s.link ∧ (loseBoth s).store = s.store ∧
    (loseBoth s).ticketStore = s.ticketStore := by
  obtain ⟨-, hlinkA, hstoreA, hticketsA⟩ := loseSession_frame (c := .a) (s := s)
  obtain ⟨-, hlink, hstore, htickets⟩ := loseSession_frame (c := .b) (s := loseSession .a s)
  exact ⟨hlink.trans hlinkA, hstore.trans hstoreA, htickets.trans hticketsA⟩

/-- Queue, view and quiets gone, the link in its new state, before the LINK-STATE (R91, R141). -/
def lineGone (st : LinkState) (k : Option LostCause) (s : State) : State :=
  (lowFrameLeft (dropQuiets (emptyView s))).updLink fun l =>
    { l with state := st, cause := k, joinEnd := none, presenceDue := none }

theorem loseLink_eq (st : LinkState) (k : Option LostCause) (s : State) :
    loseLink st k s = emitLinkState (lineGone st k (loseBoth s)) := rfl

theorem chan_lineGone (st : LinkState) (k : Option LostCause) (c : Channel) : (lineGone st k s).chan c =
    { s.chan c with quiet := .initial, clears := [], session := { (s.chan c).session with quietHeld := none } } := by
  cases c <;> rfl

theorem link_lineGone (st : LinkState) (k : Option LostCause) : (lineGone st k s).link = { s.link with
    queue := [], waiting := [], holding := [], presenceMark := false, wire := none, state := st, cause := k
    joinEnd := none, presenceDue := none } := rfl

theorem lineGone_frame (st : LinkState) (k : Option LostCause) : (lineGone st k s).roster = [] ∧
    (lineGone st k s).ticketStore = { releaseAllNotes s.ticketStore with index := [] } ∧
    (lineGone st k s).store = s.store ∧ (lineGone st k s).auto.waitingForRoom = false := ⟨rfl, rfl, rfl, rfl⟩

/-- What the entry to MUTE or LOST leaves, told of a state `r` that has the same store and indications (R91). -/
theorem loseLink_loses {st : LinkState} {k : Option LostCause}
    (hclash : s.link.clash = (r.link.clash || decide (st = .mute))) (herr : s.link.linkError = r.link.linkError)
    (hstore : s.store = r.store)
    (htickets : (∀ c, (r.chan c).session.cancelPending = false ∧ (r.chan c).claim.withdrawal = none) →
      s.ticketStore = r.ticketStore) : LosesTheLine r st k (loseLink st k s) := by
  obtain ⟨hlinkBoth, hstoreBoth, hticketsBoth⟩ := loseBoth_frame (s := s)
  obtain ⟨hroster, htickets', hstore', hroom'⟩ := lineGone_frame (s := loseBoth s) st k
  have hlink := link_lineGone (s := loseBoth s) st k
  have hchan := chan_lineGone (s := loseBoth s) st k
  have hboth := loseBoth_chan (s := s)
  rw [hlinkBoth] at hlink
  rw [hticketsBoth] at htickets'
  rw [hstoreBoth] at hstore'
  rw [loseLink_eq]
  generalize loseBoth s = w at *
  generalize lineGone st k w = u at *
  have hulink : (emitLinkState u).link = _ := link_emitLinkState.trans hlink
  refine ⟨by rw [hulink], by rw [hulink], by rw [hulink]; exact ⟨rfl, rfl, rfl, rfl⟩, by rw [hulink],
    by rw [hulink]; exact ⟨rfl, rfl⟩, by rw [hulink, ← hclash], by rw [hulink, ← herr], ⟨?_, ?_⟩, fun c => ?_,
    fun c => ?_, fun c => ?_, fun c => ?_, fun hpending => ?_, ?_, ?_, fun hroom => ?_⟩
  · rw [roster_emitLinkState, hroster]
  · rw [ticketStore_emitLinkState, htickets']
  · rw [chan_emitLinkState, hchan]
    exact ⟨(hboth c).1, rfl⟩
  · rw [chan_emitLinkState, hchan]
    exact (hboth c).2.1
  · rw [chan_emitLinkState, hchan, (hboth c).2.2]
    exact ⟨rfl, rfl⟩
  · rw [chan_emitLinkState, hchan]
    exact ⟨rfl, rfl⟩
  · rw [ticketStore_emitLinkState, htickets', htickets hpending]
  · rw [store_emitLinkState, hstore', hstore]
  · rw [auto_emitLinkState, hroom']
  · rw [emitLinkState] at hroom ⊢
    rw [emit_entered hroom, hlink]
    exact ⟨_, List.mem_append_right _ (List.mem_singleton.2 rfl), rfl, rfl, rfl⟩

/-! ### A pending cancel or withdrawal acts before the line is lost -/

/-- The link has lost no more than frames and the attempt on the wire. -/
def QueueOnly (s t : State) : Prop := t.link = { s.link with
  queue := t.link.queue, nextEntry := t.link.nextEntry, wire := t.link.wire }

theorem QueueOnly.refl (s : State) : QueueOnly s s := rfl

theorem QueueOnly.trans {t u : State} (h : QueueOnly s t) (k : QueueOnly t u) : QueueOnly s u := by
  rw [QueueOnly] at h k ⊢
  rw [k, h]

theorem queueOnly_removeIfQueued {g : Option QueuedFrame} : QueueOnly s (removeIfQueued g s) := by
  cases g with
  | none => exact QueueOnly.refl s
  | some g => simp [QueueOnly, removeIfQueued_some, link_removeFrame]

theorem queueOnly_endClaim : QueueOnly s (endClaim c o m s) := by
  rw [QueueOnly]
  unfold endClaim
  dsimp only
  rw [link_finishSession]
  split
  · rw [link_report]
    exact queueOnly_removeIfQueued
  · exact queueOnly_removeIfQueued

theorem queueOnly_rerouteClaim : QueueOnly s (rerouteClaim c m s) := by
  unfold rerouteClaim
  split
  · simp [QueueOnly]
  · exact queueOnly_endClaim

theorem claimNotTaken_frame : QueueOnly s (claimNotTaken c s) ∧ (claimNotTaken c s).store = s.store := by
  have hstep : QueueOnly s (s.updClaim c fun _ => ⟨.queued, none⟩) := by simp [QueueOnly]
  have hends : ∀ o, QueueOnly s (endClaim c o none (s.updClaim c fun _ => ⟨.queued, none⟩)) ∧
      (endClaim c o none (s.updClaim c fun _ => ⟨.queued, none⟩)).store = s.store :=
    fun o => ⟨hstep.trans queueOnly_endClaim, by simp⟩
  unfold claimNotTaken
  dsimp only
  split
  · exact hends _
  · split
    · exact ⟨hstep, by simp⟩
    · exact hends _
    · split
      · exact hends _
      · exact ⟨hstep.trans queueOnly_rerouteClaim, by simp⟩

theorem quietNotTaken_frame : QueueOnly s (quietNotTaken c f s) ∧ (quietNotTaken c f s).store = s.store ∧
    (quietNotTaken c f s).ticketStore = s.ticketStore := by
  unfold quietNotTaken
  split
  · exact ⟨by simp [QueueOnly, link_removeFrame], by simp, by simp⟩
  · exact ⟨QueueOnly.refl s, rfl, rfl⟩

theorem queueOnly_clearWire : QueueOnly s (clearWire s) := by simp [QueueOnly]

/-- A cancel or withdrawal that acts before the line is lost leaves the store and the link's indications; with none
pending on a claim it leaves the tickets too (R117, R130). -/
theorem pendingActs_frame : QueueOnly s (pendingActs s) ∧ (pendingActs s).store = s.store ∧
    ((∀ c, (s.chan c).session.cancelPending = false ∧ (s.chan c).claim.withdrawal = none) →
      (pendingActs s).ticketStore = s.ticketStore) := by
  unfold pendingActs
  split
  · exact ⟨QueueOnly.refl s, rfl, fun _ => rfl⟩
  · next f hf =>
    split
    · next hwithdrawn =>
      unfold attemptWithdrawn at hwithdrawn
      unfold attemptNotTaken
      split at hwithdrawn
      · next c hbody horigin =>
        obtain ⟨hlink, hstore⟩ := claimNotTaken_frame (s := clearWire s) (c := c)
        refine ⟨queueOnly_clearWire.trans hlink, hstore.trans (by simp), fun hnone => ?_⟩
        obtain ⟨hcancel, hclaim⟩ := hnone c
        simp [claimLeaves, hcancel, hclaim] at hwithdrawn
      · next c hbody horigin =>
        obtain ⟨hlink, hstore, htickets⟩ := quietNotTaken_frame (s := clearWire s) (c := c) (f := f)
        exact ⟨queueOnly_clearWire.trans hlink, hstore.trans (by simp), fun _ => htickets.trans (by simp)⟩
      · cases hwithdrawn
    · exact ⟨QueueOnly.refl s, rfl, fun _ => rfl⟩

/-- The line is LOST, a pending cancel or withdrawal having acted (R81, R90, R117). -/
theorem loseLink_pendingActs (k : Option LostCause) : LosesTheLine s .lost k (loseLink .lost k (pendingActs s)) := by
  obtain ⟨hlink, hstore, htickets⟩ := pendingActs_frame (s := s)
  rw [QueueOnly] at hlink
  exact loseLink_loses (by rw [hlink]; simp) (by rw [hlink]) hstore htickets

theorem clash_loses (hlink : QueueOnly r s ∨ s.link = r.link ∨ s.link = r.answered.link) (hstore : s.store = r.store)
    (htickets : (∀ c, (r.chan c).session.cancelPending = false ∧ (r.chan c).claim.withdrawal = none) →
      s.ticketStore = r.ticketStore) : LosesTheLine r .mute none (clash s) := by
  have herr : s.link.linkError = r.link.linkError := by
    rcases hlink with h | h | h <;> rw [h]
    rfl
  rw [clash]
  exact loseLink_loses (by simp) (by simpa using herr) (by simpa using hstore) (by simpa using htickets)

end Lost

/-! ### The rows of the line -/

section Rows

variable {s : State} {n : Station} {b : FrameBody}

theorem exec_stuckLine (s : State) : exec .stuckLine s = .next
    (if s.inFarewell then clearWire (endFarewell s)
     else if s.onLine then loseLink .lost (some .stuck) (pendingActs s)
     else if s.link.state = .lost ∧ s.link.cause = some .unheard ∧ s.softReset = none then
       emitLinkState (s.updLink fun l => { l with cause := some .stuck })
     else s) := rfl

theorem exec_stuckCleared (s : State) : exec .stuckCleared s = .next
    (if s.link.state = .lost ∧ s.link.cause = some .stuck ∧ s.softReset = none then enterJoining s else s) := rfl

theorem exec_clashFound (s : State) : exec .clashFound s = .next
    (if s.inFarewell then clearWire (endFarewell s) else if s.onLine then clash (pendingActs s) else s) := rfl

theorem exec_ownNumberFrame (s : State) : exec .ownNumberFrame s = .next (ownNumberHeard (driveSlot true s)) := rfl

theorem exec_lostFrameHeard (n : Station) (b : FrameBody) (s : State) :
    exec (.lostFrameHeard n b) s = .next (lostFrame n b s) := rfl

theorem exec_joinSettleEnd (s : State) : exec .joinSettleEnd s = .next
    (if s.link.state = .joining ∧ s.onLine = true then
       emitLinkState (s.updLink fun l => { l with state := .active, joinEnd := none })
     else s) := rfl

theorem exec_presenceTimer (s : State) : exec .presenceTimer s = .next
    (if s.onLine then
       s.updLink fun l =>
         { l with
           presenceDue := some (s.now + Config.presenceInterval)
           presenceMark := if presenceQueued l then l.presenceMark else true }
     else s) := rfl

theorem inFarewell_of_none (h : s.softReset = none) : s.inFarewell = false := by
  rw [State.inFarewell, h]
  rfl

theorem onLine_lost (h : s.link.state = .lost) : s.onLine = false := by
  rw [State.onLine, h]
  rfl

/-- The slot a frame is answered in is all that its check drives (R78). -/
theorem driveSlot_cases (passed : Bool) (s : State) : driveSlot passed s = s ∨
    driveSlot passed s = s.updLink fun l => { l with slot := some (slotFor passed) } := by
  unfold driveSlot
  split
  · exact .inr rfl
  · exact .inl rfl

theorem driveSlot_frame (passed : Bool) : (driveSlot passed s).link = { s.link with slot := (driveSlot passed s).link.slot } ∧
    (driveSlot passed s).store = s.store ∧ (driveSlot passed s).ticketStore = s.ticketStore ∧
    (driveSlot passed s).port = s.port ∧ (driveSlot passed s).softReset = s.softReset := by
  rcases driveSlot_cases passed s with h | h <;> rw [h] <;> simp

/-- A clash finds the same link under a driven slot (R93). -/
theorem clash_driveSlot (passed : Bool) : LosesTheLine s .mute none (clash (driveSlot passed s)) := by
  obtain ⟨hlink, hstore, htickets, -, -⟩ := driveSlot_frame (s := s) passed
  rw [clash]
  exact loseLink_loses (by simp) (by rw [emit_link, link_updLink, hlink]) (by simpa using hstore)
    (by simpa using fun _ => htickets)

theorem ownNumberHeard_farewell (h : s.inFarewell = true) : ownNumberHeard s = clearWire (endFarewell s) := if_pos h

theorem ownNumberHeard_clash (h : s.inFarewell = false)
    (hline : s.onLine = true ∨ (s.link.state = .lost ∧ s.softReset = none)) : ownNumberHeard s = clash s := by
  unfold ownNumberHeard
  rw [if_neg (by rw [h]; exact Bool.false_ne_true)]
  by_cases honLine : s.onLine = true
  · rw [if_pos honLine]
  · rw [if_neg honLine]
    exact if_pos (hline.resolve_left honLine)

theorem ownNumberHeard_nothing (h : s.inFarewell = false) (honLine : s.onLine = false)
    (hlost : ¬(s.link.state = .lost ∧ s.softReset = none)) : ownNumberHeard s = s := by
  unfold ownNumberHeard
  rw [if_neg (by rw [h]; exact Bool.false_ne_true), if_neg (by rw [honLine]; exact Bool.false_ne_true), if_neg hlost]

theorem driveSlot_keeps (passed : Bool) : (driveSlot passed s).inFarewell = s.inFarewell ∧
    (driveSlot passed s).onLine = s.onLine ∧ (driveSlot passed s).link.state = s.link.state ∧
    (driveSlot passed s).softReset = s.softReset := by
  obtain ⟨hlink, -, -, hport, hreset⟩ := driveSlot_frame (s := s) passed
  refine ⟨by rw [State.inFarewell, State.inFarewell, hreset], ?_, by rw [hlink], hreset⟩
  rw [State.onLine, State.onLine, hport, hlink]

/-- The own number heard on a line the station is on, or has lost, is a clash, whatever the slot (R93). -/
theorem ownNumber_clashes (hfarewell : s.inFarewell = false)
    (hline : s.onLine = true ∨ (s.link.state = .lost ∧ s.softReset = none)) :
    ∃ u, ownNumberHeard (driveSlot true s) = u ∧ LosesTheLine s .mute none u := by
  obtain ⟨hkeptFarewell, honLine, hstate, hreset⟩ := driveSlot_keeps (s := s) true
  refine ⟨_, ownNumberHeard_clash (hkeptFarewell.trans hfarewell) ?_, clash_driveSlot true⟩
  rw [honLine, hstate, hreset]
  exact hline

/-- Where the own number is nothing, the slot alone is driven (R78, R93). -/
theorem ownNumber_nothing (hfarewell : s.inFarewell = false) (honLine : s.onLine = false)
    (hlost : ¬(s.link.state = .lost ∧ s.softReset = none)) : ownNumberHeard (driveSlot true s) =
      if (s.link.state = .joining ∨ s.link.state = .active) ∧ s.link.wire = none then s.answered else s := by
  obtain ⟨hkeptFarewell, honLine', hstate, hreset⟩ := driveSlot_keeps (s := s) true
  rw [ownNumberHeard_nothing (hkeptFarewell.trans hfarewell) (honLine'.trans honLine) (by rw [hstate, hreset]; exact hlost)]
  have hdrives : s.drivesSlots = true ↔ (s.link.state = .joining ∨ s.link.state = .active) ∧ s.link.wire = none := by
    simp [State.drivesSlots]
  unfold driveSlot
  by_cases h : s.drivesSlots = true
  · rw [if_pos h, if_pos (hdrives.1 h)]
    rfl
  · rw [if_neg h, if_neg fun hall => h (hdrives.2 hall)]

/-- The rows that say another station's frame with the own number has ended on the wire (R93). -/
theorem exec_ownFrame (hfits : frameFits n b = true) (hown : s.store.station = some n) :
    exec (frameRow n b) s = .next (ownNumberHeard (driveSlot true s)) := by
  have hisOwn : (driveSlot true s).isOwn n = true := by
    rw [State.isOwn, (driveSlot_frame true).2.1, hown]
    exact beq_self_eq_true _
  rw [exec_frameRow, frameTaken, hfits, hisOwn]
  rfl

/-- In a farewell, what would lose the line ends the farewell (R95). -/
theorem endFarewell_ends : (clearWire (endFarewell s)).inFarewell = false ∧ (clearWire (endFarewell s)).link.queue = [] ∧
    (clearWire (endFarewell s)).link.waiting = [] ∧ (clearWire (endFarewell s)).link.wire = none ∧
    (clearWire (endFarewell s)).link.state = s.link.state ∧ (clearWire (endFarewell s)).port = s.port := by
  refine ⟨?_, rfl, rfl, rfl, rfl, rfl⟩
  have hreset : (clearWire (endFarewell s)).softReset = s.softReset.map fun r => { r with farewell := false } := rfl
  rw [State.inFarewell, hreset]
  cases s.softReset <;> rfl

theorem lostFrame_joins (hlost : s.link.state = .lost) (hcause : s.link.cause = some .unheard)
    (hreset : s.softReset = none) (hfits : frameFits n b = true) (hother : s.store.station ≠ some n) :
    lostFrame n b s = handOn n b (enterJoining s) := by
  have hown : ¬s.isOwn n = true := by
    rw [State.isOwn, beq_iff_eq]
    exact hother
  exact (if_pos ⟨hlost, hreset, hfits⟩).trans ((if_neg hown).trans (if_pos hcause))

theorem lostFrame_own (hlost : s.link.state = .lost) (hreset : s.softReset = none) (hfits : frameFits n b = true)
    (hown : s.store.station = some n) : lostFrame n b s = clash s := by
  refine (if_pos ⟨hlost, hreset, hfits⟩).trans (if_pos ?_)
  rw [State.isOwn, hown]
  exact beq_self_eq_true _

theorem lostFrame_nothing (h : frameFits n b = false ∨ ¬(s.link.state = .lost ∧ s.softReset = none) ∨
    (¬(s.link.state = .lost ∧ s.link.cause = some .unheard ∧ s.softReset = none) ∧ s.store.station ≠ some n)) :
    lostFrame n b s = s := by
  unfold lostFrame
  split
  · next hall =>
    obtain ⟨hlost, hreset, hfits⟩ := hall
    rcases h with h | h | ⟨h, hother⟩
    · rw [hfits] at h
      cases h
    · exact absurd ⟨hlost, hreset⟩ h
    · rw [if_neg (by rw [State.isOwn, beq_iff_eq]; exact hother), if_neg fun hcause => h ⟨hlost, hcause, hreset⟩]
  · rfl

theorem find?_insertPeer_self {p : Peer} {l : List Peer} (h : l.find? (·.station == p.station) = none) :
    (insertPeer p l).find? (·.station == p.station) = some p := by
  induction l with
  | nil => simp [insertPeer]
  | cons q l ih =>
    rw [List.find?_cons] at h
    split at h
    · cases h
    · next hq =>
      rw [insertPeer]
      split
      · simp
      · rw [List.find?_cons, hq]
        exact ih h

theorem find?_insertPeer_other {p : Peer} {l : List Peer} {m : Station} (h : m ≠ p.station) :
    (insertPeer p l).find? (·.station == m) = l.find? (·.station == m) := by
  have hp : (p.station == m) = false := beq_false_of_ne h.symm
  induction l with
  | nil => simp [insertPeer, hp]
  | cons q l ih =>
    rw [insertPeer]
    split
    · rw [List.find?_cons, hp]
    · rw [List.find?_cons, List.find?_cons, ih]

theorem heardPeer_new {j : Bool} (h : s.peer n = none) : heardPeer n j s =
    emit (peerJoined n j) { s with roster := insertPeer ⟨n, s.now, false, [], []⟩ s.roster } := by
  unfold heardPeer
  rw [h]

theorem heardPeer_joins {j : Bool} {p : Peer} (h : s.peer n = some p) (hj : j = true) (hp : p.joining = false) :
    heardPeer n j s = emit (peerJoined n true) (updatePeer n (fun q => { q with lastHeard := s.now }) s) := by
  unfold heardPeer
  rw [h]
  exact if_pos (by rw [hj, hp]; rfl)

/-- A station heard has an entry, heard now; the others' entries are as they were (R97). -/
theorem heardPeer_view (j : Bool) : (heardPeer n j s).link.state = s.link.state ∧
    (∃ p, (heardPeer n j s).peer n = some p ∧ p.lastHeard = s.now) ∧
    ∀ m, m ≠ n → (heardPeer n j s).peer m = s.peer m := by
  have hsame : ∀ (e : Event) (v : State) (k : Station), (emit e v).peer k = v.peer k :=
    fun e v k => peer_of_roster (emit_roster e v)
  cases h : s.peer n with
  | none =>
    rw [heardPeer_new h]
    refine ⟨by rw [emit_link], ⟨⟨n, s.now, false, [], []⟩, ?_, rfl⟩, fun m hm => ?_⟩ <;> rw [hsame]
    · exact find?_insertPeer_self (p := ⟨n, s.now, false, [], []⟩) h
    · exact find?_insertPeer_other (p := ⟨n, s.now, false, [], []⟩) hm
  | some p =>
    have hself : (updatePeer n (fun q => { q with lastHeard := s.now }) s).peer n = some { p with lastHeard := s.now } :=
      peer_updatePeer (fun _ => rfl) h
    have hothers : ∀ m, m ≠ n → (updatePeer n (fun q => { q with lastHeard := s.now }) s).peer m = s.peer m :=
      fun m hm => peer_updatePeer_other (f := fun q => { q with lastHeard := s.now }) (fun _ => rfl) hm
    by_cases hj : j = true ∧ p.joining = false
    · rw [heardPeer_joins h hj.1 hj.2]
      exact ⟨by rw [emit_link]; rfl, ⟨_, (hsame _ _ _).trans hself, rfl⟩, fun m hm => (hsame _ _ _).trans (hothers m hm)⟩
    · rw [heardPeer_known h]
      · exact ⟨rfl, ⟨_, hself, rfl⟩, hothers⟩
      · cases j with
        | false => exact .inl rfl
        | true => exact .inr (Bool.not_eq_false _ ▸ fun hp => hj ⟨rfl, hp⟩)

/-- A frame handed on leaves the link's state, its sender heard now and the other stations' entries (R79, R97). -/
theorem handOn_view : (handOn n b s).link.state = s.link.state ∧
    (∃ p, (handOn n b s).peer n = some p ∧ p.lastHeard = s.now) ∧
    ∀ m, m ≠ n → (handOn n b s).peer m = s.peer m := by
  obtain ⟨hstate, ⟨p, hp, hheard⟩, hothers⟩ := heardPeer_view (s := s) (n := n) (joiningFlag b)
  unfold handOn
  dsimp only
  rw [hp]
  obtain ⟨hkept, hsame, hlast⟩ := entryKept_applyFrame (n := n) (a := b) (p := p) (s := heardPeer n (joiningFlag b) s)
  refine ⟨hkept.trans hstate, ?_, fun m hm => (hsame m hm).trans (hothers m hm)⟩
  rw [hp, Option.map_some] at hlast
  obtain ⟨q, hq, hqp⟩ := Option.map_eq_some_iff.1 hlast
  exact ⟨q, hq, hqp.trans hheard⟩

end Rows

/-- Settles O50: each row by the branch of it that applies; `enterJoining_joins`, `loseLink_pendingActs` and
`clash_driveSlot` say what the two entries leave. -/
theorem theLineIsJoinedAndLost : Obligations.TheLineIsJoinedAndLost := by
  refine ⟨fun s hphase => answers_of_take hphase rfl rfl, fun s hphase => ⟨fun hlost hcause => ?_, fun h => ?_⟩,
    fun s hlost hcause hreset => ⟨⟨_, ?_, enterJoining_joins⟩, ?_⟩,
    fun s hlost hcause hreset => ⟨fun n b hfits hother => ?_, fun hroom => ?_⟩,
    fun s honLine => ⟨fun hjoining hroom => ?_, ?_⟩, fun s honLine hfarewell => ⟨?_, ?_, ?_, fun n b hfits hown => ?_⟩,
    fun s hlost hreset honLine => ⟨?_, fun n b hfits hown i hi => ?_⟩, fun s hfarewell i hi => ?_, fun s => ?_⟩
  · exact ⟨_, answers_of_take (take := takeRejoin) hphase rfl (if_pos ⟨hlost, hcause⟩), enterJoining_joins⟩
  · refine answers_of_take (take := takeRejoin) hphase rfl (if_neg ?_)
    rintro ⟨hlost, hcause⟩
    rcases h with h | h
    · exact h hlost
    · exact h hcause
  · rw [exec_stuckCleared, if_pos ⟨hlost, hcause, hreset⟩]
  · rw [exec_stuckLine, if_neg (by simp [inFarewell_of_none hreset]), if_neg (by simp [onLine_lost hlost]),
      if_neg (by simp [hcause])]
  · obtain ⟨hstate, ⟨p, hp, -⟩, -⟩ := handOn_view (n := n) (b := b) (s := enterJoining s)
    refine ⟨_, (exec_lostFrameHeard n b s).trans (congrArg _ (lostFrame_joins hlost hcause hreset hfits hother)),
      hstate.trans (enterJoining_state s), by rw [hp]; rfl⟩
  · rw [exec_stuckLine, if_neg (by simp [inFarewell_of_none hreset]), if_neg (by simp [onLine_lost hlost]),
      if_pos ⟨hlost, hcause, hreset⟩, emitLinkState, emit_of_room (by simpa using hroom), link_updLink, hlost]
    rfl
  · rw [exec_joinSettleEnd, if_pos ⟨hjoining, honLine⟩, emitLinkState, emit_of_room (by simpa using hroom)]
    rfl
  · rw [exec_presenceTimer, if_pos honLine]
    refine congrArg _ (congrArg (fun l => ({ s with link := l } : State)) ?_)
    cases hmark : s.link.presenceMark <;> cases hany : s.link.queue.any (·.body == .presenceMark) <;>
      simp [presenceQueued, hmark, hany, Config.presenceInterval]
  · refine ⟨_, (exec_stuckLine s).trans (congrArg _ ?_), loseLink_pendingActs (some .stuck)⟩
    rw [if_neg (by simp [hfarewell]), if_pos honLine]
  · obtain ⟨hlink, hstore, htickets⟩ := pendingActs_frame (s := s)
    refine ⟨_, (exec_clashFound s).trans (congrArg _ ?_), clash_loses (.inl hlink) hstore htickets⟩
    rw [if_neg (by simp [hfarewell]), if_pos honLine]
  · obtain ⟨u, hu, hloses⟩ := ownNumber_clashes hfarewell (.inl honLine)
    exact ⟨u, (exec_ownNumberFrame s).trans (congrArg _ hu), hloses⟩
  · obtain ⟨u, hu, hloses⟩ := ownNumber_clashes hfarewell (.inl honLine)
    exact ⟨u, (exec_ownFrame hfits hown).trans (congrArg _ hu), hloses⟩
  · obtain ⟨u, hu, hloses⟩ := ownNumber_clashes (inFarewell_of_none hreset) (.inr ⟨hlost, hreset⟩)
    exact ⟨u, (exec_ownNumberFrame s).trans (congrArg _ hu), hloses⟩
  · rw [List.mem_cons, List.mem_singleton] at hi
    rcases hi with rfl | rfl
    · obtain ⟨u, hu, hloses⟩ := ownNumber_clashes (inFarewell_of_none hreset) (.inr ⟨hlost, hreset⟩)
      exact ⟨u, (exec_ownFrame hfits hown).trans (congrArg _ hu), hloses⟩
    · exact ⟨_, (exec_lostFrameHeard n b s).trans (congrArg _ (lostFrame_own hlost hreset hfits hown)),
        clash_loses (.inr (.inl rfl)) rfl fun _ => rfl⟩
  · obtain ⟨hkept, -, hstate, -⟩ := driveSlot_keeps (s := s) true
    obtain ⟨-, -, -, hport, -⟩ := driveSlot_frame (s := s) true
    have hdriven := endFarewell_ends (s := driveSlot true s)
    rw [hstate, hport] at hdriven
    have hheard : ownNumberHeard (driveSlot true s) = clearWire (endFarewell (driveSlot true s)) :=
      ownNumberHeard_farewell (hkept.trans hfarewell)
    rcases hi with hi | ⟨n, b, rfl, hfits, hown⟩
    · simp only [List.mem_cons, List.not_mem_nil, or_false] at hi
      rcases hi with rfl | rfl | rfl
      · exact ⟨_, (exec_stuckLine s).trans (congrArg _ (if_pos hfarewell)), endFarewell_ends⟩
      · exact ⟨_, (exec_clashFound s).trans (congrArg _ (if_pos hfarewell)), endFarewell_ends⟩
      · exact ⟨_, (exec_ownNumberFrame s).trans (congrArg _ hheard), hdriven⟩
    · exact ⟨_, (exec_ownFrame hfits hown).trans (congrArg _ hheard), hdriven⟩
  · dsimp only
    refine ⟨fun h => ?_, fun h => ?_, fun h hfarewell => ?_, fun h hfarewell hlost => ?_, fun h => ?_, fun n b h => ?_,
      fun h hfarewell hlost i hi => ?_⟩
    · rw [exec_joinSettleEnd, if_neg fun hall => h ⟨hall.2, hall.1⟩]
    · rw [exec_presenceTimer, if_neg h]
    · rw [exec_clashFound, if_neg (by simp [hfarewell]), if_neg h]
    · rw [exec_stuckLine, if_neg (by simp [hfarewell]), if_neg h, if_neg hlost]
    · rw [exec_stuckCleared, if_neg h]
    · rw [exec_lostFrameHeard, lostFrame_nothing h]
    · have hnothing := ownNumber_nothing hfarewell (Bool.not_eq_true _ ▸ h) hlost
      rcases hi with rfl | ⟨n, b, rfl, hfits, hown⟩
      · rw [exec_ownNumberFrame, hnothing]
      · rw [exec_ownFrame hfits hown, hnothing]

end Sys2Proof.Machine
end

section
/-! The transmit queue (O52) and the own attempts (O51). -/

namespace Sys2Proof.Machine

/-! ### Entering the queue -/

section Entering

variable {s : State} {b : FrameBody} {c : Option Channel} {f g : QueuedFrame}

theorem exec_urgentFrameEnters (s : State) : exec .urgentFrameEnters s = .next
    (match s.link.waiting with
     | [] => s
     | f :: rest =>
       if s.link.queue.length < Config.queueSlots then
         enqueue f.body f.origin (s.updLink fun l => { l with waiting := rest })
       else s) := rfl

theorem exec_holdingAreaEnter (s : State) : exec .holdingAreaEnter s = .next
    (match s.link.holding with
     | [] => s
     | f :: rest =>
       if s.link.roomLow 0 then enqueue f.body f.origin (s.updLink fun l => { l with holding := rest }) else s) := rfl

theorem exec_markEntersQueue (s : State) : exec .markEntersQueue s = .next
    (if !s.onLine then s
     else if s.link.presenceMark then servePresence s
     else if s.noteMark && s.link.roomLow (aheadOfNote s.link) then enqueue .noteMark none s
     else s) := rfl

theorem offerUrgent_waits (h : s.link.waiting ≠ [] ∧ s.link.queue.length < 12 ∨
    12 ≤ s.link.queue.length ∧ (∀ f ∈ s.link.queue, 2 ≤ f.first → s.link.onWire f = true)) :
    offerUrgent b c s = s.updLink fun l => { l with waiting := l.waiting ++ [newFrame (.built b) c 0] } := by
  unfold offerUrgent
  dsimp only
  rcases h with ⟨hwaiting, hslots⟩ | ⟨hfull, hall⟩
  · rw [if_pos (show s.link.queue.length < Config.queueSlots from hslots), if_neg (by simpa using hwaiting)]
  · have hnone : (s.link.lastOffWire fun f => decide (2 ≤ f.first)) = none := by
      rw [Link.lastOffWire, List.find?_eq_none]
      intro f hf
      rw [List.mem_reverse] at hf
      by_cases hfirst : 2 ≤ f.first
      · simp [hall f hf hfirst]
      · simp [hfirst]
    rw [if_neg (show ¬s.link.queue.length < Config.queueSlots from Nat.not_lt.2 hfull), hnone]

/-- The frame a full queue gives up: the newest first queued at urgency 2 or 3 and not on the wire (R83). -/
theorem lastOffWire_eq {pre post : List QueuedFrame} (hq : s.link.queue = pre ++ f :: post) (hfirst : 2 ≤ f.first)
    (hwire : s.link.onWire f = false) (hpost : ∀ g ∈ post, 2 ≤ g.first → s.link.onWire g = true) :
    (s.link.lastOffWire fun f => decide (2 ≤ f.first)) = some f := by
  have hnone : (post.reverse.find? fun g => decide (2 ≤ g.first) && !s.link.onWire g) = none := by
    rw [List.find?_eq_none]
    intro g hg
    rw [List.mem_reverse] at hg
    by_cases h : 2 ≤ g.first
    · simp [hpost g hg h]
    · simp [h]
  rw [Link.lastOffWire, hq, List.reverse_append, List.reverse_cons, List.append_assoc, List.find?_append, hnone]
  simp [hfirst, hwire]

theorem offerUrgent_displaces (hfull : 12 ≤ s.link.queue.length)
    (hlast : (s.link.lastOffWire fun f => decide (2 ≤ f.first)) = some f) :
    offerUrgent b c s = displaced f (enqueue (.built b) c (removeFrame f s)) := by
  unfold offerUrgent
  dsimp only
  rw [if_neg (show ¬s.link.queue.length < Config.queueSlots from Nat.not_lt.2 hfull), hlast]

/-- A displaced frame leaves the queue, what waits and the holding area's room as they were (R83, R84). -/
theorem displaced_link : (displaced f s).link.queue = s.link.queue ∧ (displaced f s).link.waiting = s.link.waiting ∧
    (f.body = .presenceMark → (displaced f s).link.presenceMark = true) ∧
    (∀ d, f.body = .built d → s.link.holding.length < 4 →
      (displaced f s).link.holding = s.link.holding ++ [{ f with voids := 0, losses := 0 }]) := by
  have hholds : ∀ g : QueuedFrame, (holdFrame g s).link.queue = s.link.queue ∧
      (holdFrame g s).link.waiting = s.link.waiting ∧
      (s.link.holding.length < 4 → (holdFrame g s).link.holding = s.link.holding ++ [g]) := by
    intro g
    unfold holdFrame
    split
    · next h => simp [h]
    · next oldest rest h =>
      split
      · simp
      · next hfull =>
        refine ⟨by simp, by simp, fun hroom => absurd ?_ hfull⟩
        rw [h, List.length_cons] at hroom
        exact hroom
  obtain ⟨hqueue, hwaiting, hheld⟩ := hholds { f with voids := 0, losses := 0 }
  unfold displaced
  split
  · next h =>
    refine ⟨by simp, by simp, fun _ => by simp, fun d hd => ?_⟩
    rw [h] at hd
    cases hd
  · next h =>
    refine ⟨rfl, rfl, fun hd => ?_, fun d hd => ?_⟩
    · rw [h] at hd
      cases hd
    · rw [h] at hd
      cases hd
  · next h =>
    refine ⟨hqueue, hwaiting, fun hd => ?_, fun d _ hroom => hheld hroom⟩
    rw [h] at hd
    cases hd

/-- A frame that leaves a queue in entry order leaves the others in their places (R82). -/
theorem filter_entry_self {pre post : List QueuedFrame} (hl : LinkOk s.link) (hq : s.link.queue = pre ++ f :: post) :
    s.link.queue.filter (·.entry ≠ f.entry) = pre ++ post := by
  have horder := hl.order
  rw [hq, List.map_append, List.map_cons, List.pairwise_append, List.pairwise_cons] at horder
  obtain ⟨-, ⟨hafter, -⟩, hbefore⟩ := horder
  have hpre : pre.filter (·.entry ≠ f.entry) = pre := List.filter_eq_self.2 fun g hg => decide_eq_true
    (Nat.ne_of_lt (hbefore _ (List.mem_map_of_mem hg) _ List.mem_cons_self))
  have hpost : post.filter (·.entry ≠ f.entry) = post := List.filter_eq_self.2 fun g hg => decide_eq_true
    (Nat.ne_of_gt (hafter _ (List.mem_map_of_mem hg)))
  rw [hq, List.filter_append, hpre, List.filter_cons_of_neg (by simp), hpost]

theorem offerNotice_held (h : s.link.holding ≠ [] ∨ 8 ≤ lowCount s.link.queue) :
    offerNotice b s = holdFrame (newFrame (.built b) none 0) s := by
  refine if_neg fun hall => ?_
  rw [Bool.and_eq_true, List.isEmpty_iff, roomLow_zero_iff] at hall
  obtain ⟨hholding, hlow, -, -⟩ := hall
  rcases h with h | h
  · exact h hholding
  · exact Nat.not_lt.2 h hlow

end Entering

/-- Settles O52, a row or a kind of frame at a time. -/
theorem framesEnterTheQueueInTheirOrder : Obligations.FramesEnterTheQueueInTheirOrder := by
  refine ⟨fun s => ⟨fun h => ?_, fun f rest hw hslots => ?_⟩, fun s => ⟨fun h => ?_, fun f rest hh hlow hslots hw => ?_⟩,
    fun s => ⟨fun h => ?_, fun honLine hw => ⟨fun hmark hlow hslots => ?_, fun hmark hnotes hnone hlow hslots => ?_⟩⟩,
    fun b c s => ⟨fun hroom => ?_, fun h => ?_, fun pre f post hfull hl hq hfirst hwire hpost => ?_⟩,
    fun b s => ⟨fun hroom => ?_, fun h hroom => ?_, fun f rest hh hrest => ?_⟩⟩
  · rw [exec_urgentFrameEnters]
    rcases h with h | h
    · rw [h]
    · split
      · rfl
      · exact congrArg _ (if_neg (Nat.not_lt.2 h))
  · rw [exec_urgentFrameEnters, hw]
    exact congrArg _ (if_pos hslots)
  · rw [exec_holdingAreaEnter]
    rcases h with h | h
    · rw [h]
    · split
      · rfl
      · rw [roomLow_zero_false (h.imp_right .inr)]
        rfl
  · rw [exec_holdingAreaEnter, hh]
    exact congrArg _ (if_pos ((roomLow_zero_iff _).2 ⟨hlow, hslots, hw⟩))
  · rw [exec_markEntersQueue, h]
    rfl
  · rw [exec_markEntersQueue, if_neg (by simp [honLine]), if_pos hmark,
      servePresence_of_room hmark ⟨hw, hlow, hslots⟩]
    rfl
  · have hnote : s.noteMark = true := by
      simp only [State.noteMark, honLine, hnotes, Bool.true_and, Bool.not_eq_true', List.any_eq_false]
      exact fun f hf => by simpa using hnone f hf
    have hroom : s.link.roomLow (aheadOfNote s.link) = true := by
      simp [Link.roomLow, aheadOfNote, hmark, hlow, hslots, hw, Config.lowSlots, Config.queueSlots]
    rw [exec_markEntersQueue, if_neg (by simp [honLine]), if_neg (by simp [hmark]), hnote, hroom]
    rfl
  · rw [offerUrgent_of_room hroom.1 hroom.2]
    rfl
  · rw [offerUrgent_waits h]
    rfl
  · rw [offerUrgent_displaces hfull (lastOffWire_eq hq hfirst hwire hpost)]
    obtain ⟨hqueue, hwaiting, hmark, hheld⟩ := displaced_link (f := f) (s := enqueue (.built b) c (removeFrame f s))
    refine ⟨?_, ?_, hmark, fun d hd hroom => ?_⟩
    · rw [hqueue, enqueue, link_updLink, link_removeFrame, filter_bne_entry, filter_entry_self hl hq]
    · rw [hwaiting, enqueue, link_updLink, link_removeFrame]
    · have hholding : (enqueue (.built b) c (removeFrame f s)).link.holding = s.link.holding := by
        rw [enqueue, link_updLink, link_removeFrame]
      rw [hheld d hd (by rwa [hholding]), hholding]
  · rw [offerNotice_of_room hroom]
    rfl
  · rw [offerNotice_held h]
    unfold holdFrame
    split
    · next hnil => simp [hnil]
    · next oldest rest hcons =>
      rw [hcons, List.length_cons] at hroom
      rw [if_pos (show rest.length + 1 < Config.holdingSlots from hroom)]
      simp
  · rw [offerNotice_held (.inl (by simp [hh]))]
    have hheld : holdFrame (newFrame (.built b) none 0) s = tellDroppedFrame f (setLinkError (s.updLink fun l =>
        { l with holding := rest ++ [newFrame (.built b) none 0] })) := by
      unfold holdFrame
      rw [hh]
      exact if_neg (by simp [hrest, Config.holdingSlots])
    rw [hheld]
    simp

end Sys2Proof.Machine
end

section
/-! The own attempts: start, loss, void, drop, and what a taken frame does (O51). -/

namespace Sys2Proof.Machine

/-! ### The start of an attempt -/

section Starts

variable {s : State} {f g : QueuedFrame} {q : List QueuedFrame} {b : FrameBody} {c : Channel}

/-- A frame goes before another by urgency, then by entry (R82). -/
def GoesBefore (f g : QueuedFrame) : Prop := f.urgency < g.urgency ∨ f.urgency = g.urgency ∧ f.entry ≤ g.entry

theorem bestFrame_nil_iff : bestFrame q = none ↔ q = [] := by
  cases q with
  | nil => exact ⟨fun _ => rfl, fun _ => rfl⟩
  | cons f q =>
    refine ⟨fun h => ?_, fun h => by cases h⟩
    rw [bestFrame] at h
    split at h
    · cases h
    · split at h <;> cases h

/-- The frame offered at idle is in the queue and goes before every other, in a queue in entry order (R82). -/
theorem bestFrame_best (horder : (q.map (·.entry)).Pairwise (· < ·)) (h : bestFrame q = some f) :
    f ∈ q ∧ ∀ g ∈ q, GoesBefore f g := by
  induction q generalizing f with
  | nil => cases h
  | cons x q ih =>
    rw [List.map_cons, List.pairwise_cons] at horder
    obtain ⟨hfirst, hrest⟩ := horder
    have hafter : ∀ g ∈ q, x.entry ≤ g.entry := fun g hg => Nat.le_of_lt (hfirst _ (List.mem_map_of_mem hg))
    rw [bestFrame] at h
    split at h
    · next hnone =>
      cases h
      rw [bestFrame_nil_iff.1 hnone]
      exact ⟨List.mem_singleton.2 rfl, fun g hg => by rw [List.mem_singleton.1 hg]; exact .inr ⟨rfl, Nat.le_refl _⟩⟩
    · next y hy =>
      obtain ⟨hmem, hbest⟩ := ih hrest hy
      split at h
      · next hless =>
        cases h
        refine ⟨List.mem_cons_of_mem _ hmem, List.forall_mem_cons.2 ⟨.inl hless, hbest⟩⟩
      · next hnot =>
        cases h
        refine ⟨List.mem_cons_self, List.forall_mem_cons.2 ⟨.inr ⟨rfl, Nat.le_refl _⟩, fun g hg => ?_⟩⟩
        rcases hbest g hg with hg' | ⟨hg', -⟩
        · exact .inl (Nat.lt_of_le_of_lt (Nat.not_lt.1 hnot) hg')
        · rcases Nat.lt_or_eq_of_le (Nat.not_lt.1 hnot) with hlt | heq
          · exact .inl (hg' ▸ hlt)
          · exact .inr ⟨heq.trans hg', hafter g hg⟩

theorem bestFrame_eq (hl : LinkOk s.link) (hf : f ∈ s.link.queue) (hbest : ∀ g ∈ s.link.queue, GoesBefore f g) :
    bestFrame s.link.queue = some f := by
  cases h : bestFrame s.link.queue with
  | none =>
    rw [bestFrame_nil_iff.1 h] at hf
    cases hf
  | some x =>
    obtain ⟨hx, hxbest⟩ := bestFrame_best hl.order h
    have hentry : x.entry = f.entry := by
      have h1 := hbest x hx
      have h2 := hxbest f hf
      unfold GoesBefore at h1 h2
      omega
    rw [frame_unique hl hf hx hentry]

theorem exec_frameAttemptStart (s : State) : exec .frameAttemptStart s = .next
    (if (s.onLine || s.inFarewell) && s.link.wire.isNone then offerBest (s.link.queue.length + 1) s else s) := rfl

/-- At line idle the best frame is offered (R77). -/
theorem exec_frameAttemptStart_idle (honLine : s.onLine = true) (hwire : s.link.wire = none) :
    exec .frameAttemptStart s = .next (offerBest (s.link.queue.length + 1) s) := by
  rw [exec_frameAttemptStart, honLine, hwire]
  rfl

theorem offerBest_built {n : Nat} (hbest : bestFrame s.link.queue = some f) (hbody : f.body = .built b) :
    offerBest (n + 1) s = startAttempt f b 0 s := by
  simp only [offerBest, hbest, hbody]

theorem offerBest_presence {n : Nat} (hbest : bestFrame s.link.queue = some f) (hbody : f.body = .presenceMark) :
    offerBest (n + 1) s = startAttempt f (presenceBody s) 0 s := by
  simp only [offerBest, hbest, hbody]

theorem offerBest_note {n k : Nat} {es : List NoteEntry} (hbest : bestFrame s.link.queue = some f)
    (hbody : f.body = .noteMark) (hes : noteEntries s.ticketStore = (es, k)) (hne : es ≠ []) :
    offerBest (n + 1) s = startAttempt f (.ticketNote es) k s := by
  simp only [offerBest, hbest, hbody, hes]
  rw [if_neg (by simpa using hne)]

theorem startAttempt_claim {l : Line} {t : Trunk} {p : Purpose} {k : Channel} {n : Nat} (horigin : f.origin = some c) :
    startAttempt f (.claim l t p k) n s =
      ({ s with link := { s.link with wire := some ⟨f.entry, .claim l t p k, n⟩ } } : State).updClaim c fun k =>
        { k with stage := .onWire } := by
  unfold startAttempt
  rw [horigin]
  rfl

theorem startAttempt_other {n : Nat} (h : ∀ l t p k, b ≠ .claim l t p k) : startAttempt f b n s =
    { s with link := { s.link with wire := some ⟨f.entry, b, n⟩ } } := by
  unfold startAttempt
  dsimp only
  split
  · next hclaim _ => exact absurd rfl (h _ _ _ _)
  · rfl

/-- The holdings a PRESENCE lists are those of the channels whose claim is held (R85, R113). -/
theorem mem_ownHoldings (h : Holding) : h ∈ ownHolding s.chanA ++ ownHolding s.chanB ↔
    ∃ c, (s.chan c).claim.stage = .held ∧
      h = ⟨(s.chan c).session.line, (s.chan c).session.trunk, (s.chan c).session.purpose⟩ := by
  have hone : ∀ r : ChannelRecord, h ∈ ownHolding r ↔
      r.claim.stage = .held ∧ h = ⟨r.session.line, r.session.trunk, r.session.purpose⟩ := by
    intro r
    unfold ownHolding
    split
    · next hheld => simp [hheld]
    · next hheld => simp [hheld]
  rw [List.mem_append, hone, hone]
  exact ⟨fun hor => hor.elim (fun ha => ⟨.a, ha⟩) fun hb => ⟨.b, hb⟩, fun ⟨c, hc⟩ => by
    cases c with
    | a => exact .inl hc
    | b => exact .inr hc⟩

theorem mem_ownQuietBlocks (k : Block) : k ∈ ownQuietBlock s.chanA ++ ownQuietBlock s.chanB ↔
    ∃ c, quietStandsOn s c k = true := by
  have hone : ∀ r : ChannelRecord, k ∈ ownQuietBlock r ↔ (r.quiet.stands && r.quiet.block == some k) = true := by
    intro r
    unfold ownQuietBlock
    cases hstands : r.quiet.stands with
    | false => simp
    | true =>
      cases r.quiet.block with
      | none => simp
      | some j => simpa using eq_comm
  rw [List.mem_append, hone, hone]
  exact ⟨fun hor => hor.elim (fun ha => ⟨.a, ha⟩) fun hb => ⟨.b, hb⟩, fun ⟨c, hc⟩ => by
    cases c with
    | a => exact .inl hc
    | b => exact .inr hc⟩

end Starts

/-! ### Losses and voids -/

section Losses

variable {s : State} {w : Attempt} {f : QueuedFrame} {c : Channel} {how : AttemptEnd} {b : FrameBody}
  {g : QueuedFrame → QueuedFrame}

theorem afterLoss_eq (f : QueuedFrame) : afterLoss f = if 7 ≤ f.losses ∧ 2 ≤ f.first ∧ f.aged = false then
    { f with losses := 8, urgency := f.urgency - 1, aged := true } else { f with losses := min 8 (f.losses + 1) } := by
  have hcount : min 8 (f.losses + 1) = 8 ↔ 7 ≤ f.losses := by omega
  unfold afterLoss
  dsimp only
  by_cases h : 7 ≤ f.losses ∧ 2 ≤ f.first ∧ f.aged = false
  · obtain ⟨hlosses, hrest⟩ := h
    rw [if_pos ⟨hcount.2 hlosses, hrest⟩, if_pos ⟨hlosses, hrest⟩, hcount.2 hlosses]
  · rw [if_neg fun hall => h ⟨hcount.1 hall.1, hall.2⟩, if_neg h]

theorem first_afterLoss (f : QueuedFrame) : (afterLoss f).first = f.first := by
  rw [afterLoss_eq]
  split <;> rfl

theorem body_afterLoss (f : QueuedFrame) : (afterLoss f).body = f.body ∧ (afterLoss f).origin = f.origin := by
  rw [afterLoss_eq]
  split <;> exact ⟨rfl, rfl⟩

/-- The attempt is over, and its frame stays in its place, changed (R82). -/
def staysAs (f g : QueuedFrame) (s : State) : State := { s with link := { s.link with
  queue := s.link.queue.map (fun x => if x.entry = f.entry then g else x), wire := none } }

theorem updateFrame_clearWire (h : OnWire s w f) : updateFrame f g (clearWire s) = staysAs f (g f) s := by
  rw [updateFrame_eq (s := clearWire s) (linkOk_of_fields h.link rfl rfl rfl rfl) h.mem]
  rfl

theorem chan_staysAs {x : QueuedFrame} (d : Channel) : (staysAs f x s).chan d = s.chan d := by cases d <;> rfl

theorem attemptNotTaken_other (hbody : f.body = .built b) (hclaim : ∀ l t p c, b ≠ .claim l t p c)
    (hquiet : ∀ k, b ≠ .quiet k) : attemptNotTaken f s = s := by
  unfold attemptNotTaken
  rw [hbody]
  split
  · next h _ => exact absurd (QueuedBody.built.inj h) (hclaim _ _ _ _)
  · next h _ => exact absurd (QueuedBody.built.inj h) (hquiet _)
  · rfl

theorem attemptWithdrawn_other (hbody : f.body = .built b) (hclaim : ∀ l t p c, b ≠ .claim l t p c)
    (hquiet : ∀ k, b ≠ .quiet k) : attemptWithdrawn f s = false := by
  unfold attemptWithdrawn
  rw [hbody]
  split
  · next h _ => exact absurd (QueuedBody.built.inj h) (hclaim _ _ _ _)
  · next h _ => exact absurd (QueuedBody.built.inj h) (hquiet _)
  · rfl

theorem attemptNotTaken_claim {l : Line} {t : Trunk} {p : Purpose} {k : Channel}
    (hbody : f.body = .built (.claim l t p k)) (horigin : f.origin = some c) : attemptNotTaken f s = claimNotTaken c s := by
  unfold attemptNotTaken
  rw [hbody, horigin]

theorem attemptWithdrawn_claim {l : Line} {t : Trunk} {p : Purpose} {k : Channel}
    (hbody : f.body = .built (.claim l t p k)) (horigin : f.origin = some c) :
    attemptWithdrawn f s = claimLeaves (s.chan c) := by
  unfold attemptWithdrawn
  rw [hbody, horigin]

theorem objected_of (h : how = .arbitrationMismatch ∨ ∃ k, how = .slots k true) :
    noObjection how = false ∧ isUnheard how = false := by
  rcases h with rfl | ⟨k, rfl⟩
  · exact ⟨rfl, rfl⟩
  · cases k <;> exact ⟨rfl, rfl⟩

theorem claimNotTaken_requeues (hcancel : (s.chan c).session.cancelPending = false)
    (hwithdrawal : (s.chan c).claim.withdrawal = none) :
    claimNotTaken c s = s.updClaim c fun _ => ⟨.queued, none⟩ := by
  unfold claimNotTaken
  dsimp only
  rw [hcancel, hwithdrawal]
  rfl

theorem claimNotTaken_withdraws (hcancel : (s.chan c).session.cancelPending = false)
    (hwithdrawal : (s.chan c).claim.withdrawal = some .trunk) :
    claimNotTaken c s = withdrawClaim c none (s.updClaim c fun _ => ⟨.queued, none⟩) := by
  unfold claimNotTaken withdrawClaim
  dsimp only
  rw [hcancel, hwithdrawal, chan_updClaim]
  rfl

theorem claimNotTaken_cancelled (hcancel : (s.chan c).session.cancelPending = true) :
    claimNotTaken c s = endClaim c .cancelled none (s.updClaim c fun _ => ⟨.queued, none⟩) := by
  unfold claimNotTaken
  dsimp only
  rw [if_pos hcancel]

/-! A withdrawn CLAIM leaves its place, whatever its counts (R120, R121). -/

/-- A frame with other counts and the same place, urgency and body. -/
structure SameFrame (f x : QueuedFrame) : Prop where
  entry : x.entry = f.entry
  first : x.first = f.first
  recount : ∀ b n, { x with body := b, entry := n, voids := 0, losses := 0 } =
    ({ f with body := b, entry := n, voids := 0, losses := 0 } : QueuedFrame)
  body : x.body = f.body
  origin : x.origin = f.origin

theorem sameFrame_afterLoss (h : f.first ≤ 1) : SameFrame f (afterLoss f) := by
  have hyoung : ¬(7 ≤ f.losses ∧ 2 ≤ f.first ∧ f.aged = false) := fun hall => by omega
  have hloss : afterLoss f = { f with losses := min 8 (f.losses + 1) } := by rw [afterLoss_eq, if_neg hyoung]
  rw [hloss]
  exact ⟨rfl, rfl, fun _ _ => rfl, rfl, rfl⟩

theorem filter_staysAs {x : QueuedFrame} (hx : x.entry = f.entry) :
    (staysAs f x s).link.queue.filter (·.entry != f.entry) = s.link.queue.filter (·.entry != f.entry) := by
  have hmap : ∀ q : List QueuedFrame, (q.map fun y => if y.entry = f.entry then x else y).filter (·.entry != f.entry) =
      q.filter (·.entry != f.entry) := by
    intro q
    induction q with
    | nil => rfl
    | cons y q ih =>
      rw [List.map_cons]
      by_cases hy : y.entry = f.entry
      · rw [if_pos hy, List.filter_cons_of_neg (by simp [hx]), List.filter_cons_of_neg (by simp [hy]), ih]
      · rw [if_neg hy, List.filter_cons_of_pos (by simpa using hy), List.filter_cons_of_pos (by simpa using hy), ih]
  exact hmap _

theorem removeFrame_staysAs {x : QueuedFrame} (h : SameFrame f x) : removeFrame x (staysAs f x s) =
    removeFrame f (clearWire s) := by
  have hlow : x.low = f.low := by rw [QueuedFrame.low, QueuedFrame.low, h.first]
  unfold removeFrame
  rw [hlow, h.entry]
  cases f.low with
  | false =>
    simp only [Bool.false_eq_true, if_false, State.updLink]
    rw [filter_staysAs h.entry]
    rfl
  | true =>
    simp only [if_true, State.updLink]
    have hq : (lowFrameLeft (staysAs f x s)).link = (staysAs f x s).link := rfl
    rw [hq, filter_staysAs h.entry]
    rfl

theorem claimFrame_staysAs {x : QueuedFrame} (h : OnWire s w f) (hx : SameFrame f x) (hf : s.link.claimFrame c = some f) :
    (staysAs f x s).link.claimFrame c = some x := by
  have hone : (s.link.queue.map fun y => if y.entry = f.entry then x else y) =
      s.link.queue.map fun y => if y = f then x else y := by
    refine List.map_congr_left fun y hy => ?_
    by_cases hyf : y = f
    · rw [if_pos hyf, if_pos (congrArg _ hyf)]
    · rw [if_neg hyf, if_neg fun he => hyf (frame_unique h.link h.mem hy he)]
  have hmap : ∀ p : QueuedFrame → Bool, p x = p f → (s.link.queue.map fun y => if y = f then x else y).find? p =
      (s.link.queue.find? p).map fun y => if y = f then x else y := by
    intro p hp
    rw [List.find?_map]
    congr 2
    funext y
    rw [Function.comp_apply]
    split
    · next hy => rw [hp, hy]
    · rfl
  have hqueue : (staysAs f x s).link.queue = s.link.queue.map fun y => if y.entry = f.entry then x else y := rfl
  rw [Link.claimFrame, Link.channelFrame] at hf ⊢
  rw [hqueue, hone, hmap, hf, Option.map_some, if_pos rfl]
  rw [hx.body, hx.origin]

theorem chooseRoute_of_store {r : State} (hstore : s.store = r.store) (hroster : s.roster = r.roster)
    (hchan : ∀ d, s.chan d = r.chan d) (l : Line) : chooseRoute s l = chooseRoute r l := by
  have hfree : ∀ k t, trunkFree s k t = trunkFree r k t := by
    intro k t
    have ha : s.chanA = r.chanA := hchan .a
    have hb : s.chanB = r.chanB := hchan .b
    simp only [trunkFree, trunkHeldInView, ownHoldsTrunk, trunkEntry_of_store hstore, hroster, ha, hb]
  have hfind : ∀ k, trunkFree s k = trunkFree r k := fun k => funext (hfree k)
  unfold chooseRoute
  rw [hfind, hfind, State.blockEntry, State.blockEntry, hstore]

/-- A claim withdrawn for its trunk ends alike, whatever counts its frame has (R120 to R122). -/
theorem withdrawClaim_staysAs {x : QueuedFrame} {n : Option Station} (h : OnWire s w f) (hx : SameFrame f x)
    (hf : s.link.claimFrame c = some f) : withdrawClaim c n (staysAs f x s) = withdrawClaim c n (clearWire s) := by
  have hf' := claimFrame_staysAs h hx hf
  have hfw : (clearWire s).link.claimFrame c = some f := by rw [link_clearWire]; exact hf
  have hchan : (staysAs f x s).chan c = (clearWire s).chan c := by rw [chan_staysAs, chan_clearWire]
  by_cases hp : (s.chan c).session.purpose = .operator
  · have hp' : ((staysAs f x s).chan c).session.purpose = .operator := by rwa [chan_staysAs]
    have hpw : ((clearWire s).chan c).session.purpose = .operator := by rwa [chan_clearWire]
    have hroute : ∀ l, chooseRoute (staysAs f x s) l = chooseRoute (clearWire s) l :=
      chooseRoute_of_store rfl rfl fun d => by rw [chan_staysAs, chan_clearWire]
    rw [withdrawClaim_operator hp', withdrawClaim_operator hpw]
    by_cases hr : ∃ r, chooseRoute (clearWire s) ((clearWire s).chan c).session.line = .trunk r
    · obtain ⟨r, hr⟩ := hr
      have hr' : chooseRoute (staysAs f x s) ((staysAs f x s).chan c).session.line = .trunk r := by
        rw [hroute, hchan, hr]
      have hstate : ∀ (g : Session → Session) (L : Link), ({ (staysAs f x s).updSession c g with link := L } : State) =
          { (clearWire s).updSession c g with link := L } := by
        intro g L
        cases c <;> rfl
      rw [rerouteClaim_taken hr' hf', rerouteClaim_taken hr hfw, State.updLink, State.updLink, hstate, link_updSession,
        link_updSession, hx.recount, hx.entry, filter_staysAs hx.entry, hchan]
      rfl
    · have hnone : ∀ r, chooseRoute (clearWire s) ((clearWire s).chan c).session.line ≠ .trunk r :=
        fun r hall => hr ⟨r, hall⟩
      rw [rerouteClaim_ends hnone, rerouteClaim_ends (by rw [hchan]; exact fun r => by rw [hroute]; exact hnone r),
        endClaim_operator hp' hf', endClaim_operator hpw hfw, removeFrame_staysAs hx, hchan]
  · have hp' : ((staysAs f x s).chan c).session.purpose ≠ .operator := by rwa [chan_staysAs]
    have hpw : ((clearWire s).chan c).session.purpose ≠ .operator := by rwa [chan_clearWire]
    rw [withdrawClaim_automatic hp', withdrawClaim_automatic hpw, endClaim_automatic hp' hf',
      endClaim_automatic hpw hfw, removeFrame_staysAs hx, hchan]

end Losses

/-! ### What has been told stays told -/

section Told

variable {s : State} {c d : Channel} {p : Event → Prop}

/-- An event that satisfies a condition is in the queue. -/
def Told (p : Event → Prop) (s : State) : Prop := ∃ e ∈ s.port.events, p e

theorem told_emit (h : Told p s) (e : Event) : Told p (emit e s) := by
  obtain ⟨x, hx, hpx⟩ := h
  unfold emit
  split
  · exact ⟨x, List.mem_append_left _ hx, hpx⟩
  · exact ⟨x, hx, hpx⟩

theorem told_of_port {t : State} (h : Told p s) (hport : t.port = s.port) : Told p t := by
  rw [Told, hport]
  exact h

theorem told_complete (h : Told p s) (e : Event) : Told p (complete c e s) := by
  obtain ⟨x, hx, hpx⟩ := h
  rw [complete, Told, port_setCommand]
  split
  · exact ⟨x, hx, hpx⟩
  · exact ⟨x, List.mem_append_left _ hx, hpx⟩

/-- A condition on an event's kind, channel and outcome, which the end of a session written into it leaves. -/
def Tells (k : EventKind) (c : Channel) (o : EventOutcome) (e : Event) : Prop :=
  e.kind = k ∧ e.channel = some c ∧ e.outcome = some o

variable {k : EventKind} {o : EventOutcome}

theorem told_writeSessionEnd {x : SessionEndCause} (h : Told (Tells k c o) s) :
    Told (Tells k c o) (writeSessionEnd d x s) := by
  obtain ⟨e, he, hp⟩ := h
  refine ⟨_, List.mem_map_of_mem he, ?_⟩
  split
  · exact hp
  · exact hp

theorem told_itemEnds (h : Told p s) : Told p (itemEnds s) := by
  have hdrop : Told p (dropItem s) := told_of_port h (by simp [dropItem])
  unfold itemEnds
  split
  · exact h
  · next i _ =>
    split
    · exact hdrop
    · dsimp only
      split
      · exact hdrop
      · exact told_of_port (told_emit hdrop (stepDone i)) (by simp [haltEngine])
      · exact told_of_port hdrop (by simp [haltEngine])
      · exact hdrop
      · exact hdrop

theorem told_finishSession {x : ChannelOutcome} {m : Option Station} (h : Told (Tells k c o) s) :
    Told (Tells k c o) (finishSession d x m s) := by
  have hclear : Told (Tells k c o) (clearSession d s) := told_of_port h port_clearSession
  by_cases hp : (s.chan d).session.purpose = .operator
  · rw [finishSession_operator hp]
    rcases reportEnd_cases (c := d) (x := (s.chan d).session) (o := x) (n := m) (s := clearSession d s) with
      hr | ⟨j, hr⟩ | ⟨e, hr⟩ <;> rw [hr]
    · exact hclear
    · exact told_of_port (told_writeSessionEnd hclear) (port_setCommand _ _ _)
    · exact told_complete hclear e
  · rw [finishSession_automatic hp]
    exact told_itemEnds hclear

theorem told_loseSession (h : Told (Tells k c o) s) : Told (Tells k c o) (loseSession d s) := by
  have hdrop : Told (Tells k c o) (dropDrives d s) := told_of_port h (by simp [dropDrives, abandonOperate])
  unfold loseSession
  dsimp only
  split
  · exact hdrop
  · exact told_finishSession hdrop

theorem port_lineGone (st : LinkState) (x : Option LostCause) : (lineGone st x s).port = s.port := rfl

theorem told_loseLink {st : LinkState} {x : Option LostCause} (h : Told (Tells k c o) s) :
    Told (Tells k c o) (loseLink st x s) := by
  have hboth : Told (Tells k c o) (loseBoth s) := told_loseSession (told_loseSession h)
  rw [loseLink_eq]
  exact told_emit (told_of_port hboth (port_lineGone st x)) _

theorem told_clash (h : Told (Tells k c o) s) : Told (Tells k c o) (clash s) :=
  told_loseLink (told_emit (told_of_port h (port_updLink _ _)) _)

end Told

/-! ### Own frames taken and dropped -/

section Taken

variable {s : State} {w : Attempt} {f : QueuedFrame} {c : Channel} {b : Block}

/-- The engine as a frame leaves the queue: one of urgency 1 to 3 makes room (R166). -/
theorem removeFrame_eq : removeFrame f (clearWire s) = { s with
    link := { s.link with queue := s.link.queue.filter (·.entry ≠ f.entry), wire := none }
    auto := { s.auto with waitingForRoom := if f.first = 0 then s.auto.waitingForRoom else false } } := by
  unfold removeFrame QueuedFrame.low
  rw [← filter_bne_entry]
  by_cases h : f.first = 0
  · rw [h]
    rfl
  · rw [if_pos (by simpa using h), if_neg h]
    rfl

theorem updQuiet_congr {g h : QuietRecord → QuietRecord} (he : g (s.chan c).quiet = h (s.chan c).quiet) :
    s.updQuiet c g = s.updQuiet c h := by
  unfold State.updQuiet
  rw [he]

theorem updSession_congr {g h : Session → Session} (he : g (s.chan c).session = h (s.chan c).session) :
    s.updSession c g = s.updSession c h := by
  unfold State.updSession
  rw [he]

theorem ownFrameTaken_notice {t : Trunk} {o : Bool} {k : Option Channel} (hw : w.body = .trunkNotice t o) :
    ownFrameTaken w k s = s := by
  unfold ownFrameTaken
  rw [hw]

theorem ownFrameTaken_claim {l : Line} {t : Trunk} {p : Purpose} {k : Channel} (hw : w.body = .claim l t p k) :
    ownFrameTaken w (some c) s = ownClaimTaken c s := by
  unfold ownFrameTaken
  rw [hw]

theorem ownFrameTaken_release {l : Line} {t : Trunk} (hw : w.body = .release l t)
    (hstate : (s.chan c).session.state = .closing) : ownFrameTaken w (some c) s = finishFixed c .released s := by
  unfold ownFrameTaken
  rw [hw]
  exact if_pos hstate

theorem watchOwnClaim_off (h : s.watch.op = .off) : watchOwnClaim c s = s := by
  have hmonitor : monitorClaim true s.ownStation (s.chan c).session.line (s.chan c).session.trunk
      (s.chan c).session.purpose c s = s := if_neg (by simp [h])
  unfold watchOwnClaim
  dsimp only
  rw [hmonitor]
  unfold stopAtClaim stopWatches
  dsimp only
  exact if_neg (by simp [h])

theorem ownClaimTaken_claiming (hstate : (s.chan c).session.state = .claiming)
    (hcancel : (s.chan c).session.cancelPending = false) : ownClaimTaken c s =
      goRule c (watchOwnClaim c ((s.updClaim c fun _ => ⟨.held, none⟩).updSession c fun x => { x with state := .claimed })) := by
  refine (if_pos hstate).trans (if_neg ?_)
  rw [chan_updClaim, hcancel]
  exact Bool.false_ne_true

theorem quietTakes_settles (hwithdrawal : (s.chan c).quiet.withdrawal = none) (hstate : (s.chan c).session.state ≠ .idle) :
    quietTakes c b s = (s.updQuiet c fun q => { q with phase := .settling, takenAt := some s.now, settled := false }).updSession
      c fun x => { x with quietHeld := some b } := by
  have hquiet : s.updQuiet c (quietTakenRecord s.now) =
      s.updQuiet c fun q => { q with phase := .settling, takenAt := some s.now, settled := false } := by
    refine updQuiet_congr ?_
    simp [quietTakenRecord, hwithdrawal]
  rw [quietTakes, hquiet]
  refine updSession_congr ?_
  rw [chan_updQuiet]
  exact if_neg hstate

/-- A cancel pending on the claim on the wire completes its ACCESS before the line is lost (R117). -/
theorem told_pendingActs {l : Line} {t : Trunk} {p : Purpose} {k : Channel} (h : OnWire s w f)
    (hbody : f.body = .built (.claim l t p k)) (horigin : f.origin = some c)
    (hcancel : (s.chan c).session.cancelPending = true) (hp : (s.chan c).session.purpose = .operator)
    (hcmd : (s.chan c).command = some .access) (hdone : s.done c = false) :
    Told (Tells .accessDone c (.channel .cancelled)) (pendingActs s) := by
  have hacts : pendingActs s = claimNotTaken c (clearWire s) := by
    unfold pendingActs
    rw [h.wireFrame]
    dsimp only
    rw [attemptWithdrawn_claim hbody horigin, attemptNotTaken_claim hbody horigin]
    exact if_pos (by simp [claimLeaves, hcancel])
  have hends : ∀ v : State, (v.chan c).session.cancelPending = true → (v.chan c).session.purpose = .operator →
      (v.chan c).command = some .access → v.done c = false →
      Told (Tells .accessDone c (.channel .cancelled)) (finishSession c .cancelled none v) := by
    intro v _ hp hcmd hdone
    rw [finishSession_access hp hcmd, complete_of_free (by rw [done_of_port (port_clearSession), hdone])]
    rw [Told, port_setCommand]
    refine ⟨_, List.mem_append_right _ (List.mem_singleton_self _), ?_⟩
    exact ⟨rfl, rfl, rfl⟩
  have hauto : ¬(s.chan c).session.purpose.automatic = true := by
    rw [purpose_automatic_iff]
    exact not_not_intro hp
  rw [hacts, claimNotTaken_cancelled (by rw [chan_clearWire]; exact hcancel), endClaim]
  rw [chan_updClaim, chan_clearWire]
  dsimp only
  rw [if_neg hauto, if_pos hcancel]
  refine hends _ ?_ ?_ ?_ ?_
  · simpa using hcancel
  · simpa using hp
  · simpa using hcmd
  · rw [done_removeIfQueued, done_of_port (s := s) (by simp), hdone]

end Taken

/-- Settles O51: starts by `bestFrame_eq`, losses and voids by `updateFrame_clearWire`, taken frames by
`attemptEnds_taken`, a lost line by `loseLink_pendingActs` and `told_pendingActs`. -/
theorem ownAttemptsStartAndEnd : Obligations.OwnAttemptsStartAndEnd := by
  refine ⟨fun s h => ?_, fun s f honLine hwire hl hf hbest => ?_, fun s w f hw hl hf he => ?_, fun s hwire => ⟨?_, fun how => ?_⟩⟩
  · rw [exec_frameAttemptStart]
    rcases h with h | h | ⟨honLine, hfarewell⟩
    · rw [h, offerBest, h]
      exact congrArg _ (ite_self s)
    · rw [if_neg]
      rw [Option.isNone_iff_eq_none.not.2 (Option.isSome_iff_ne_none.1 h) |> Bool.eq_false_iff.2]
      simp
    · rw [if_neg (by simp [honLine, hfarewell])]
  · have hbestFrame := bestFrame_eq hl hf hbest
    refine ⟨fun b hbody hclaim => ?_, fun l t p k c hbody horigin => ?_, fun hbody => ?_, fun es k hbody hes hne => ?_⟩ <;>
      rw [exec_frameAttemptStart_idle honLine hwire]
    · rw [offerBest_built hbestFrame hbody, startAttempt_other hclaim]
    · rw [offerBest_built hbestFrame hbody, startAttempt_claim horigin]
    · rw [offerBest_presence hbestFrame hbody, presenceBody, startAttempt_other (by simp)]
      exact ⟨_, _, rfl, fun h => mem_ownHoldings h, fun b => mem_ownQuietBlocks b⟩
    · rw [offerBest_note hbestFrame hbody hes hne, startAttempt_other (by simp)]
  · have h : OnWire s w f := ⟨hw, hl, hf, he⟩
    intro lost on out roomed
    have hlost : updateFrame f afterLoss (clearWire s) = { s with link := on lost } := by
      rw [updateFrame_clearWire h, afterLoss_eq]
      rfl
    have hvoid : updateFrame f (fun x => { x with voids := x.voids + 1 }) (clearWire s) =
        { s with link := on { f with voids := f.voids + 1 } } := updateFrame_clearWire h
    have hleft : removeFrame f (clearWire s) = { s with link := out, auto := roomed } := removeFrame_eq
    have hgone := frameGone_removed (s := s) (f := f)
    rw [hleft] at hgone
    refine ⟨fun b hbody hclaim hquiet => ⟨?_, fun hfarewell hvoids how hhow => ?_⟩,
      fun l t p k c hbody horigin hcancel hnone => ⟨?_, fun hfarewell hvoids => ?_⟩,
      fun l t p k c hbody horigin hfirst hfarewell hframe hcancel hwithdrawal i hi => ?_,
      fun t o hbody hwbody hfarewell => ⟨?_, fun hvoids herr hroom => ?_⟩,
      fun l t p k c hbody hwbody horigin hfarewell hstate hcancel hstep hfrozen hoff hfree => ?_,
      fun b c hbody hwbody horigin hfarewell hblock hwithdrawal hstate hother => ?_,
      fun l t c hbody hwbody horigin hfarewell hstate => ?_, fun hfarewell hactive hroster => ?_,
      fun l t p k c hbody horigin honLine hactive hfarewell hroster hcancel hp hcmd hdone i hi => ?_⟩
    · rw [exec_arbitrationLoss hw, arbitrationLost_frame h, attemptNotTaken_other hbody hclaim hquiet, hlost]
    · obtain ⟨hobjected, hheard⟩ := objected_of hhow
      rw [exec_ownAttemptEnd, attemptEnds_void h hfarewell hobjected hheard,
        attemptVoid_counted (attemptWithdrawn_other hbody hclaim hquiet) hvoids,
        attemptNotTaken_other hbody hclaim hquiet, hvoid]
    · rw [exec_arbitrationLoss hw, arbitrationLost_frame h, attemptNotTaken_claim hbody horigin, hlost]
      rw [claimNotTaken_requeues]
      · cases c <;> exact hcancel
      · cases c <;> exact hnone
    · have hkept : attemptWithdrawn f (clearWire s) = false := by
        rw [attemptWithdrawn_claim hbody horigin, chan_clearWire, claimLeaves, hcancel, hnone]
        rfl
      rw [exec_ownAttemptEnd, attemptEnds_void h hfarewell rfl rfl, attemptVoid_counted hkept hvoids,
        attemptNotTaken_claim hbody horigin, hvoid, claimNotTaken_requeues]
      · cases c <;> exact hcancel
      · cases c <;> exact hnone
    · have hv : ({ s with link := { s.link with wire := none } } : State) = clearWire s := rfl
      rw [hv]
      have hw' : OnWire (s.updClaim c fun _ => ⟨.queued, none⟩) w f := ⟨by simpa using hw, by simpa using hl, by simpa using hf, he⟩
      have hcomm : (clearWire s).updClaim c (fun _ => ⟨.queued, none⟩) =
          clearWire (s.updClaim c fun _ => ⟨.queued, none⟩) := by cases c <;> rfl
      have hends := claimWithdrawn_withdrawClaim (c := c) (f := f) (n := none)
        (s := (clearWire s).updClaim c fun _ => ⟨.queued, none⟩) (by rw [link_updClaim, link_clearWire]; exact hframe)
      have hgoes : attemptWithdrawn f (clearWire s) = true := by
        rw [attemptWithdrawn_claim hbody horigin, chan_clearWire, claimLeaves, hcancel, hwithdrawal]
        rfl
      have hobjects : ∀ how, (how = .arbitrationMismatch ∨ ∃ k, how = .slots k true) →
          exec (.ownAttemptEnd how) s = .next (withdrawClaim c none ((clearWire s).updClaim c fun _ => ⟨.queued, none⟩)) := by
        intro how hhow
        obtain ⟨hobjected, hheard⟩ := objected_of hhow
        rw [exec_ownAttemptEnd, attemptEnds_void h hfarewell hobjected hheard, attemptVoid_withdrawn hgoes,
          attemptNotTaken_claim hbody horigin, claimNotTaken_withdraws]
        · rw [chan_clearWire, hcancel]
        · rw [chan_clearWire, hwithdrawal]
      simp only [List.mem_cons, List.not_mem_nil, or_false] at hi
      rcases hi with rfl | rfl | rfl | rfl
      · refine ⟨_, (exec_arbitrationLoss hw).trans (congrArg _ ?_), hends⟩
        have hstays : (staysAs f (afterLoss f) s).updClaim c (fun _ => ⟨.queued, none⟩) =
            staysAs f (afterLoss f) (s.updClaim c fun _ => ⟨.queued, none⟩) := by cases c <;> rfl
        rw [arbitrationLost_frame h, attemptNotTaken_claim hbody horigin, updateFrame_clearWire h,
          claimNotTaken_withdraws (by rw [chan_staysAs, hcancel]) (by rw [chan_staysAs, hwithdrawal]), hstays,
          withdrawClaim_staysAs hw' (sameFrame_afterLoss hfirst) (by simpa using hframe), hcomm]
      · exact ⟨_, hobjects _ (.inr ⟨true, rfl⟩), hends⟩
      · exact ⟨_, hobjects _ (.inr ⟨false, rfl⟩), hends⟩
      · exact ⟨_, hobjects _ (.inl rfl), hends⟩
    · rw [exec_ownAttemptEnd, attemptEnds_taken h hfarewell rfl rfl, ownFrameTaken_notice hwbody, hleft]
    · rw [exec_ownAttemptEnd, attemptEnds_void h hfarewell rfl rfl,
        attemptVoid_dropped (attemptWithdrawn_other hbody (by simp) (by simp)) hvoids, hbody, hleft,
        setLinkError_clear (s := { s with link := out, auto := roomed }) herr]
      exact congrArg _ ((congrArg _ (emit_of_room (s := ({ s with link := out, auto := roomed } : State).updLink _) hroom)).trans rfl)
    · have hclaimed := ownClaimTaken_claiming (s := { s with link := out, auto := roomed }) (c := c)
        (by rw [hgone.chan, hstate]) (by rw [hgone.chan, hcancel])
      rw [watchOwnClaim_off (by simpa using hoff), goRule_first _ (by simpa [hgone.chan] using hfrozen) (by simpa [hgone.chan] using hstep)]
        at hclaimed
      · refine ⟨ownClaimTaken c { s with link := out, auto := roomed }, (exec_ownAttemptEnd _ s).trans (congrArg _ ?_), ?_⟩
        · rw [attemptEnds_taken h hfarewell rfl rfl, horigin, ownFrameTaken_claim hwbody, hleft]
        · rw [hclaimed]
          simp [beginStep1]
      · rw [quietedBy_none_iff] at hfree ⊢
        simpa [hgone.chan] using hfree
    · rw [exec_ownAttemptEnd, attemptEnds_taken h hfarewell rfl rfl, horigin, ownFrameTaken_quiet hwbody, hleft,
        ownQuietTaken_eq (b := b) (by rw [hgone.chan, hblock]), if_neg (by rw [hgone.chan, hwithdrawal]; simp),
        quietTakes_settles (by rw [hgone.chan, hwithdrawal]) (by rw [hgone.chan]; exact hstate)]
      exact congrArg _ (if_pos (by simpa [hgone.chan] using hother))
    · refine ⟨finishFixed c .released { s with link := out, auto := roomed }, (exec_ownAttemptEnd _ s).trans (congrArg _ ?_), ?_, ?_, ?_⟩
      · rw [attemptEnds_taken h hfarewell rfl rfl, horigin, hleft, ownFrameTaken_release hwbody (by rw [hgone.chan, hstate])]
      · rw [finishFixed, link_finishSession]
      · rw [finishFixed, session_finishSession]
        rfl
      · rw [finishFixed, claim_finishSession]
        rfl
    · exact ⟨_, (exec_ownAttemptEnd _ s).trans (congrArg _ (attemptEnds_unheard h hfarewell rfl hactive hroster)),
        loseLink_pendingActs (some .unheard)⟩
    · have htold := told_pendingActs h hbody horigin hcancel hp hcmd hdone
      simp only [List.mem_cons, List.not_mem_nil, or_false] at hi
      rcases hi with rfl | rfl | rfl
      · exact ⟨_, (exec_ownAttemptEnd _ s).trans (congrArg _ (attemptEnds_unheard h hfarewell rfl hactive hroster)),
          (loseLink_pendingActs (some .unheard)).state, told_loseLink htold⟩
      · refine ⟨_, (exec_stuckLine s).trans (congrArg _ ?_), (loseLink_pendingActs (some .stuck)).state, told_loseLink htold⟩
        rw [if_neg (by simp [hfarewell]), if_pos honLine]
      · obtain ⟨hlink, hstore, htickets⟩ := pendingActs_frame (s := s)
        refine ⟨_, (exec_clashFound s).trans (congrArg _ ?_), (clash_loses (.inl hlink) hstore htickets).state, told_clash htold⟩
        rw [if_neg (by simp [hfarewell]), if_pos honLine]
  · have hexec : exec .arbitrationLoss s = .next (if s.link.wire.isSome then arbitrationLost s else s) := rfl
    rw [hexec, hwire]
    rfl
  · rw [exec_ownAttemptEnd, attemptEnds, hwire]

end Sys2Proof.Machine
end

section
/-! PROOFS. What the frames of other stations do to the roster and to no own session (R78, R79, R97, R98): settles O41. -/

namespace Sys2Proof.Machine

/-! ### Frames that are not taken -/

section NotTaken

variable {s : State} {n : Station} {b : FrameBody}

/-- A frame of another station that fits its kind, or none that fits, is answered before it is taken (R78, R79). -/
theorem frameTaken_other (h : frameFits n b = false ∨ s.store.station ≠ some n) : frameTaken n b s =
    if s.onLine && s.link.wire.isNone && frameFits n b then handOn n b (driveSlot (frameFits n b) s)
    else driveSlot (frameFits n b) s := by
  obtain ⟨hlink, hstore, -⟩ := driveSlot_frame (s := s) (frameFits n b)
  have hown : (frameFits n b && (driveSlot (frameFits n b) s).isOwn n) = false := by
    rw [State.isOwn, hstore, Bool.and_eq_false_iff, beq_eq_false_iff_ne]
    exact h
  unfold frameTaken
  dsimp only
  rw [hown, if_neg Bool.false_ne_true, (driveSlot_keeps (s := s) (frameFits n b)).2.1, hlink]

theorem frameTaken_notTaken (hnot : s.onLine = false ∨ frameFits n b = false ∨ s.link.wire.isSome = true)
    (h : frameFits n b = false ∨ s.store.station ≠ some n) :
    frameTaken n b s = driveSlot (frameFits n b) s := by
  rw [frameTaken_other h]
  refine if_neg ?_
  rcases hnot with hnot | hnot | hnot
  · simp [hnot]
  · simp [hnot]
  · obtain ⟨w, hw⟩ := Option.isSome_iff_exists.1 hnot
    simp [hw]

theorem driveSlot_eq (passed : Bool) : driveSlot passed s =
    if (s.link.state = .joining ∨ s.link.state = .active) ∧ s.link.wire = none then
      { s with link := { s.link with slot := some (if passed = true then .heard else .objection) } }
    else s := by
  have hdrives : (s.drivesSlots = true) = ((s.link.state = .joining ∨ s.link.state = .active) ∧ s.link.wire = none) := by
    simp [State.drivesSlots]
  rw [driveSlot]
  simp only [hdrives]
  rfl

theorem frameTaken_taken (honLine : s.onLine = true) (hwire : s.link.wire = none) (hfits : frameFits n b = true)
    (hother : s.store.station ≠ some n) : frameTaken n b s = handOn n b s.answered := by
  rw [frameTaken_other (.inr hother), hfits, driveSlot_onLine honLine hwire, honLine, hwire]
  rfl

end NotTaken

/-! ### Frames that contest no own session -/

section Uncontested

variable {s : State} {n : Station} {c : Channel} {ps : List Pair}

theorem contested_false (h : ∀ p ∈ ps, p.1 ≠ (s.chan c).session.line ∧ p.2 ≠ (s.chan c).session.trunk) :
    lineContested (s.chan c).session ps = false ∧ trunkContested (s.chan c).session ps = false := by
  rw [lineContested, trunkContested, List.any_eq_false, List.any_eq_false]
  exact ⟨fun p hp => by simpa using (h p hp).1, fun p hp => by simpa using (h p hp).2⟩

/-- A session that is in no active state meets no conflict (R125). -/
theorem conflict_inactive (h : (s.chan c).session.state.active = false) : conflict c s = s := by
  rw [conflict, h]
  rfl

theorem contestFirst_nothing (h : (s.chan c).claim.stage ≠ .queued ∧ (s.chan c).session.state.active = false ∨
    ∀ p ∈ ps, p.1 ≠ (s.chan c).session.line ∧ p.2 ≠ (s.chan c).session.trunk) : contestFirst n ps c s = s := by
  rw [contestFirst]
  rcases h with ⟨hstage, hactive⟩ | h
  · rw [if_neg hstage, conflict_inactive hactive, ite_self]
  · rw [(contested_false h).1, (contested_false h).2]
    simp

theorem contestSecond_nothing (h : (s.chan c).claim.stage ≠ .queued ∧ (s.chan c).session.state.active = false ∨
    ∀ p ∈ ps, p.1 ≠ (s.chan c).session.line ∧ p.2 ≠ (s.chan c).session.trunk) : contestSecond n ps c s = s := by
  rw [contestSecond]
  refine if_neg ?_
  rcases h with ⟨hstage, -⟩ | h
  · simp [hstage]
  · simp [(contested_false h).2]

/-- Pairs that contest no own session leave both as they are (R102, R119). -/
theorem contest_nothing (h : Uncontested s ps) : contest n ps s = s := by
  rw [contest, contestFirst_nothing (h .a), contestFirst_nothing (h .b), contestSecond_nothing (h .a),
    contestSecond_nothing (h .b)]

theorem uncontested_of_chan {t : State} (h : Uncontested s ps) (hchan : ∀ c, t.chan c = s.chan c) : Uncontested t ps := by
  intro c
  rw [hchan]
  exact h c

theorem releaseContests_nothing {l : Line} {t : Trunk} (h : (s.chan c).session.state.active = false ∨
    l ≠ (s.chan c).session.line ∧ t ≠ (s.chan c).session.trunk) : releaseContests (l, t) c s = s := by
  rw [releaseContests]
  refine if_neg ?_
  rcases h with h | h
  · simp [h]
  · simp [lineContested, trunkContested, h]

theorem contestSecond_nothing_of_stage (h : (s.chan c).claim.stage ≠ .queued) : contestSecond n ps c s = s := by
  rw [contestSecond]
  exact if_neg (by simp [h])

theorem monitorClaim_off {own : Bool} {l : Line} {t : Trunk} {p : Purpose} (h : s.watch.op ≠ .monitor) :
    monitorClaim own n l t p c s = s :=
  if_neg fun hwatch => h hwatch.1

end Uncontested

/-! ### The sender's entry -/

section Entry

variable {s : State} {n : Station} {c : Channel} {l : Line} {t : Trunk}

theorem updatePeer_heard (f : Peer → Peer) : updatePeer n f (s.heard n) =
    { s.answered with roster := rosterWith n (fun q => f { q with lastHeard := s.now }) s.roster } := by
  have hroster : rosterWith n f (rosterWith n (fun q => { q with lastHeard := s.now }) s.roster) =
      rosterWith n (fun q => f { q with lastHeard := s.now }) s.roster := by
    rw [rosterWith, rosterWith, rosterWith, List.map_map]
    refine List.map_congr_left fun q _ => ?_
    by_cases hq : q.station = n <;> simp [hq]
  exact congrArg (fun r => ({ s.answered with roster := r } : State)) hroster

/-- A CLAIM heard that contests no own session reaches the sender's holdings and the watch (R98, R188). -/
theorem exec_claimTaken {p : Purpose} (h : Heard s n (.claim l t p c)) (hnot : Uncontested s [(l, t)]) :
    exec (.claimTaken n l t p c) s = .next (monitorClaim false n l t p c { s.answered with
      roster := rosterWith n
        (fun q => { q with lastHeard := s.now, holdings := addHolding ⟨l, t, p⟩ q.holdings }) s.roster }) := by
  obtain ⟨q, -, hexec⟩ := exec_heard h rfl
  refine hexec.trans (congrArg _ ?_)
  rw [applyFrame, takeClaim]
  dsimp only
  rw [contest_nothing (uncontested_of_chan hnot fun d => by rw [chan_updatePeer, chan_heard]), updatePeer_heard]

theorem not_mem_of_unknown (h : s.peer n = none) : ∀ q ∈ s.roster, q.station ≠ n := by
  intro q hq hstation
  exact absurd (List.find?_eq_none.1 h q hq) (by simp [hstation])

theorem rosterWith_unlisted {f : Peer → Peer} {r : List Peer} (h : ∀ q ∈ r, q.station ≠ n) : rosterWith n f r = r := by
  rw [rosterWith]
  refine (List.map_congr_left fun q hq => ?_).trans (List.map_id r)
  exact if_neg (h q hq)

/-- A change of a station's entry right after it was inserted changes what was inserted (R97). -/
theorem rosterWith_insertPeer {f : Peer → Peer} {p : Peer} {r : List Peer} (hp : p.station = n)
    (hf : (f p).station = n) (h : ∀ q ∈ r, q.station ≠ n) : rosterWith n f (insertPeer p r) = insertPeer (f p) r := by
  induction r with
  | nil => simp [insertPeer, rosterWith, hp]
  | cons q rest ih =>
    have hrest : ∀ x ∈ rest, x.station ≠ n := fun x hx => h x (List.mem_cons_of_mem q hx)
    have hq : q.station ≠ n := h q List.mem_cons_self
    unfold insertPeer
    rw [hf, hp]
    split
    · rw [rosterWith, List.map_cons, if_pos hp]
      exact congrArg _ (rosterWith_unlisted h)
    · rw [rosterWith, List.map_cons, if_neg hq]
      exact congrArg _ (ih hrest)

/-- The first frame of a station is a CLAIM that contests no own session: its entry is inserted with the pair (R97,
R98). -/
theorem handOn_claim_new {p : Purpose} (hnew : s.peer n = none) (hnot : Uncontested s [(l, t)])
    (hwatch : s.watch.op ≠ .monitor) : handOn n (.claim l t p c) s =
      emit (peerJoined n false) { s with roster := insertPeer ⟨n, s.now, false, [⟨l, t, p⟩], []⟩ s.roster } := by
  have hroster : rosterWith n (fun q => { q with holdings := addHolding ⟨l, t, p⟩ q.holdings })
      (insertPeer ⟨n, s.now, false, [], []⟩ s.roster) = insertPeer ⟨n, s.now, false, [⟨l, t, p⟩], []⟩ s.roster :=
    rosterWith_insertPeer rfl rfl (not_mem_of_unknown hnew)
  obtain ⟨q, hq⟩ : ∃ q, (heardPeer n false s).peer n = some q := (heardPeer_view false).2.1.imp fun q hq => hq.1
  unfold handOn
  dsimp only [joiningFlag]
  rw [hq]
  dsimp only [applyFrame]
  rw [takeClaim, heardPeer_new hnew]
  rw [contest_nothing (uncontested_of_chan hnot fun d => by rw [chan_updatePeer, emit_chan]; cases d <;> rfl), monitorClaim_off (by simpa using hwatch), ← hroster]
  unfold emit updatePeer
  split <;> rfl

theorem holdings_removed : removeHolding l t = List.filter fun h : Holding => h.line ≠ l ∨ h.trunk ≠ t := by
  funext hs
  refine List.filter_congr fun h _ => ?_
  by_cases hl : h.line = l <;> by_cases ht : h.trunk = t <;> simp [hl, ht]

/-- A RELEASE heard that contests no own session leaves the sender's holdings (R98). -/
theorem exec_releaseFrameTaken (h : Heard s n (.release l t))
    (hnot : ∀ c, (s.chan c).session.state.active = false ∨
      l ≠ (s.chan c).session.line ∧ t ≠ (s.chan c).session.trunk) :
    exec (.releaseFrameTaken n l t) s = .next { s.answered with
      roster := rosterWith n (fun q => { q with
        lastHeard := s.now, holdings := q.holdings.filter fun h => h.line ≠ l ∨ h.trunk ≠ t }) s.roster } := by
  obtain ⟨q, -, hexec⟩ := exec_heard h rfl
  refine hexec.trans (congrArg _ ?_)
  rw [applyFrame, takeRelease]
  dsimp only
  rw [releaseContests_nothing (c := .a) (by rw [chan_updatePeer, chan_heard]; exact hnot .a),
    releaseContests_nothing (by rw [chan_updatePeer, chan_heard]; exact hnot .b), updatePeer_heard, holdings_removed]

/-- A pair other than the one that joins is another holding in the list (R98). -/
theorem addHolding_cases {h a b : Holding} (ha : a.line ≠ h.line ∨ a.trunk ≠ h.trunk)
    (hb : b.line ≠ h.line ∨ b.trunk ≠ h.trunk) :
    addHolding h [] = [h] ∧ addHolding h [a] = [a, h] ∧ addHolding h [a, b] = [b, h] ∧
    ∀ p, addHolding h [{ h with purpose := p }, a] = [h, a] ∧ addHolding h [a, { h with purpose := p }] = [a, h] := by
  have hne : ∀ x : Holding, (x.line ≠ h.line ∨ x.trunk ≠ h.trunk) → ¬(x.line = h.line ∧ x.trunk = h.trunk) := by
    rintro x hx ⟨hl, ht⟩
    exact hx.elim (fun hx => hx hl) fun hx => hx ht
  have hna := hne a ha
  have hnb := hne b hb
  refine ⟨rfl, by simp [addHolding, hna], by simp [addHolding, hna, hnb], fun p => ⟨by simp [addHolding, hna], ?_⟩⟩
  simp [addHolding, hna]

end Entry

/-- Settles O41: `frameTaken_notTaken` for the frames answered only, `handOn_view` for the sender's entry, and
`exec_claimTaken`, `handOn_claim_new`, `exec_releaseFrameTaken` for the kinds that name a pair. -/
theorem framesOfOthersReachTheRoster : Obligations.FramesOfOthersReachTheRoster := by
  refine ⟨fun s n b hnot hother => ?_, fun s n b honLine hwire hfits hother => ?_, fun s n l t p c h hnot hwatch => ?_,
    fun s n l t p c honLine hwire hfits hother hnew hnot hwatch hroom => ?_, fun s n l t h hnot =>
      exec_releaseFrameTaken h hnot, fun h a b ha hb => addHolding_cases ha hb⟩
  · rw [exec_frameRow, frameTaken_notTaken hnot hother, driveSlot_eq]
  · rw [exec_frameRow, frameTaken_taken honLine hwire hfits hother]
    exact ⟨_, rfl, (handOn_view (s := s.answered)).2⟩
  · exact (exec_claimTaken h hnot).trans (congrArg _ (monitorClaim_off hwatch))
  · refine (congrArg _ ((frameTaken_taken honLine hwire hfits hother).trans ?_)).trans rfl
    rw [handOn_claim_new (s := s.answered) hnew (uncontested_of_chan hnot chan_answered) hwatch]
    refine (emit_of_room ?_).trans rfl
    exact hroom

end Sys2Proof.Machine
end

section
/-! PROOFS. What the Line Watch captures and where it stops (R186 to R189, R191, R193): settles O57. -/

namespace Sys2Proof.Machine

/-! ### The setting and the filters -/

section Setting

variable {s : State} {l : Line} {f : FilterArg}

theorem takeWatchSet_noOp : takeWatchSet none l f s = (.badArgument 1, s) := rfl

theorem takeWatchSet_station {o : WatchOp} {n : Nat} (h : n < 1 ∨ 15 < n) :
    takeWatchSet (some o) l (.station n) s = (.badArgument 4, s) := by
  have hno : filterOf (.station n) = none := if_neg (by simp [stationOk]; omega)
  unfold takeWatchSet
  rw [hno]
  rfl

theorem takeWatchSet_set {o : WatchOp} {g : WatchFilter} (h : filterOf f = some g) :
    takeWatchSet (some o) l f s = (.accepted .nothing, { s with watch := ⟨o, l, g, none, 0⟩ }) := by
  unfold takeWatchSet
  rw [h]
  rfl

theorem filterOf_station {n : Nat} (h : 1 ≤ n ∧ n ≤ 15) : filterOf (.station n) = some (.station n) :=
  if_pos (by simpa [stationOk] using h)

/-- The filters that let a claim through by the claim's own or other station and its purpose (R187). -/
theorem filterAdmits_iff (own : Bool) (n m : Station) (p : Purpose) :
    filterAdmits .any own n p = true ∧ (filterAdmits .own own n p = true ↔ own = true) ∧
    (filterAdmits .ownOperator own n p = true ↔ own = true ∧ p = .operator) ∧
    (filterAdmits .ownAutomatic own n p = true ↔ own = true ∧ p ≠ .operator) ∧
    (filterAdmits (.station m) own n p = true ↔ own = false ∧ n = m) := by
  refine ⟨rfl, Iff.rfl, ?_, ?_, ?_⟩
  · rw [filterAdmits, Bool.and_eq_true, beq_iff_eq]
  · rw [filterAdmits, Bool.and_eq_true, purpose_automatic_iff]
  · rw [filterAdmits, Bool.and_eq_true, beq_iff_eq, Bool.not_eq_true']

end Setting

/-! ### Claims of other stations and own claims -/

section Watched

variable {s : State} {n : Station} {l : Line} {t : Trunk} {p : Purpose} {c : Channel} {own : Bool}

theorem monitorClaim_passes (h : s.watch.line ≠ l ∨ filterAdmits s.watch.filter own n p = false) :
    monitorClaim own n l t p c s = s := by
  refine if_neg fun hmatch => ?_
  obtain ⟨-, hline, hadmits⟩ := hmatch
  rcases h with h | h
  · exact h hline
  · rw [h] at hadmits
    cases hadmits

theorem monitorClaim_matches (hop : s.watch.op = .monitor) (hline : s.watch.line = l)
    (hadmits : filterAdmits s.watch.filter own n p = true) : monitorClaim own n l t p c s =
      emitWatchHit l n c p (captureMatch ⟨n, p, t, c, s.store.clock⟩ s) := if_pos ⟨hop, hline, hadmits⟩

theorem emitWatchHit_waiting (h : ∃ e ∈ s.port.events, e.kind = .watchHit) : emitWatchHit l n c p s = s :=
  if_pos (by simpa using h)

theorem emitWatchHit_first (h : ∀ e ∈ s.port.events, e.kind ≠ .watchHit) : emitWatchHit l n c p s =
    emit { kind := .watchHit, line := some l.val, station := some n, channel := some c, outcome := some (.purpose p) } s :=
  if_neg (by simpa using h)

/-- What STOP-ON-CLAIM does with an own automatic claim taken: it is captured and the engine freezes (R191). -/
def stoppedAtClaim (c : Channel) (s : State) : State :=
  freeze .watchClaim (s.chan c).session.line
    ((captureMatch ⟨s.ownStation, (s.chan c).session.purpose, (s.chan c).session.trunk, c, s.store.clock⟩ s).updSession c
      fun x => { x with frozenAtClaim := true })

theorem watchOwnClaim_stops (hop : s.watch.op = .stopOnClaim) (hline : s.watch.line = (s.chan c).session.line)
    (hpurpose : (s.chan c).session.purpose ≠ .operator)
    (hadmits : filterAdmits s.watch.filter true s.ownStation (s.chan c).session.purpose = true)
    (hrun : s.auto.run = .running ∨ s.auto.run = .stepping) (hcancel : (s.chan c).session.cancelPending = false) :
    watchOwnClaim c s = stoppedAtClaim c s := by
  have hwatches : stopWatches s .stopOnClaim (s.chan c).session.line (s.chan c).session.purpose = true := by
    rw [stopWatches, hop, hline, (purpose_automatic_iff _).2 hpurpose, hadmits]
    simp
  have hacts : (stopActs s.auto.run && !(s.chan c).session.cancelPending) = true := by
    rw [hcancel]
    rcases hrun with h | h <;> rw [h] <;> rfl
  unfold watchOwnClaim
  dsimp only
  rw [monitorClaim_off (by rw [hop]; decide), stopAtClaim]
  dsimp only
  rw [if_pos hwatches, if_pos hacts]
  rfl

@[simp] theorem chan_stoppedAtClaim : (stoppedAtClaim c s).chan c =
    { s.chan c with session := { (s.chan c).session with frozenAtClaim := true } } := by
  rw [stoppedAtClaim, chan_freeze, chan_updSession]
  cases c <;> rfl

theorem chan_stoppedAtClaim_other : (stoppedAtClaim c s).chan c.other = s.chan c.other := by
  rw [stoppedAtClaim, chan_freeze, chan_updSession_other]
  cases c <;> rfl

theorem roster_stoppedAtClaim : (stoppedAtClaim c s).roster = s.roster := by
  rw [stoppedAtClaim, roster_freeze, roster_updSession]
  rfl

/-- The claim that STOP-ON-CLAIM stops, as the stop finds it: taken and held, its session CLAIMED (R118). -/
def claimHeld (c : Channel) (s : State) : State :=
  (s.updClaim c fun _ => ⟨.held, none⟩).updSession c fun x => { x with state := .claimed }

@[simp] theorem chan_claimHeld : (claimHeld c s).chan c =
    { s.chan c with session := { (s.chan c).session with state := .claimed }, claim := ⟨.held, none⟩ } := by
  cases c <;> rfl

theorem chan_claimHeld_other : (claimHeld c s).chan c.other = s.chan c.other := by
  cases c <;> rfl

/-- The own automatic claim that STOP-ON-CLAIM stops stays CLAIMED (R24, R191). -/
theorem ownClaimTaken_stops (hstate : (s.chan c).session.state = .claiming)
    (hcancel : (s.chan c).session.cancelPending = false) (hpurpose : (s.chan c).session.purpose ≠ .operator)
    (hop : s.watch.op = .stopOnClaim) (hline : s.watch.line = (s.chan c).session.line)
    (hadmits : filterAdmits s.watch.filter true s.ownStation (s.chan c).session.purpose = true)
    (hrun : s.auto.run = .running ∨ s.auto.run = .stepping)
    (hfree : quietedBy s c (s.chan c).session.block = none) : ownClaimTaken c s =
      (stoppedAtClaim c (claimHeld c s)).updSession c fun x => { x with state := .claimed, deferredBy := none } := by
  have hwatch : watchOwnClaim c (claimHeld c s) = stoppedAtClaim c (claimHeld c s) := by
    have hheld : (claimHeld c s).watch = s.watch ∧ (claimHeld c s).auto = s.auto ∧ (claimHeld c s).store = s.store := by
      cases c <;> exact ⟨rfl, rfl, rfl⟩
    obtain ⟨hw, ha, hs⟩ := hheld
    refine watchOwnClaim_stops (by rw [hw, hop]) ?_ ?_ ?_ (by rw [ha]; exact hrun) ?_ <;> rw [chan_claimHeld]
    · rw [hw]
      exact hline
    · exact hpurpose
    · rw [hw, State.ownStation, hs]
      exact hadmits
    · exact hcancel
  rw [ownClaimTaken_claiming hstate hcancel, ← claimHeld, hwatch]
  refine goRule_frozen ?_ (by rw [chan_stoppedAtClaim])
  rw [quietedBy_none_iff] at hfree ⊢
  rw [roster_stoppedAtClaim, chan_stoppedAtClaim_other, chan_claimHeld_other, chan_stoppedAtClaim, chan_claimHeld]
  have hroster : (claimHeld c s).roster = s.roster := by simp [claimHeld]
  rw [hroster]
  exact hfree

theorem auto_stoppedAtClaim : (stoppedAtClaim c s).auto =
    { s.auto with run := .frozen, returnState := some s.auto.run, freezeCause := some .watchClaim } := by
  rw [stoppedAtClaim, freeze, emit_auto]
  cases c <;> rfl

theorem watch_stoppedAtClaim : (stoppedAtClaim c s).watch = { s.watch with
    capture := some ⟨s.ownStation, (s.chan c).session.purpose, (s.chan c).session.trunk, c, s.store.clock⟩
    hits := min 255 (s.watch.hits + 1) } := by
  rw [stoppedAtClaim, watch_freeze, watch_updSession]
  rfl

theorem port_stoppedAtClaim (h : generalCount s.port.events < 30) : (stoppedAtClaim c s).port = portWith
    { kind := .frozen, line := some (s.chan c).session.line.val, outcome := some (.freeze .watchClaim) } s := by
  have hport : ∀ v : State, v.port = s.port → v.store = s.store →
      (freeze .watchClaim (s.chan c).session.line v).port = portWith
        { kind := .frozen, line := some (s.chan c).session.line.val, outcome := some (.freeze .watchClaim) } s := by
    intro v hp hs
    rw [freeze, emit_of_room (by rw [port_updAuto, hp]; exact h), enterEvent, portWith, ← hp, ← hs]
    rfl
  exact hport _ (by simp [captureMatch]) (by simp [captureMatch])

end Watched

section Stopped

variable {s u : State} {c : Channel}

/-- The outcome `u` of a stop at the own claim of channel `c` taken in `s` (R191). -/
structure StopsAtClaim (s : State) (c : Channel) (u : State) : Prop where
  session : (u.chan c).session.state = .claimed ∧ (u.chan c).session.frozenAtClaim = true
  drives : (u.chan c).seq.drives = (s.chan c).seq.drives
  claim : (u.chan c).claim.stage = .held
  frozen : u.auto.run = .frozen ∧ u.auto.returnState = some s.auto.run ∧ u.auto.freezeCause = some .watchClaim
  capture : u.watch.capture =
    some ⟨s.ownStation, (s.chan c).session.purpose, (s.chan c).session.trunk, c, s.store.clock⟩
  hits : u.watch.hits = min 255 (s.watch.hits + 1)
  port : u.port = portWith
    { kind := .frozen, line := some (s.chan c).session.line.val, outcome := some (.freeze .watchClaim) } s

theorem stopsAtClaim_claimHeld (h : generalCount s.port.events < 30) : StopsAtClaim s c
    ((stoppedAtClaim c (claimHeld c s)).updSession c fun x => { x with state := .claimed, deferredBy := none }) := by
  have hheld : (claimHeld c s).watch = s.watch ∧ (claimHeld c s).auto = s.auto ∧ (claimHeld c s).store = s.store ∧
      (claimHeld c s).port = s.port := by
    cases c <;> exact ⟨rfl, rfl, rfl, rfl⟩
  obtain ⟨hwatch, hauto, hstore, hport⟩ := hheld
  refine ⟨by simp, by simp, by simp, ?_, ?_, ?_, ?_⟩
  · rw [auto_updSession, auto_stoppedAtClaim, hauto]
    exact ⟨rfl, rfl, rfl⟩
  · rw [watch_updSession, watch_stoppedAtClaim, chan_claimHeld, State.ownStation, hstore]
    rfl
  · rw [watch_updSession, watch_stoppedAtClaim, hwatch]
  · rw [port_updSession, port_stoppedAtClaim (by rw [hport]; exact h), chan_claimHeld, portWith, hport, hstore]
    rfl

end Stopped

/-- Settles O57: the setting by `takeWatchSet_set`, another station's claim by `exec_claimTaken` and
`monitorClaim_matches`, an own one by `ownClaimTaken_claiming` and `watchOwnClaim_stops`. -/
theorem theWatchCapturesAndStops : Obligations.TheWatchCapturesAndStops := by
  refine ⟨fun s l hphase => ⟨fun f => ?_, fun o => ?_, fun o n hn => ?_, fun o f g hfg => ?_⟩, filterAdmits_iff,
    fun s n l t p c h hnot hop => ?_,
    fun s f w l t p k c hw hl hf he hwbody horigin hfarewell hstate hcancel hpurpose hop hline hadmits hrun hfree
      hroom => ?_⟩
  · exact answers_of_take (take := takeWatchSet none l f) hphase rfl rfl
  · exact answers_of_take (take := takeWatchSet (some o) l .other) hphase rfl rfl
  · exact answers_of_take (take := takeWatchSet (some o) l (.station n)) hphase rfl (takeWatchSet_station hn)
  · have hfilter : filterOf f = some g := by
      rcases hfg with hfg | ⟨n, hlow, hhigh, rfl, rfl⟩
      · simp only [List.mem_cons, Prod.mk.injEq, List.not_mem_nil, or_false] at hfg
        rcases hfg with ⟨rfl, rfl⟩ | ⟨rfl, rfl⟩ | ⟨rfl, rfl⟩ | ⟨rfl, rfl⟩ <;> rfl
      · exact filterOf_station ⟨hlow, hhigh⟩
    exact answers_of_take (take := takeWatchSet (some o) l f) hphase rfl (takeWatchSet_set hfilter)
  · refine ⟨fun hpasses => ?_, fun hline hadmits => ⟨fun hwaits => ?_, fun hfirst hroom => ?_⟩⟩
    · exact (exec_claimTaken h hnot).trans (congrArg _ (monitorClaim_passes hpasses))
    · refine (exec_claimTaken h hnot).trans (congrArg _ ((monitorClaim_matches ?_ ?_ ?_).trans
        ((emitWatchHit_waiting ?_).trans rfl)))
      exacts [hop, hline, hadmits, hwaits]
    · refine (exec_claimTaken h hnot).trans (congrArg _ ((monitorClaim_matches ?_ ?_ ?_).trans
        ((emitWatchHit_first ?_).trans ((emit_of_room ?_).trans rfl))))
      exacts [hop, hline, hadmits, hfirst, hroom]
  · have honWire : OnWire s w f := ⟨hw, hl, hf, he⟩
    have hgone := frameGone_removed (s := s) (f := f)
    have hport : (removeFrame f (clearWire s)).port = s.port := by rw [removeFrame_eq]
    have hengine : (removeFrame f (clearWire s)).auto.run = s.auto.run := by rw [removeFrame_eq]
    refine ⟨_, (exec_ownAttemptEnd _ s).trans (congrArg _ (attemptEnds_taken honWire hfarewell rfl rfl)), ?_⟩
    rw [horigin, ownFrameTaken_claim hwbody]
    generalize removeFrame f (clearWire s) = v at hgone hport hengine ⊢
    have hstation : v.ownStation = s.ownStation := by rw [State.ownStation, State.ownStation, hgone.store]
    rw [quietedBy_none_iff, ← hgone.chan, ← hgone.chan, ← hgone.roster] at hfree
    rw [ownClaimTaken_stops (by rw [hgone.chan, hstate]) (by rw [hgone.chan, hcancel])
      (by rw [hgone.chan]; exact hpurpose) (by rw [hgone.watch, hop]) (by rw [hgone.watch, hgone.chan, hline])
      (by rw [hgone.watch, hgone.chan, hstation, hadmits]) (by rw [hengine]; exact hrun)
      ((quietedBy_none_iff _).2 hfree)]
    obtain ⟨hsession, hdrives, hclaim, hfrozen, hcapture, hhits, hevent⟩ :=
      stopsAtClaim_claimHeld (s := v) (c := c) (by rw [hport]; exact hroom)
    rw [hgone.chan] at hdrives hcapture hevent
    rw [hstation, hgone.store] at hcapture
    rw [hgone.watch] at hhits
    rw [hengine] at hfrozen
    rw [portWith, hport, hgone.store] at hevent
    exact ⟨hsession.1, hsession.2, hdrives, hclaim, hfrozen.1, hfrozen.2.1, hfrozen.2.2, hcapture, hhits, hevent⟩

end Sys2Proof.Machine
end

section
/-! PROOFS. What the drop of a silent station leaves of its quiets, its waits and its handovers (R100, R106, R107): settles
O45. -/

namespace Sys2Proof.Machine

/-! ### The sessions that quiets deferred -/

section Ended

variable {s : State} {c : Channel} {b : Block} {n : Station}

/-- The end of a quiet leaves every session as it is where none is DEFERRED (R100). -/
theorem quietEnded_calm (h : ∀ d, (s.chan d).session.state ≠ .deferred) : quietEnded n b s = s := by
  rw [quietEnded, undeferBoth, undefer_none (.inl (h .a)), undefer_none (.inl (h .b))]

theorem chan_quietEnded_done (h : (s.chan c).session.state ≠ .deferred) : (quietEnded n b s).chan c = s.chan c := by
  have hstep : ∀ (d : Channel) (v : State), (v.chan c).session.state ≠ .deferred →
      (undefer d (.station n) b v).chan c = v.chan c := by
    intro d v hv
    rcases channel_eq_or_other d c with rfl | rfl
    · rw [undefer_none (.inl hv)]
    · exact chan_other_undefer
  rw [quietEnded, undeferBoth, hstep .b _ (by rwa [hstep .a _ h]), hstep .a _ h]

/-- The session that the ended quiet deferred, with no other quiet on its block and no relay reached yet, goes on with
step 1 (R25, R26). -/
theorem quietEnded_steps (hstate : (s.chan c).session.state = .deferred)
    (hby : (s.chan c).session.deferredBy = some (.station n)) (hblock : (s.chan c).session.block = b)
    (hfree : quietedBy s c b = none) (hstep : (s.chan c).session.relayStep = none)
    (hfrozen : (s.chan c).session.frozenAtClaim = false) : ((quietEnded n b s).chan c).session =
      { (s.chan c).session with state := .connecting, relayStep := some 1, deferredBy := none } := by
  cases c with
  | a =>
    have hother : (undefer .b (.station n) b (undefer .a (.station n) b s)).chan .a =
        (undefer .a (.station n) b s).chan .a := chan_other_undefer (c := .b)
    rw [quietEnded, undeferBoth, hother]
    exact undefer_steps hstate hby hblock hfree hstep hfrozen
  | b =>
    have hother : (undefer .a (.station n) b s).chan .b = s.chan .b := chan_other_undefer (c := .a)
    have hfree' : quietedBy (undefer .a (.station n) b s) .b b = none := by
      rw [quietedBy_none_iff] at hfree ⊢
      simpa using hfree
    rw [quietEnded, undeferBoth, undefer_steps (by rw [hother, hstate]) (by rw [hother, hby]) (by rw [hother, hblock])
      hfree' (by rw [hother, hstep]) (by rw [hother, hfrozen]), hother]

theorem foldl_quietEnded_calm (h : ∀ d, (s.chan d).session.state ≠ .deferred) (bs : List Block) :
    bs.foldl (fun r b => quietEnded n b r) s = s := by
  induction bs with
  | nil => rfl
  | cons a rest ih => rw [List.foldl_cons, quietEnded_calm h, ih]

theorem foldl_quietEnded_done (bs : List Block) (s : State) (h : (s.chan c).session.state ≠ .deferred) :
    (bs.foldl (fun r b => quietEnded n b r) s).chan c = s.chan c := by
  induction bs generalizing s with
  | nil => rfl
  | cons a rest ih => rw [List.foldl_cons, ih _ (by rwa [chan_quietEnded_done h]), chan_quietEnded_done h]

theorem foldl_quietEnded_outside (bs : List Block) (s : State) : (bs.foldl (fun r b => quietEnded n b r) s).port = s.port ∧
    (bs.foldl (fun r b => quietEnded n b r) s).ticketStore = s.ticketStore := by
  induction bs generalizing s with
  | nil => exact ⟨rfl, rfl⟩
  | cons a rest ih =>
    obtain ⟨hport, htickets⟩ := ih (quietEnded n a s)
    rw [List.foldl_cons, hport, htickets]
    exact ⟨port_quietEnded, ticketStore_quietEnded⟩

/-- Of the quiets that end, the one that deferred a session lets it go on (R25, R100). -/
theorem foldl_quietEnded_steps {bs : List Block} (hb : b ∈ bs) (s : State) (hstate : (s.chan c).session.state = .deferred)
    (hby : (s.chan c).session.deferredBy = some (.station n)) (hblock : (s.chan c).session.block = b)
    (hfree : quietedBy s c b = none) (hstep : (s.chan c).session.relayStep = none)
    (hfrozen : (s.chan c).session.frozenAtClaim = false) :
    ((bs.foldl (fun r b => quietEnded n b r) s).chan c).session =
      { (s.chan c).session with state := .connecting, relayStep := some 1, deferredBy := none } := by
  induction bs generalizing s with
  | nil => cases hb
  | cons a rest ih =>
    rw [List.foldl_cons]
    by_cases ha : a = b
    · have hgoes := quietEnded_steps hstate hby hblock hfree hstep hfrozen
      rw [ha, foldl_quietEnded_done rest _ (by rw [hgoes]; simp), hgoes]
    · have hrest : b ∈ rest := (List.mem_cons.1 hb).resolve_left fun h => ha h.symm
      have hchan : (quietEnded n a s).chan c = s.chan c :=
        chan_quietEnded_elsewhere (by rw [hblock]; exact fun h => ha h.symm)
      have hfree' : quietedBy (quietEnded n a s) c b = none := by
        rw [quietedBy_none_iff] at hfree ⊢
        simpa using hfree
      rw [ih hrest _ (by rw [hchan, hstate]) (by rw [hchan, hby]) (by rw [hchan, hblock]) hfree'
        (by rw [hchan, hstep]) (by rw [hchan, hfrozen]), hchan]

end Ended

/-! ### The handovers to the station that goes -/

section Handovers

variable {s : State} {n : Station} {t : Ticket} {h : Handover} {e : Event}

theorem generalCount_le_emit : generalCount s.port.events ≤ generalCount (emit e s).port.events := by
  unfold emit enterEvent
  split
  · rw [generalCount_append]
    exact Nat.le_add_right _ _
  · exact Nat.le_refl _

/-- One ticket at the drop of a station (R107). -/
def failIfTo (n : Station) (r : State) (t : Ticket) : State :=
  match t.inHandover with
  | none => r
  | some h => if h.target = n then failHandover t h .peerGone r else r

theorem failHandoversTo_eq : failHandoversTo n s = s.ticketStore.tickets.foldl (failIfTo n) s := rfl

theorem inHandover_of (hstate : t.state = .handover) (hh : t.handover = some h) : t.inHandover = some h := by
  rw [Ticket.inHandover, if_pos hstate, hh]

theorem failIfTo_none (hstate : t.state ≠ .handover) : failIfTo n s t = s := by
  have hnone : t.inHandover = none := if_neg hstate
  unfold failIfTo
  rw [hnone]

theorem failIfTo_target (hstate : t.state = .handover) (hh : t.handover = some h) (htarget : h.target = n) :
    failIfTo n s t = failHandover t h .peerGone s := by
  unfold failIfTo
  rw [inHandover_of hstate hh]
  exact if_pos htarget

/-- A ticket at the drop stays as it is, or its handover fails. -/
theorem failIfTo_cases (n : Station) (s : State) (t : Ticket) : failIfTo n s t = s ∨
    ∃ h, failIfTo n s t = failHandover t h .peerGone s := by
  unfold failIfTo
  split
  · exact .inl rfl
  · next h _ =>
    split
    · exact .inr ⟨h, rfl⟩
    · exact .inl rfl

theorem failHandover_frame : (failHandover t h .peerGone s).link = s.link ∧
    (failHandover t h .peerGone s).ticketStore = updateTicket t.number (handoverReturned false) s.ticketStore ∧
    generalCount s.port.events ≤ generalCount (failHandover t h .peerGone s).port.events := by
  refine ⟨by simp [failHandover], by simp [failHandover], ?_⟩
  rw [failHandover]
  exact Nat.le_trans (by simp) generalCount_le_emit

/-- What the drop leaves, and that it takes no event back. -/
theorem foldl_failIfTo_frame (l : List Ticket) (s : State) : Beside s (l.foldl (failIfTo n) s) ∧
    (l.foldl (failIfTo n) s).link = s.link ∧
    (l.foldl (failIfTo n) s).ticketStore.index = s.ticketStore.index ∧
    generalCount s.port.events ≤ generalCount (l.foldl (failIfTo n) s).port.events := by
  induction l generalizing s with
  | nil => exact ⟨Beside.refl s, rfl, rfl, Nat.le_refl _⟩
  | cons t rest ih =>
    rw [List.foldl_cons]
    obtain ⟨hbeside, hlink, hindex, hcount⟩ := ih (failIfTo n s t)
    rcases failIfTo_cases n s t with hsame | ⟨h, hfails⟩
    · rw [hsame] at hbeside hlink hindex hcount ⊢
      exact ⟨hbeside, hlink, hindex, hcount⟩
    · obtain ⟨hflink, htickets, hfcount⟩ := failHandover_frame (s := s) (t := t) (h := h)
      rw [hfails] at hbeside hlink hindex hcount ⊢
      refine ⟨(beside_failHandover.2 (Beside.refl s)).trans hbeside, hlink.trans hflink, ?_, Nat.le_trans hfcount hcount⟩
      rw [hindex, htickets]
      rfl

theorem foldl_failIfTo_none (l : List Ticket) (s : State) (h : ∀ t ∈ l, t.state ≠ .handover) :
    l.foldl (failIfTo n) s = s := by
  induction l with
  | nil => rfl
  | cons t rest ih =>
    rw [List.foldl_cons, failIfTo_none (h t List.mem_cons_self)]
    exact ih fun x hx => h x (List.mem_cons_of_mem t hx)

/-- The HANDOVER-FAILED of a ticket whose target has gone (R107). -/
def TellsGone (t : Ticket) (n : Station) (e : Event) : Prop :=
  e.kind = .handoverFailed ∧ e.ticket = some t.number ∧ e.line = some t.line.val ∧ e.station = some n ∧
    e.outcome = some (.handover .peerGone)

theorem told_foldl_failIfTo {p : Event → Prop} (l : List Ticket) (s : State) (h : Told p s) :
    Told p (l.foldl (failIfTo n) s) := by
  induction l generalizing s with
  | nil => exact h
  | cons t rest ih =>
    rw [List.foldl_cons]
    rcases failIfTo_cases n s t with hsame | ⟨x, hfails⟩
    · rw [hsame]
      exact ih s h
    · rw [hfails]
      refine ih _ (told_emit ?_ _)
      exact told_of_port h rfl

/-- Each handover to the station that goes is told, where no event was dropped (R107, R204). -/
theorem foldl_failIfTo_tells {l : List Ticket} (ht : t ∈ l) (hstate : t.state = .handover) (hh : t.handover = some h)
    (htarget : h.target = n) (s : State) (hroom : generalCount (l.foldl (failIfTo n) s).port.events < 30) :
    Told (TellsGone t n) (l.foldl (failIfTo n) s) := by
  induction l generalizing s with
  | nil => cases ht
  | cons x rest ih =>
    rw [List.foldl_cons] at hroom ⊢
    rcases List.mem_cons.1 ht with rfl | hrest
    · refine told_foldl_failIfTo rest _ ?_
      have hcount := Nat.lt_of_le_of_lt (foldl_failIfTo_frame (n := n) rest (failIfTo n s t)).2.2.2 hroom
      rw [failIfTo_target hstate hh htarget, failHandover] at hcount ⊢
      rw [emit_entered hcount]
      refine ⟨_, List.mem_append_right _ (List.mem_singleton_self _), ?_⟩
      exact ⟨rfl, rfl, rfl, congrArg some htarget, rfl⟩
    · exact ih hrest _ hroom

theorem mem_updateTicket_other {m : TicketNo} {f : Ticket → Ticket} {ts : TicketStore} (ht : t ∈ ts.tickets)
    (hm : t.number ≠ m) : t ∈ (updateTicket m f ts).tickets :=
  List.mem_map.2 ⟨t, ht, if_neg hm⟩

theorem mem_updateTicket_self {f : Ticket → Ticket} {ts : TicketStore} (ht : t ∈ ts.tickets) :
    f t ∈ (updateTicket t.number f ts).tickets :=
  List.mem_map.2 ⟨t, ht, if_pos rfl⟩

theorem mem_failIfTo {x : Ticket} (ht : t ∈ s.ticketStore.tickets) (hne : t.number ≠ x.number) :
    t ∈ (failIfTo n s x).ticketStore.tickets := by
  rcases failIfTo_cases n s x with hsame | ⟨h, hfails⟩
  · rwa [hsame]
  · rw [hfails, failHandover_frame.2.1]
    exact mem_updateTicket_other ht hne

theorem mem_foldl_failIfTo {l : List Ticket} (s : State) (ht : t ∈ s.ticketStore.tickets)
    (hne : ∀ x ∈ l, t.number ≠ x.number) : t ∈ (l.foldl (failIfTo n) s).ticketStore.tickets := by
  induction l generalizing s with
  | nil => exact ht
  | cons x rest ih =>
    rw [List.foldl_cons]
    exact ih _ (mem_failIfTo ht (hne x List.mem_cons_self)) fun y hy => hne y (List.mem_cons_of_mem x hy)

/-- A ticket whose handover was to the station that goes returns (R107, R163). -/
theorem foldl_failIfTo_returns {l : List Ticket} (hnumbers : (l.map (·.number)).Nodup) (hl : t ∈ l)
    (hstate : t.state = .handover) (hh : t.handover = some h) (htarget : h.target = n) (s : State)
    (ht : t ∈ s.ticketStore.tickets) :
    handoverReturned false t ∈ (l.foldl (failIfTo n) s).ticketStore.tickets := by
  induction l generalizing s with
  | nil => cases hl
  | cons x rest ih =>
    rw [List.map_cons, List.nodup_cons] at hnumbers
    obtain ⟨hfresh, hrest⟩ := hnumbers
    have hkeeps : ∀ y ∈ rest, x.number ≠ y.number := fun y hy heq => hfresh (heq ▸ List.mem_map_of_mem hy)
    rw [List.foldl_cons]
    rcases List.mem_cons.1 hl with rfl | hmem
    · have hnumber : (handoverReturned false t).number = t.number := by
        unfold handoverReturned
        split <;> rfl
      refine mem_foldl_failIfTo _ ?_ fun y hy => by rw [hnumber]; exact hkeeps y hy
      rw [failIfTo_target hstate hh htarget, failHandover_frame.2.1]
      exact mem_updateTicket_self ht
    · exact ih hrest hmem _ (mem_failIfTo ht fun heq => hkeeps t hmem heq.symm)

end Handovers

/-! ### The drop -/

section Drop

variable {s : State} {n : Station} {p : Peer} {c : Channel} {b : Block} {t : Ticket} {h : Handover}

theorem quiet_leaveWait_self {h : Holder} : ((leaveWait c h s).chan c).quiet.waitList =
      (s.chan c).quiet.waitList.filter (· != h) ∧
    ((s.chan c).quiet.settled = false → ((leaveWait c h s).chan c).quiet = waitsWithout h (s.chan c).quiet) := by
  by_cases hlast : LastToLeave h (s.chan c)
  · rw [leaveWait_last hlast]
    refine ⟨by simp [startRunning, waitsWithout], fun hsettled => ?_⟩
    rw [hlast.2.1] at hsettled
    cases hsettled
  · rw [leaveWait_other hlast]
    exact ⟨by simp [waitsWithout], fun _ => by simp⟩

theorem quiet_leaveWaits : ((leaveWaits n s).chan c).quiet.waitList =
      (s.chan c).quiet.waitList.filter (· != .station n) ∧
    ((s.chan c).quiet.settled = false →
      ((leaveWaits n s).chan c).quiet = waitsWithout (.station n) (s.chan c).quiet) := by
  cases c with
  | a =>
    have hother : (leaveWaits n s).chan .a = (leaveWait .a (.station n) s).chan .a :=
      chan_leaveWait_other (c := .a)
    rw [hother]
    exact quiet_leaveWait_self
  | b =>
    have hother : (leaveWait .a (.station n) s).chan .b = s.chan .b := chan_leaveWait_other (c := .b)
    have hself := quiet_leaveWait_self (s := leaveWait .a (.station n) s) (c := .b) (h := .station n)
    rw [hother] at hself
    exact hself

/-- The state as the entry of a silent station, its waits and its index entries have gone (R107). -/
def entryGone (n : Station) (s : State) : State :=
  (leaveWaits n { s with roster := s.roster.filter (·.station != n) }).updTickets fun ts =>
    { ts with index := ts.index.filter (·.owner != n) }

/-- The state as its handovers have failed and its drop is told, with its quiets still to end (R107). -/
def dropTold (n : Station) (s : State) : State :=
  emit { kind := .peerDropped, station := some n } (failHandoversTo n (entryGone n s))

theorem dropPeer_eq : dropPeer p s =
    (p.quiets.map (·.block)).foldl (fun r b => quietEnded p.station b r) (dropTold p.station s) := by
  rw [List.foldl_map]
  rfl

theorem chan_gone (r : List Peer) (d : Channel) : ({ s with roster := r } : State).chan d = s.chan d := by
  cases d <;> rfl

theorem entryGone_frame : (entryGone n s).roster = s.roster.filter (·.station ≠ n) ∧ (entryGone n s).link = s.link ∧
    (entryGone n s).port = s.port ∧ (entryGone n s).store = s.store ∧
    (entryGone n s).ticketStore = { s.ticketStore with index := s.ticketStore.index.filter (·.owner ≠ n) } ∧
    ∀ d, ((entryGone n s).chan d).session = (s.chan d).session := by
  have hroster : s.roster.filter (·.station != n) = s.roster.filter (·.station ≠ n) := by simp [bne, beq_eq_decide]
  have hindex : s.ticketStore.index.filter (·.owner != n) = s.ticketStore.index.filter (·.owner ≠ n) := by
    simp [bne, beq_eq_decide]
  rw [entryGone, ← hroster, ← hindex]
  refine ⟨by simp [leaveWaits], by simp [leaveWaits], by simp [leaveWaits], by simp [leaveWaits], by simp [leaveWaits],
    fun d => ?_⟩
  simp [leaveWaits, chan_gone]

theorem quiet_entryGone : ((entryGone n s).chan c).quiet.waitList = (s.chan c).quiet.waitList.filter (· ≠ .station n) ∧
    ((s.chan c).quiet.settled = false → ((entryGone n s).chan c).quiet =
      { (s.chan c).quiet with waitList := (s.chan c).quiet.waitList.filter (· ≠ .station n) }) := by
  obtain ⟨hlist, hwhole⟩ := quiet_leaveWaits (s := { s with roster := s.roster.filter (·.station != n) }) (n := n) (c := c)
  rw [chan_gone] at hlist hwhole
  have hfilter : (s.chan c).quiet.waitList.filter (· != Holder.station n) =
      (s.chan c).quiet.waitList.filter (· ≠ .station n) := by simp [bne, beq_eq_decide]
  rw [entryGone, chan_updTickets, hlist, chan_gone, hfilter]
  exact ⟨rfl, fun hsettled => by rw [hwhole hsettled, waitsWithout_eq]⟩

/-- A record that stands still stands after a holder has left it (R128, R136). -/
theorem quietStandsOn_leaveWait {d : Channel} {h : Holder} : quietStandsOn (leaveWait d h s) c b = quietStandsOn s c b := by
  rcases channel_eq_or_other d c with rfl | rfl
  · by_cases hlast : LastToLeave h (s.chan c)
    · rw [leaveWait_last hlast]
      simp [quietStandsOn, QuietRecord.stands, startRunning, waitsWithout, hlast.1]
    · rw [leaveWait_other hlast]
      simp [quietStandsOn, QuietRecord.stands, waitsWithout]
  · rw [quietStandsOn, leaveWait_frame.2.2.2.2, quietStandsOn]

theorem quietStandsOn_entryGone : quietStandsOn (entryGone n s) c b = quietStandsOn s c b := by
  have hupd : ∀ (f : TicketStore → TicketStore) (v : State), quietStandsOn (v.updTickets f) c b = quietStandsOn v c b := by
    intro f v
    rw [quietStandsOn, quietStandsOn, chan_updTickets]
  rw [entryGone, hupd, leaveWaits, quietStandsOn_leaveWait, quietStandsOn_leaveWait, quietStandsOn, chan_gone, quietStandsOn]

theorem dropTold_frame : Beside (entryGone n s) (dropTold n s) ∧ (dropTold n s).link = s.link ∧
    (dropTold n s).ticketStore.index = s.ticketStore.index.filter (·.owner ≠ n) := by
  obtain ⟨hbeside, hlink, hindex, -⟩ :=
    foldl_failIfTo_frame (n := n) (entryGone n s).ticketStore.tickets (entryGone n s)
  obtain ⟨-, hglink, -, -, htickets, -⟩ := entryGone_frame (s := s) (n := n)
  rw [← failHandoversTo_eq] at hbeside hlink hindex
  refine ⟨by rw [dropTold, beside_emit]; exact hbeside, ?_, ?_⟩
  · rw [dropTold, emit_link, hlink, hglink]
  · rw [dropTold, emit_ticketStore, hindex, htickets]

theorem exec_peerSilent_unknown (hp : s.peer n = none) : exec (.peerSilent n) s = .next s := by
  have hexec : exec (.peerSilent n) s = execPeerSilent n s := rfl
  rw [hexec, execPeerSilent, hp]

theorem exec_peerSilent_known (hp : s.peer n = some p) : exec (.peerSilent n) s = .next
    (if s.onLine && decide (p.lastHeard + 3500 ≤ s.now) then dropPeer p s else s) := by
  have hexec : exec (.peerSilent n) s = execPeerSilent n s := rfl
  rw [hexec, execPeerSilent, hp]
  rfl

theorem dropTold_dropped (hroom : generalCount (dropTold n s).port.events < 30) :
    ∃ e ∈ (dropTold n s).port.events, e.kind = .peerDropped ∧ e.station = some n := by
  rw [dropTold] at hroom ⊢
  rw [emit_entered hroom]
  refine ⟨_, List.mem_append_right _ (List.mem_singleton_self _), ?_⟩
  exact ⟨rfl, rfl⟩

theorem dropTold_tells (hroom : generalCount (dropTold n s).port.events < 30) (ht : t ∈ s.ticketStore.tickets)
    (hstate : t.state = .handover) (hh : t.handover = some h) (htarget : h.target = n) :
    ∃ e ∈ (dropTold n s).port.events, TellsGone t n e := by
  have hlist : (entryGone n s).ticketStore.tickets = s.ticketStore.tickets := by
    rw [entryGone_frame.2.2.2.2.1]
  have hbefore := Nat.lt_of_le_of_lt generalCount_le_emit hroom
  rw [failHandoversTo_eq] at hbefore
  exact told_emit (foldl_failIfTo_tells (hlist.symm ▸ ht) hstate hh htarget _ hbefore) _

theorem dropTold_returns (hok : TicketsOk s.ticketStore) (ht : t ∈ s.ticketStore.tickets) (hstate : t.state = .handover)
    (hh : t.handover = some h) (htarget : h.target = n) :
    { t with state := if h.priorRetest then .retest else .opened, handover := none } ∈
      (dropTold n s).ticketStore.tickets := by
  have hlist : (entryGone n s).ticketStore.tickets = s.ticketStore.tickets := by
    rw [entryGone_frame.2.2.2.2.1]
  have hreturned : handoverReturned false t =
      { t with state := if h.priorRetest then .retest else .opened, handover := none } := by
    rw [handoverReturned, hh]
    rfl
  rw [dropTold, emit_ticketStore, failHandoversTo_eq, hlist, ← hreturned]
  exact foldl_failIfTo_returns hok.numbers ht hstate hh htarget _ (hlist.symm ▸ ht)

/-- With no handover in progress, the drop is told and nothing else (R107). -/
theorem dropTold_alone (hnone : ∀ t ∈ s.ticketStore.tickets, t.state ≠ .handover) : dropTold n s =
    emit { kind := .peerDropped, station := some n } (entryGone n s) := by
  have hlist : (entryGone n s).ticketStore.tickets = s.ticketStore.tickets := by
    rw [entryGone_frame.2.2.2.2.1]
  rw [dropTold, failHandoversTo_eq, hlist, foldl_failIfTo_none _ _ hnone]

theorem quietedBy_dropTold (hlists : ∀ o ∈ s.roster, o.station ≠ n → ∀ q ∈ o.quiets, q.block ≠ b)
    (hstands : quietStandsOn s c.other b = false) : quietedBy (dropTold n s) c b = none := by
  have hbeside := (dropTold_frame (s := s) (n := n)).1
  have hholder : quietHolder (dropTold n s) b = none := by
    rw [quietHolder_none_iff, hbeside.roster, entryGone_frame.1]
    intro o ho
    obtain ⟨hmem, hne⟩ := List.mem_filter.1 ho
    exact hlists o hmem (by simpa using hne)
  have hown : quietStandsOn (dropTold n s) c.other b = false := by
    rw [quietStandsOn, hbeside.chan, ← quietStandsOn, quietStandsOn_entryGone, hstands]
  unfold quietedBy
  rw [hholder, hown]
  rfl

end Drop

/-- Settles O45: `dropTold` for the entry, the waits and the handovers, `foldl_quietEnded_steps` for the session that the
station deferred. -/
theorem silentPeersAreDropped : Obligations.SilentPeersAreDropped := by
  refine ⟨fun s n h => ?_, fun s n p honLine hp hsilent => ?_⟩
  · cases hp : s.peer n with
    | none => exact exec_peerSilent_unknown hp
    | some p =>
      rw [exec_peerSilent_known hp, if_neg]
      rcases h with h | h | ⟨q, hq, hheard⟩
      · rw [hp] at h
        cases h
      · simp [h]
      · rw [hp] at hq
        cases hq
        simp [Nat.not_le.2 hheard]
  · have hexec : exec (.peerSilent n) s = .next (dropPeer p s) := by
      rw [exec_peerSilent_known hp, if_pos (by simpa [honLine] using hsilent)]
    refine ⟨_, hexec.trans (congrArg _ dropPeer_eq), ?_⟩
    rw [(peer_mem hp).2]
    obtain ⟨hbeside, hlink, hindex⟩ := dropTold_frame (s := s) (n := n)
    obtain ⟨hgroster, -, hgport, hgstore, hgtickets, hgsession⟩ := entryGone_frame (s := s) (n := n)
    obtain ⟨hfquiet, hflink, hfroster⟩ := foldl_quietEnded_frame (n := n) (p.quiets.map (·.block)) (dropTold n s)
    obtain ⟨hfport, hftickets⟩ := foldl_quietEnded_outside (n := n) (s := dropTold n s) (p.quiets.map (·.block))
    have hsession : ∀ d, ((dropTold n s).chan d).session = (s.chan d).session := fun d => by
      rw [hbeside.chan, hgsession]
    refine ⟨by rw [hfroster, hbeside.roster, hgroster], by rw [hftickets, hindex], by rw [hflink, hlink], fun c => ?_,
      fun hroom => ?_, fun hok t ht h hstate hh htarget => ?_,
      fun c b hstate hby hblock hlists hothers hstands hstep hfrozen => ?_, fun hnone hcalm => ?_⟩
    · rw [hfquiet, hbeside.chan]
      exact quiet_entryGone
    · rw [hfport] at hroom ⊢
      exact ⟨dropTold_dropped hroom, fun t ht h => dropTold_tells hroom ht⟩
    · rw [hftickets]
      exact dropTold_returns hok ht hstate hh htarget
    · obtain ⟨q, hq, hqb⟩ := hlists
      rw [foldl_quietEnded_steps (List.mem_map.2 ⟨q, hq, hqb⟩) _ (by rw [hsession, hstate]) (by rw [hsession, hby])
        (by rw [hsession, hblock]) (quietedBy_dropTold hothers hstands) (by rw [hsession, hstep])
        (by rw [hsession, hfrozen])]
      exact ⟨rfl, rfl⟩
    · rw [foldl_quietEnded_calm (fun d => by rw [hsession]; exact hcalm d)]
      refine ⟨?_, hsession, fun hroom => ?_⟩
      · rw [dropTold_alone hnone, emit_ticketStore, hgtickets]
      · rw [dropTold_alone hnone, port_emit_of_room (by rw [hgport]; exact hroom), portWith, hgport, hgstore]
        rfl

end Sys2Proof.Machine
end

section
/-! PROOFS. What a QUIET, a QUIET-END and a lapse do to the view and to the own sessions (R99, R100, R132, R133): settles
O44. -/

namespace Sys2Proof.Machine

/-! ### Changes of one entry -/

section Entry

variable {s : State} {n : Station} {p : Peer} {f g : Peer → Peer} {r : List Peer}

theorem rosterWith_congr (h : ∀ q ∈ r, q.station = n → f q = g q) : rosterWith n f r = rosterWith n g r := by
  rw [rosterWith, rosterWith]
  refine List.map_congr_left fun q hq => ?_
  by_cases hn : q.station = n
  · rw [if_pos hn, if_pos hn, h q hq hn]
  · rw [if_neg hn, if_neg hn]

theorem rosterWith_rosterWith (hg : ∀ q, (g q).station = q.station) :
    rosterWith n f (rosterWith n g r) = rosterWith n (fun q => f (g q)) r := by
  rw [rosterWith, rosterWith, rosterWith, List.map_map]
  refine List.map_congr_left fun q _ => ?_
  by_cases hq : q.station = n <;> simp [hg, hq]

/-- The roster lists a station once at most (R96). -/
def SoleEntry (s : State) (n : Station) : Prop := ∀ q ∈ s.roster, q.station = n → s.peer n = some q

theorem soleEntry_of_ok (h : RosterOk s.roster) (n : Station) : SoleEntry s n := by
  intro q hq hn
  have hexists : (s.peer n).isSome = true := by
    rw [State.peer, List.find?_isSome]
    exact ⟨q, hq, by simpa using hn⟩
  obtain ⟨p, hp⟩ := Option.isSome_iff_exists.1 hexists
  obtain ⟨hmem, hstation⟩ := peer_mem hp
  have hnodup : (s.roster.map (·.station)).Nodup := h.order.imp fun hlt => Nat.ne_of_lt hlt
  rw [hp, List.inj_on_of_nodup_map hnodup hmem hq (hstation.trans hn.symm)]

end Entry

/-! ### The block that joins an entry -/

section Joins

variable {s : State} {n : Station} {b old : Block} {p : Peer} {c : Channel} {f g : Peer → Peer}

theorem updatePeer_congr (hp : s.peer n = some p) (hsole : SoleEntry s n) (h : f p = g p) :
    updatePeer n f s = updatePeer n g s := by
  refine congrArg (fun r => ({ s with roster := r } : State)) (rosterWith_congr fun q hq hn => ?_)
  obtain rfl : p = q := Option.some.inj (hp.symm.trans (hsole q hq hn))
  exact h

theorem updatePeer_updatePeer (hg : ∀ q, (g q).station = q.station) :
    updatePeer n f (updatePeer n g s) = updatePeer n (fun q => f (g q)) s :=
  congrArg (fun r => ({ s with roster := r } : State)) (rosterWith_rosterWith hg)

/-- A station's quiet blocks with a new one behind the newest of them (R99). -/
def withQuiet (b : Block) (lapse : Nat) (l : List QuietBlock) : List QuietBlock :=
  (if l.length < 2 then l else l.drop 1) ++ [⟨b, lapse⟩]

theorem addQuiet_removeQuiet : addQuiet n b (removeQuiet n old s) = updatePeer n
    (fun q => { q with quiets := q.quiets.filter (·.block != old) ++ [⟨b, s.now + 10500⟩] }) s :=
  updatePeer_updatePeer fun _ => rfl

theorem displacedQuiet_none (hp : s.peer n = some p) (h : p.quiets.length < 2) : displacedQuiet s n = none := by
  rw [displacedQuiet, hp, Option.map_some]
  rcases hq : p.quiets with _ | ⟨q, _ | ⟨q', rest⟩⟩
  · rfl
  · rfl
  · rw [hq] at h
    simp at h

/-- The entry of the sender of a QUIET recorded, where no session is DEFERRED (R97, R99). -/
theorem addQuiet_makesRoom (hp : s.peer n = some p) (hsole : SoleEntry s n) (hok : PeerOk p)
    (hcalm : ∀ c, (s.chan c).session.state ≠ .deferred) : addQuiet n b (makesRoom n s) =
      updatePeer n (fun q => { q with quiets := withQuiet b (s.now + 10500) q.quiets }) s := by
  by_cases hlength : p.quiets.length < 2
  · rw [makesRoom, displacedQuiet_none hp hlength]
    refine updatePeer_congr hp hsole ?_
    rw [withQuiet, if_pos hlength]
    rfl
  · obtain ⟨q, q', hq⟩ : ∃ q q', p.quiets = [q, q'] :=
      List.length_eq_two.1 (Nat.le_antisymm hok.quiets (Nat.le_of_not_lt hlength))
    have hne : q'.block ≠ q.block := by
      have hblocks := hok.blocks
      rw [hq] at hblocks
      simp only [List.map_cons, List.map_nil, List.nodup_cons, List.mem_singleton] at hblocks
      exact fun h => hblocks.1 h.symm
    have hroom : makesRoom n s = removeQuiet n q.block s := by
      have hdisplaced : displacedQuiet s n = some q.block := by
        rw [displacedQuiet, hp, Option.map_some, hq]
      unfold makesRoom
      rw [hdisplaced]
      exact quietEnded_calm fun d => by rw [removeQuiet, chan_updatePeer]; exact hcalm d
    rw [hroom, addQuiet_removeQuiet]
    refine updatePeer_congr hp hsole ?_
    rw [withQuiet, if_neg hlength, hq]
    simp [hne]

end Joins

/-! ### What the own sessions answer -/

section Answers

variable {s : State} {n : Station} {b : Block} {c d : Channel}

theorem answerQuiet_elsewhere (h : (s.chan c).session.block ≠ b) : answerQuiet c b n s = s := if_pos h

/-- A session on a newly quieted block that answers nothing: it is in no state that answers, or before step 3 (R133). -/
theorem answerQuiet_silent (h : (s.chan c).session.block ≠ b ∨
    (s.chan c).session.state ∉ [SessionState.claimed, .connecting, .releasing] ∨
    (s.chan c).session.state = .connecting ∧ (s.chan c).session.relayStep.getD 0 < 3) : answerQuiet c b n s = s := by
  unfold answerQuiet
  dsimp only
  rcases h with h | h | ⟨hstate, hstep⟩
  · exact if_pos h
  · simp only [List.mem_cons, List.not_mem_nil, or_false, not_or] at h
    obtain ⟨hclaimed, hconnecting, hreleasing⟩ := h
    split
    · rfl
    · split <;> simp_all
  · rw [hstate]
    split
    · rfl
    · exact if_neg (Nat.not_le.2 hstep)

theorem answerQuiet_claimed (hblock : (s.chan c).session.block = b) (hstate : (s.chan c).session.state = .claimed) :
    answerQuiet c b n s = s.updSession c fun x => { x with state := .deferred, deferredBy := some (.station n) } := by
  unfold answerQuiet
  dsimp only
  rw [if_neg (not_not_intro hblock), hstate]
  rfl

/-- A session that has reached the test relay answers QUIET-BUSY (R133). -/
theorem answerQuiet_busy (hblock : (s.chan c).session.block = b)
    (hstate : (s.chan c).session.state = .releasing ∨
      (s.chan c).session.state = .connecting ∧ 3 ≤ (s.chan c).session.relayStep.getD 0) :
    answerQuiet c b n s = queueBusy c b n s := by
  unfold answerQuiet
  dsimp only
  rw [if_neg (not_not_intro hblock)]
  rcases hstate with hstate | ⟨hstate, hstep⟩
  · rw [hstate]
  · rw [hstate]
    exact if_pos hstep

theorem queueBusy_of_room (h : UrgentRoom s) : queueBusy c b n s =
    (s.updClears c (· ++ [⟨b, n, false, false⟩])).updLink (linkWith (.quietBusy b n) (some c)) := by
  obtain ⟨hwaiting, hslots⟩ := h
  rw [queueBusy, offerUrgent_of_room (by rwa [link_updClears]) (by rwa [link_updClears])]
  rfl

theorem chan_answerQuiet_other : (answerQuiet c b n s).chan c.other = s.chan c.other := by
  unfold answerQuiet
  dsimp only
  split
  · rfl
  · split
    · rw [deferClaimed, chan_updSession_other]
    · split
      · simp [queueBusy]
      · rfl
    · simp [queueBusy]
    · rfl

/-- The one session that is on the newly quieted block answers alone (R133). -/
theorem answerQuiet_one (h : (s.chan c.other).session.block ≠ b) :
    answerQuiet .b b n (answerQuiet .a b n s) = answerQuiet c b n s := by
  cases c with
  | a =>
    refine answerQuiet_elsewhere ?_
    rw [show Channel.b = Channel.other .a from rfl, chan_answerQuiet_other]
    exact h
  | b => rw [answerQuiet_elsewhere (c := .a) h]

end Answers

/-! ### A quiet that ends -/

section Ends

variable {s : State} {n : Station} {b : Block} {c : Channel} {p : Peer}

theorem listsQuiet_false_iff (hp : s.peer n = some p) : listsQuiet s n b = false ↔ ∀ q ∈ p.quiets, q.block ≠ b := by
  simp [listsQuiet, hp]

theorem removeQuiet_eq : removeQuiet n b s = updatePeer n (fun q => { q with quiets := q.quiets.filter (·.block ≠ b) }) s := by
  have hfilter : ∀ l : List QuietBlock, l.filter (·.block != b) = l.filter (·.block ≠ b) := by
    intro l
    simp [bne, beq_eq_decide]
  simp only [removeQuiet, hfilter]

theorem updatePeer_unlisted {f : Peer → Peer} (h : s.peer n = none) : updatePeer n f s = s :=
  congrArg (fun r => ({ s with roster := r } : State)) (rosterWith_unlisted (not_mem_of_unknown h))

/-- A QUIET-END or a lapse, where no session is DEFERRED: a listed block leaves, and one not listed is in no entry of the
station (R99, R100). -/
theorem takeQuietEnd_calm (hsole : SoleEntry s n) (hcalm : ∀ c, (s.chan c).session.state ≠ .deferred) :
    takeQuietEnd n b s = updatePeer n (fun q => { q with quiets := q.quiets.filter (·.block ≠ b) }) s := by
  rw [← removeQuiet_eq, takeQuietEnd]
  split
  · exact quietEnded_calm fun d => by rw [removeQuiet, chan_updatePeer]; exact hcalm d
  · next hnot =>
    cases hp : s.peer n with
    | none => exact (updatePeer_unlisted hp).symm
    | some p =>
      have hother := (listsQuiet_false_iff hp).1 (Bool.eq_false_iff.2 hnot)
      have hid : updatePeer n id s = s := by
        refine congrArg (fun r => ({ s with roster := r } : State)) ?_
        simp
      rw [removeQuiet_eq]
      refine Eq.trans hid.symm (updatePeer_congr hp hsole ?_)
      rw [List.filter_eq_self.2 fun q hq => by simpa using hother q hq]
      rfl

theorem exec_foreignQuietLapse (h : s.onLine = true) : exec (.foreignQuietLapse n b) s = .next (takeQuietEnd n b s) := by
  have hexec : exec (.foreignQuietLapse n b) s = execForeignQuietLapse n b s := rfl
  rw [hexec, execForeignQuietLapse, if_pos h]

/-- The session that a lapsed quiet deferred goes on with step 1 (R25, R26, R100). -/
theorem takeQuietEnd_steps (hp : s.peer n = some p) (hb : ∃ q ∈ p.quiets, q.block = b)
    (hothers : ∀ o ∈ s.roster, o.station ≠ n → ∀ q ∈ o.quiets, q.block ≠ b)
    (hstate : (s.chan c).session.state = .deferred) (hby : (s.chan c).session.deferredBy = some (.station n))
    (hblock : (s.chan c).session.block = b) (hstands : quietStandsOn s c.other b = false)
    (hstep : (s.chan c).session.relayStep = none) (hfrozen : (s.chan c).session.frozenAtClaim = false) :
    ((takeQuietEnd n b s).chan c).session =
      { (s.chan c).session with state := .connecting, relayStep := some 1, deferredBy := none } := by
  have hchan : ∀ d, (removeQuiet n b s).chan d = s.chan d := fun d => by rw [removeQuiet, chan_updatePeer]
  have hholder : quietHolder (removeQuiet n b s) b = none := by
    rw [quietHolder_none_iff, removeQuiet, roster_updatePeer]
    intro o ho
    obtain ⟨q, hq, rfl⟩ := List.mem_map.1 ho
    by_cases hn : q.station = n
    · rw [if_pos hn]
      intro x hx
      simpa using (List.mem_filter.1 hx).2
    · rw [if_neg hn]
      exact hothers q hq hn
  have hfree : quietedBy (removeQuiet n b s) c b = none := by
    unfold quietedBy
    rw [hholder, quietStandsOn, hchan, ← quietStandsOn, hstands]
    rfl
  rw [takeQuietEnd, if_pos (listsQuiet_of hp hb), quietEnded_steps (by rw [hchan, hstate]) (by rw [hchan, hby])
    (by rw [hchan, hblock]) hfree (by rw [hchan, hstep]) (by rw [hchan, hfrozen]), hchan]

end Ends

/-! ### A QUIET heard -/

section Quiet

variable {s : State} {n : Station} {b : Block} {c : Channel} {p : Peer}

theorem takeQuiet_known (h : (∃ o ∈ s.roster, ∃ q ∈ o.quiets, q.block = b) ∨ ownQuietOn s b = true) :
    takeQuiet n b s = s := by
  have hvoid : ¬((s.peer n).any fun p => p.quiets.any (·.block == b)) = true → findQuiet s n b = .void := by
    intro hno
    rw [findQuiet, if_neg hno, if_pos]
    rcases h with ⟨o, ho, q, hq, hqb⟩ | h
    · have hholder : (quietHolder s b).isSome = true := by
        rw [quietHolder, Option.isSome_map, List.find?_isSome]
        exact ⟨o, ho, List.any_eq_true.2 ⟨q, hq, by simpa using hqb⟩⟩
      rw [hholder, Bool.true_or]
    · rw [h, Bool.or_true]
  unfold takeQuiet
  by_cases hlisted : ((s.peer n).any fun p => p.quiets.any (·.block == b)) = true
  · rw [findQuiet, if_pos hlisted]
  · rw [hvoid hlisted]

/-- The state as a QUIET heard for a free block is in the view, before the own sessions answer (R97, R99). -/
def quietHeard (n : Station) (b : Block) (s : State) : State := { s.answered with
  roster := rosterWith n (fun q => { q with
    lastHeard := s.now, quiets := withQuiet b (s.now + 10500) q.quiets }) s.roster }

@[simp] theorem chan_quietHeard : (quietHeard n b s).chan c = s.chan c := by cases c <;> rfl

theorem soleEntry_heard (hok : RosterOk s.roster) : SoleEntry (s.heard n) n := by
  have hsole := soleEntry_of_ok hok n
  intro q hq hn
  rw [State.heard, roster_updatePeer, rosterWith, List.mem_map] at hq
  obtain ⟨x, hx, rfl⟩ := hq
  by_cases hxn : x.station = n
  · rw [if_pos hxn]
    exact peer_heard (hsole x hx hxn)
  · rw [if_neg hxn] at hn
    exact absurd hn hxn

theorem quietHolder_none_heard (h : ∀ o ∈ s.roster, ∀ q ∈ o.quiets, q.block ≠ b) :
    ∀ o ∈ (s.heard n).roster, ∀ q ∈ o.quiets, q.block ≠ b := by
  rw [← quietHolder_none_iff, quietHolder_heard, quietHolder_none_iff]
  exact h

/-- The row QUIET_TAKEN for a free block, with no own QUIET queued and no session DEFERRED (R99, R133). -/
theorem exec_quietTaken_free (h : Heard s n (.quiet b)) (hp : s.peer n = some p)
    (hfree : ∀ o ∈ s.roster, ∀ q ∈ o.quiets, q.block ≠ b) (hown : ownQuietOn s b = false)
    (hphase : ∀ c, (s.chan c).quiet.phase ≠ .requested) (hcalm : ∀ c, (s.chan c).session.state ≠ .deferred)
    (hok : RosterOk s.roster) : exec (.quietTaken n b) s =
      .next (answerQuiet .b b n (answerQuiet .a b n (quietHeard n b s))) := by
  have hokp := hok.peers p (peer_mem hp).1
  have hadds : addQuiet n b (makesRoom n (s.heard n)) = quietHeard n b s := by
    rw [addQuiet_makesRoom (peer_heard hp) (soleEntry_heard hok)
      ⟨hokp.station, hokp.holdings, hokp.pairs, hokp.quiets, hokp.blocks⟩ (by simpa using hcalm), updatePeer_heard]
    rfl
  have hfinds : findQuiet (s.heard n) n b = .recorded := by
    refine findQuiet_recorded (quietHolder_none_heard hfree) ?_
    rw [ownQuietOn_of_quiet (s := s) (by simp), hown]
  refine (exec_heard_of h hp (.inl rfl)).trans (congrArg _ ?_)
  rw [applyFrame]
  unfold takeQuiet
  rw [hfinds]
  dsimp only
  rw [recordQuiet_eq, hadds, withdrawBoth_none (by simpa using hphase)]

end Quiet

/-- Settles O44: `exec_quietTaken_free` and the answers of the own sessions, `takeQuietEnd_calm` for the entry and
`takeQuietEnd_steps` for the session deferred. -/
theorem foreignQuietsAreRecordedAndEnd : Obligations.ForeignQuietsAreRecordedAndEnd := by
  refine ⟨fun s n b p h hp => ⟨fun hknown => ?_, fun hfree hown hphase hcalm => ?_⟩,
    fun s n b hok hcalm => ⟨fun h => ?_, fun honLine => ?_⟩,
    fun s n b c p honLine hp hb hothers hstate hby hblock hstands hstep hfrozen =>
      ⟨_, exec_foreignQuietLapse honLine, takeQuietEnd_steps hp hb hothers hstate hby hblock hstands hstep hfrozen⟩⟩
  · refine (exec_heard_of h hp (.inl rfl)).trans (congrArg _ (takeQuiet_known ?_))
    rw [ownQuietOn_of_quiet (s := s) (by simp)]
    refine hknown.imp_left fun hlisted => ?_
    by_contra hnone
    have hnone' : quietHolder (s.heard n) b = none := by
      rw [quietHolder_none_iff]
      exact fun o ho q hq hqb => hnone ⟨o, ho, q, hq, hqb⟩
    rw [quietHolder_heard, quietHolder_none_iff] at hnone'
    obtain ⟨o, ho, q, hq, hqb⟩ := hlisted
    exact hnone' o ho q hq hqb
  · intro v hok
    have hexec := exec_quietTaken_free h hp hfree hown hphase hcalm hok
    refine ⟨fun hsilent => ?_, fun c hother hblock => ⟨fun hstate => ?_, fun hstate hroom => ?_⟩⟩
    · rw [hexec, answerQuiet_silent (c := .a) (by rw [chan_quietHeard]; exact hsilent .a),
        answerQuiet_silent (c := .b) (by rw [chan_quietHeard]; exact hsilent .b)]
      rfl
    · rw [hexec, answerQuiet_one (c := c) (by rw [chan_quietHeard]; exact hother),
        answerQuiet_claimed (by rw [chan_quietHeard, hblock]) (by rw [chan_quietHeard, hstate])]
      rfl
    · rw [hexec, answerQuiet_one (c := c) (by rw [chan_quietHeard]; exact hother),
        answerQuiet_busy (by rw [chan_quietHeard, hblock]) (by rw [chan_quietHeard]; exact hstate),
        queueBusy_of_room (s := quietHeard n b s) hroom]
      rfl
  · obtain ⟨p, hp⟩ := Option.isSome_iff_exists.1 h.known
    refine (exec_heard_of h hp (.inl rfl)).trans (congrArg _ ?_)
    exact (takeQuietEnd_calm (soleEntry_heard hok) (by simpa using hcalm)).trans (updatePeer_heard _)
  · rw [exec_foreignQuietLapse honLine, takeQuietEnd_calm (soleEntry_of_ok hok n) hcalm]
    rfl

end Sys2Proof.Machine
end

section
/-! PROOFS. What a PRESENCE puts in its sender's entry, and the join replies (R101, R105): settles O43. -/

namespace Sys2Proof.Machine

/-! ### The entry replaced -/

section Replaced

variable {s v : State} {n : Station} {j : Bool} {hs : List Holding} {qs bs : List Block} {p : Peer}

/-- The blocks that a PRESENCE adds to an entry: listed, new there, in no other entry and under no own quiet (R101). -/
def addedBlocks (s : State) (n : Station) (p : Peer) (qs : List Block) : List Block :=
  qs.filter fun b => !(p.quiets.any (·.block == b)) && !ownQuietOn s b &&
    !(s.roster.any fun o => o.station != n && o.quiets.any (·.block == b))

/-- The entry of a PRESENCE's sender, as it replaces the entry `p` (R101). -/
def presenceEntry (s : State) (n : Station) (p : Peer) (j : Bool) (hs : List Holding) (qs : List Block) (q : Peer) : Peer :=
  { q with
    lastHeard := s.now, holdings := hs, joining := j
    quiets := (p.quiets.filter fun q => qs.contains q.block) ++
      (addedBlocks s n p qs).map fun b => ⟨b, s.now + 10500⟩ }

/-- Other entries' quiets are the same in the roster once the sender is noted as heard. -/
theorem quietElsewhere_heard {b : Block} : ((s.heard n).roster.any fun o => o.station != n && o.quiets.any (·.block == b)) =
    s.roster.any fun o => o.station != n && o.quiets.any (·.block == b) := by
  rw [State.heard, roster_updatePeer, rosterWith, List.any_map, roster_answered]
  congr 1
  funext q
  simp only [Function.comp_apply]
  split <;> rfl

theorem presenceQuiets_of (hroster : v.roster = (s.heard n).roster) (hnow : v.now = s.now)
    (hquiet : ∀ d, (v.chan d).quiet = (s.chan d).quiet) (hstation : p.station = n) : presenceQuiets v p qs =
      (p.quiets.filter fun q => qs.contains q.block) ++ (addedBlocks s n p qs).map fun b => ⟨b, s.now + 10500⟩ := by
  have hadded : (qs.filter fun b => !(p.quiets.any (·.block == b)) && !ownQuietOn v b &&
      !(v.roster.any fun o => o.station != p.station && o.quiets.any (·.block == b))) = addedBlocks s n p qs := by
    refine List.filter_congr fun b _ => ?_
    rw [ownQuietOn_of_quiet hquiet, hroster, hstation, quietElsewhere_heard]
  rw [presenceQuiets, hadded, hnow]
  rfl

/-- The roster as a PRESENCE has replaced its sender's entry (R97, R101). -/
theorem roster_replacePeer (hok : RosterOk s.roster) (hp : s.peer n = some p) (hroster : v.roster = (s.heard n).roster)
    (hnow : v.now = s.now) (hquiet : ∀ d, (v.chan d).quiet = (s.chan d).quiet) :
    (replacePeer n j hs qs v).roster = rosterWith n (presenceEntry s n p j hs qs) s.roster := by
  rw [replacePeer, roster_updatePeer, hroster, State.heard, roster_updatePeer]
  refine (rosterWith_rosterWith (g := fun q => { q with lastHeard := s.now }) fun _ => rfl).trans
    (rosterWith_congr fun q hq hn => ?_)
  obtain rfl : p = q := Option.some.inj (hp.symm.trans (soleEntry_of_ok hok n q hq hn))
  have hquiets := presenceQuiets_of (p := { p with lastHeard := s.now }) (qs := qs) hroster hnow hquiet hn
  simp only [presenceEntry, hquiets]
  rfl

theorem foldl_withdrawBoth_none (h : ∀ c, (v.chan c).quiet.phase ≠ .requested) :
    bs.foldl (fun r b => withdrawBoth b r) v = v := by
  induction bs with
  | nil => rfl
  | cons b rest ih => rw [List.foldl_cons, withdrawBoth_none h, ih]

/-- A PRESENCE that ends no wait of an own session, withdraws no own QUIET and contests no own session replaces its
sender's entry, and draws the join replies where it is the first joining one (R101, R105). -/
theorem takePresence_calm (hnot : Uncontested v (hs.map fun h => (h.line, h.trunk)))
    (hcalm : ∀ c, (v.chan c).session.state ≠ .deferred) (hphase : ∀ c, (v.chan c).quiet.phase ≠ .requested) :
    takePresence n j hs qs p v =
      if j && !p.joining then joinReplies (replacePeer n j hs qs v) else replacePeer n j hs qs v := by
  have hchan : ∀ d, (replacePeer n j hs qs v).chan d = v.chan d := fun d => by rw [replacePeer, chan_updatePeer]
  have hends := foldl_quietEnded_calm (s := replacePeer n j hs qs v) (n := n)
    (fun d => by rw [hchan]; exact hcalm d) (presenceEnds p qs)
  have hadds := foldl_withdrawBoth_none (v := replacePeer n j hs qs v) (bs := presenceAdds v p qs)
    (fun d => by rw [hchan]; exact hphase d)
  rw [takePresence]
  rw [hends, hadds, contest_nothing (uncontested_of_chan hnot hchan)]

end Replaced

/-! ### The join replies -/

section Replies

variable {s v : State} {n : Station} {j : Bool} {hs : List Holding} {qs : List Block} {p : Peer}

theorem joinReplies_eq : joinReplies s = outNotices s.declaredOut (s.updTickets announceOpen) := by
  have hout : (s.updTickets announceOpen).declaredOut = s.declaredOut := by
    unfold State.declaredOut
    congr 1
  rw [joinReplies, announceTrunks_eq, hout]

theorem roster_joinReplies : (joinReplies s).roster = s.roster := by
  rw [joinReplies_eq, gains_outNotices.beside.roster, roster_updTickets]

theorem ticketStore_joinReplies (h : s.declaredOut = [] ∨ s.link.holding = []) : (joinReplies s).ticketStore =
    { s.ticketStore with tickets := announced s.ticketStore.tickets } := by
  have hkept : (outNotices s.declaredOut (s.updTickets announceOpen)).ticketStore =
      (s.updTickets announceOpen).ticketStore := by
    rcases h with h | h
    · rw [h]
      rfl
    · refine outNotices_noticesHeld ?_
      rw [NoticesHeld, link_updTickets, h]
      simp
  rw [joinReplies_eq, hkept, ticketStore_updTickets, announceOpen_eq]

theorem outNoticesQueued_joinReplies (h : s.onLine = true) : OutNoticesQueued s (joinReplies s) := by
  intro hholding hwaiting hlow hslots
  rw [joinReplies_eq]
  exact outNotices_of_room (s := s.updTickets announceOpen) h hholding hwaiting hlow hslots

theorem port_joinReplies (h : s.declaredOut = []) : (joinReplies s).port = s.port := by
  rw [joinReplies_eq, h]
  rfl

theorem declaredOut_of_store (h : v.store = s.store) : v.declaredOut = s.declaredOut := by
  unfold State.declaredOut
  congr 1
  funext t
  rw [trunkEntry_of_store h]

/-- The state as the first joining PRESENCE of a listed station is noted, before its entry is replaced (R97, R111). -/
def joinsHeard (n : Station) (s : State) : State := emit (peerJoined n true) (s.heard n)

/-- The row of a first joining PRESENCE of a listed station (R97, R101, R111). -/
theorem exec_presenceJoins (h : Heard s n (.presence true hs qs)) (hp : s.peer n = some p) (hj : p.joining = false) :
    exec (.presenceTaken n true hs qs) s =
      .next (takePresence n true hs qs { p with lastHeard := s.now } (joinsHeard n s)) := by
  have hview : heardPeer n true s.answered = joinsHeard n s := heardPeer_joins hp rfl hj
  have hpeer : (joinsHeard n s).peer n = some { p with lastHeard := s.now } :=
    (peer_of_roster (emit_roster _ _)).trans (peer_heard hp)
  have hexec : exec (.presenceTaken n true hs qs) s = .next (frameTaken n (.presence true hs qs) s) := rfl
  rw [hexec, frameTaken_heard h]
  unfold handOn
  dsimp only [joiningFlag]
  rw [hview, hpeer]
  rfl

end Replies

/-- Settles O43: `takePresence_calm` and `roster_replacePeer` for the entry, `joinReplies_eq` for the replies. -/
theorem presenceReplacesItsSendersEntry : Obligations.PresenceReplacesItsSendersEntry := by
  intro s n j hs qs p hok h hp hnot hcalm added r
  have hr : r = rosterWith n (presenceEntry s n p j hs qs) s.roster := rfl
  refine ⟨fun hj => ?_, fun hj hjoining => ?_⟩
  · have hroster := roster_replacePeer (v := s.heard n) (j := j) (hs := hs) (qs := qs) hok hp rfl rfl (by simp)
    refine (exec_heard_of h hp hj).trans (congrArg _ ?_)
    rw [applyFrame, takePresence_calm (uncontested_of_chan hnot (by simp)) (by simpa using fun c => (hcalm c).1)
      (by simpa using fun c => (hcalm c).2), if_neg (by rcases hj with hj | hj <;> simp [hj]), hr, ← hroster]
    rfl
  · subst hj
    have hchan : ∀ d, (joinsHeard n s).chan d = s.chan d := fun d => by simp [joinsHeard]
    have hroster := roster_replacePeer (v := joinsHeard n s) (j := true) (hs := hs) (qs := qs) hok hp
      (emit_roster _ _) (by simp [joinsHeard]) (fun d => by rw [hchan])
    have htake := takePresence_calm (v := joinsHeard n s) (n := n) (j := true) (qs := qs)
      (p := { p with lastHeard := s.now }) (uncontested_of_chan hnot hchan)
      (fun c => by rw [hchan]; exact (hcalm c).1) (fun c => by rw [hchan]; exact (hcalm c).2)
    rw [if_pos (by simp [hjoining])] at htake
    have hlink : (replacePeer n true hs qs (joinsHeard n s)).link = s.answered.link := by simp [replacePeer, joinsHeard]
    have hout : (replacePeer n true hs qs (joinsHeard n s)).declaredOut = s.declaredOut :=
      declaredOut_of_store (by simp [replacePeer, joinsHeard])
    have hport : (replacePeer n true hs qs (joinsHeard n s)).port = (joinsHeard n s).port := by simp [replacePeer]
    have honLine : (replacePeer n true hs qs (joinsHeard n s)).onLine = true := by
      rw [State.onLine, hlink, hport, joinsHeard, phase_emit]
      exact h.onLine
    refine ⟨_, (exec_presenceJoins h hp hjoining).trans (congrArg _ htake), ?_, fun hnone => ?_, ?_, fun hroom hnone => ?_⟩
    · rw [roster_joinReplies, hroster, hr]
    · rw [ticketStore_joinReplies (by rw [hout, hlink]; exact hnone)]
      simp [replacePeer, joinsHeard]
    · have hqueued := outNoticesQueued_joinReplies honLine
      rw [OutNoticesQueued, hlink, hout] at hqueued
      exact hqueued
    · rw [port_joinReplies (by rw [hout, hnone]), hport, joinsHeard, port_emit_of_room (s := s.heard n) hroom]
      rfl

end Sys2Proof.Machine
end

section
/-! PROOFS. A conflict: what it does to its session, and what it leaves of the other (R31, R36, R39). -/

namespace Sys2Proof.Machine

/-! ### What the end of a session leaves of the other -/

section Sides

variable {s t : State} {c d : Channel}

/-- A channel's session with its relay side, its claim and whether it measures are the same. -/
structure SideKept (d : Channel) (s t : State) : Prop where
  session : (t.chan d).session = (s.chan d).session
  seq : (t.chan d).seq = (s.chan d).seq
  claim : (t.chan d).claim = (s.chan d).claim
  measuring : (t.chan d).engine.phase = (s.chan d).engine.phase

theorem SideKept.refl (d : Channel) (s : State) : SideKept d s s := ⟨rfl, rfl, rfl, rfl⟩

theorem SideKept.trans {u : State} (h : SideKept d s t) (k : SideKept d t u) : SideKept d s u :=
  ⟨k.session.trans h.session, k.seq.trans h.seq, k.claim.trans h.claim, k.measuring.trans h.measuring⟩

theorem sideKept_of_chan (h : t.chan d = s.chan d) : SideKept d s t := by
  constructor <;> rw [h]

@[simp] theorem engine_endQuiet (d : Channel) : ((endQuiet c s).chan d).engine = (s.chan d).engine := by
  unfold endQuiet
  split <;> simp

@[simp] theorem engine_quietEndAsked (d : Channel) : ((quietEndAsked c s).chan d).engine = (s.chan d).engine := by
  unfold quietEndAsked
  repeat' split
  all_goals simp

/-- A release on one channel may mark the other's measurement disturbed, and starts or ends none (R136, R138). -/
theorem phase_releaseDisturbs : ((releaseDisturbs c s).chan d).engine.phase = (s.chan d).engine.phase := by
  have hnoisy : ∀ (k : Channel) (v : State), ((markNoisy k v).chan d).engine.phase = (v.chan d).engine.phase := by
    intro k v
    rcases channel_eq_or_other k d with rfl | rfl
    · simp only [markNoisy, chan_updEngine]
      split <;> rfl
    · simp [markNoisy]
  unfold releaseDisturbs
  dsimp only
  repeat' split
  all_goals simp [hnoisy]

theorem sideKept_releaseDisturbs (d : Channel) : SideKept d s (releaseDisturbs c s) :=
  ⟨by simp, by simp, by simp, phase_releaseDisturbs⟩

theorem sideKept_enterReleasing : SideKept c.other s (enterReleasing c s) := by
  unfold enterReleasing
  split
  · exact sideKept_of_chan chan_other_enterClosing
  · next r _ =>
    have hbegins : SideKept c.other s (s.updSession c fun x => { x with state := .releasing }) :=
      sideKept_of_chan (by rw [chan_updSession_other])
    have hgives : ∀ v : State, SideKept c.other v (giveRelease c r v) := fun v => sideKept_of_chan (by simp [giveRelease])
    exact (hbegins.trans (sideKept_releaseDisturbs c.other)).trans (hgives _)

theorem sideKept_abandonMeasurement : SideKept c.other s (abandonMeasurement c s) := by
  have hengine : ((abandonMeasurement c s).chan c.other).engine = (s.chan c.other).engine := by
    unfold abandonMeasurement
    dsimp only
    split <;> simp
  exact ⟨by simp, by simp, by simp, by rw [hengine]⟩

/-- A session that is reversed leaves the other's session, relay side, claim and measurement (R36). -/
theorem sideKept_reverseSession : SideKept c.other s (reverseSession c s) := by
  have hstep : ∀ f : Session → Session, SideKept c.other s (s.updSession c f) := fun f =>
    sideKept_of_chan (by rw [chan_updSession_other])
  unfold reverseSession
  split
  · exact sideKept_of_chan chan_other_enterClosing
  · exact sideKept_enterReleasing
  · exact (sideKept_of_chan (by simp [abandonOperate])).trans sideKept_enterReleasing
  · exact (hstep _).trans sideKept_enterReleasing
  · exact ((hstep _).trans sideKept_abandonMeasurement).trans sideKept_enterReleasing
  · exact SideKept.refl _ _

theorem claim_enterReleasing (d : Channel) : ((enterReleasing c s).chan d).claim = (s.chan d).claim := by
  unfold enterReleasing
  split
  · simp [enterClosing]
  · simp [giveRelease]

theorem claim_reverseSession (d : Channel) : ((reverseSession c s).chan d).claim = (s.chan d).claim := by
  unfold reverseSession
  split
  · simp [enterClosing]
  · exact claim_enterReleasing d
  · rw [claim_enterReleasing]
    simp [abandonOperate]
  · rw [claim_enterReleasing]
    simp
  · rw [claim_enterReleasing]
    simp
  · rfl

/-! ### What it leaves of the engine's item -/

theorem item_endQuiet : (endQuiet c s).auto.item = s.auto.item := by
  unfold endQuiet
  split <;> simp

theorem item_removeIfQueued {f : Option QueuedFrame} : (removeIfQueued f s).auto.item = s.auto.item := by
  cases f with
  | none => rfl
  | some f => rw [removeIfQueued_some, item_removeFrame]

theorem item_quietEndAsked : (quietEndAsked c s).auto.item = s.auto.item := by
  unfold quietEndAsked
  repeat' split
  all_goals simp [item_endQuiet, item_removeIfQueued]

theorem item_releaseDisturbs : (releaseDisturbs c s).auto.item = s.auto.item := by
  unfold releaseDisturbs
  dsimp only
  repeat' split
  all_goals simp [markNoisy, joinWait, queueBusy]

theorem item_enterReleasing : (enterReleasing c s).auto.item = s.auto.item := by
  unfold enterReleasing
  split
  · simp [enterClosing]
  · simp [giveRelease, item_releaseDisturbs]

theorem item_reverseSession : (reverseSession c s).auto.item = s.auto.item := by
  have habandon : ∀ v : State, (abandonMeasurement c v).auto.item = v.auto.item := by
    intro v
    unfold abandonMeasurement
    dsimp only
    split <;> simp [item_quietEndAsked]
  unfold reverseSession
  split
  · simp [enterClosing]
  · exact item_enterReleasing
  · simp [item_enterReleasing, abandonOperate]
  · simp [item_enterReleasing]
  · simp [item_enterReleasing, habandon]
  · rfl

end Sides

/-! ### What it does to its session -/

section Conflict

variable {s t : State} {c : Channel}

/-- The relay release that a session begins from a step it has reached (R31). -/
def releaseFrom (m : Nat) : Relay := if m = 5 then .cutOff else if 3 ≤ m then .testRelay else .selector

/-- A session in `t` as it is reversed from the state it has in `s` (R31, R36). -/
structure Reversed (c : Channel) (s t : State) : Prop where
  outcome : (t.chan c).seq.outcome = (s.chan c).seq.outcome
  undriven : (s.chan c).session.state = .claimed ∨
    (s.chan c).session.state = .deferred ∧ (s.chan c).session.relayStep = none →
      (t.chan c).session = { (s.chan c).session with state := .closing }
  driven : ∀ m, (s.chan c).session.state = .deferred ∨ (s.chan c).session.state = .connecting →
    (s.chan c).session.relayStep = some m →
      (t.chan c).session = { (s.chan c).session with state := .releasing } ∧
      (t.chan c).seq.releasing = some (releaseFrom m)
  abandoned : ∀ m, (s.chan c).session.state = .connecting → (s.chan c).session.relayStep = some m → m = 3 ∨ m = 5 →
    (s.chan c).seq.confirmTaken = false →
      (t.chan c).seq.abandoned = some ⟨m, (s.chan c).session.line, (s.chan c).session.trunk⟩
  connected : (s.chan c).session.state = .connected ∨ (s.chan c).session.state = .measuring →
    (t.chan c).session = { (s.chan c).session with state := .releasing, relayStep := some 5 } ∧
    (t.chan c).seq.releasing = some .cutOff
  measuring : (s.chan c).session.state = .measuring → (t.chan c).engine.phase = .idle

theorem outcome_enterReleasing : ((enterReleasing c s).chan c).seq.outcome = (s.chan c).seq.outcome := by
  cases h : (s.chan c).session.relayStep with
  | none => rw [enterReleasing_undriven h, seq_enterClosing]
  | some m => exact (releasing_of_driven h).2.1

theorem outcome_reverseSession : ((reverseSession c s).chan c).seq.outcome = (s.chan c).seq.outcome := by
  unfold reverseSession
  split
  · rw [seq_enterClosing]
  · exact outcome_enterReleasing
  · rw [outcome_enterReleasing, outcome_abandonOperate]
  · rw [outcome_enterReleasing, seq_updSession]
  · rw [outcome_enterReleasing, seq_abandonMeasurement, seq_updSession]
  · rfl

theorem reversed_reverseSession : Reversed c s (reverseSession c s) where
  outcome := outcome_reverseSession
  undriven h := by rw [reverseSession_undriven h, session_enterClosing]
  driven m hstate hm := by
    obtain ⟨v, hv, hsession, -, -⟩ := reverseSession_driven (c := c) (s := s) hstate.symm
    obtain ⟨hs, -, -, hr⟩ := releasing_of_driven (c := c) (s := v) (n := m) (by rw [hsession, hm])
    rw [hv, hs, hr, hsession]
    exact ⟨rfl, rfl⟩
  abandoned m hstate hm hoperates htaken := by
    have hawaits : awaitsConfirm (s.chan c) = true := by
      rw [awaitsConfirm_connecting hstate hm hoperates, htaken]
      rfl
    rw [reverseSession, hstate]
    dsimp only
    rw [enterReleasing_driven (n := m) (by rw [session_abandonOperate, hm])]
    simp [giveRelease, abandonOperate, hawaits, hm]
  connected hstate := by
    have hfive : ∀ v : State, (v.chan c).session = { (s.chan c).session with relayStep := some 5 } →
        ((enterReleasing c v).chan c).session = { (s.chan c).session with state := .releasing, relayStep := some 5 } ∧
          ((enterReleasing c v).chan c).seq.releasing = some .cutOff := by
      intro v hv
      obtain ⟨hs, -, -, hr⟩ := releasing_of_driven (c := c) (s := v) (n := 5) (by rw [hv])
      rw [hs, hr, hv]
      exact ⟨rfl, rfl⟩
    rcases hstate with h | h
    · rw [reverseSession, h]
      exact hfive _ (by rw [chan_updSession])
    · rw [reverseSession, h]
      exact hfive _ (by rw [session_abandonMeasurement, chan_updSession])
  measuring h := by
    rw [reverseSession, h]
    dsimp only
    rw [enterReleasing_driven (n := 5) (by simp)]
    have hidle : ∀ v : State, ((abandonMeasurement c v).chan c).engine.phase = .idle := by
      intro v
      unfold abandonMeasurement
      dsimp only
      split <;> simp [EngineRecord.initial]
    simp [giveRelease, engine_releaseDisturbs, hidle]

/-- A conflict reports an automatic item BLOCKED first (R170). -/
def conflictTold (c : Channel) (s : State) : State :=
  fixSession c .conflict (if (s.chan c).session.isAutomatic then report .blocked s else s)

theorem conflict_active (h : (s.chan c).session.state.active = true) :
    conflict c s = reverseSession c (conflictTold c s) := if_pos h

theorem chan_told (d : Channel) :
    (if (s.chan c).session.isAutomatic then report .blocked s else s).chan d = s.chan d := by
  split <;> simp

theorem chan_conflictTold : (conflictTold c s).chan c = { s.chan c with
    seq := { (s.chan c).seq with outcome := some ((s.chan c).seq.outcome.getD .conflict) } } := by
  rw [conflictTold, fixSession, chan_updSeq, chan_told]

theorem chan_conflictTold_other : (conflictTold c s).chan c.other = s.chan c.other := by
  rw [conflictTold, fixSession, chan_updSeq_other, chan_told]

theorem link_conflictTold : (conflictTold c s).link = s.link := by
  rw [conflictTold, fixSession, link_updSeq]
  split <;> simp

theorem sideKept_conflict : SideKept c.other s (conflict c s) := by
  by_cases h : (s.chan c).session.state.active = true
  · rw [conflict_active h]
    exact (sideKept_of_chan chan_conflictTold_other).trans sideKept_reverseSession
  · rw [conflict_inactive (Bool.eq_false_iff.2 h)]
    exact SideKept.refl _ _

theorem claim_conflict : ((conflict c s).chan c).claim = (s.chan c).claim := by
  by_cases h : (s.chan c).session.state.active = true
  · rw [conflict_active h, claim_reverseSession, chan_conflictTold]
  · rw [conflict_inactive (Bool.eq_false_iff.2 h)]

/-- What a conflict makes of an active session: its outcome fixed, and the session reversed (R36, R39). -/
theorem conflict_reverses (h : (s.chan c).session.state.active = true) :
    Reversed c (conflictTold c s) (conflict c s) ∧ (conflictTold c s).chan c = { s.chan c with
      seq := { (s.chan c).seq with outcome := some ((s.chan c).seq.outcome.getD .conflict) } } := by
  rw [conflict_active h]
  exact ⟨reversed_reverseSession, chan_conflictTold⟩

/-- A conflict of a session that has driven no relay queues its RELEASE alone (R39). -/
theorem link_conflict_closing (hactive : (s.chan c).session.state = .claimed ∨
    (s.chan c).session.state = .deferred ∧ (s.chan c).session.relayStep = none) (h : UrgentRoom s) :
    (conflict c s).link = linkWith (.release (s.chan c).session.line (s.chan c).session.trunk) (some c) s.link := by
  have hlive : (s.chan c).session.state.active = true := by
    rcases hactive with h | ⟨h, -⟩ <;> rw [h] <;> rfl
  obtain ⟨hwaiting, hslots⟩ := h
  rw [conflict_active hlive, reverseSession_undriven (by rw [chan_conflictTold]; exact hactive),
    (enterClosing_of_room (by rw [link_conflictTold, hwaiting]) (by rw [link_conflictTold]; exact hslots)).1,
    chan_conflictTold, link_conflictTold]

/-- An item whose outcome is fixed is reported no more (R170). -/
theorem item_report_fixed {i : Item} {o : ItemOutcome} (h : s.auto.item = some i) (hfixed : i.outcome.isSome = true) :
    report o s = s := by
  have hnone : s.openItem = none := by
    obtain ⟨x, hx⟩ := Option.isSome_iff_exists.1 hfixed
    simp [State.openItem, h, hx]
  rw [report, hnone]

/-- A conflict fixes the outcome of an automatic session's item BLOCKED, and no other session's (R39, R170). -/
theorem item_conflict {j : Item} (hopen : j.outcome = none) (hleft : j.aborted = false) :
    ((s.chan c).session.state.active = true → (s.chan c).session.purpose ≠ .operator →
      s.auto.item = some j ∨ s.auto.item = some { j with outcome := some .blocked } →
        (conflict c s).auto.item = some { j with outcome := some .blocked }) ∧
    (s.auto.item = some j → (conflict c s).auto.item = some j ∨
      (conflict c s).auto.item = some { j with outcome := some .blocked }) ∧
    (s.auto.item = some { j with outcome := some .blocked } →
      (conflict c s).auto.item = some { j with outcome := some .blocked }) := by
  have hitem : (s.chan c).session.state.active = true → (conflict c s).auto.item =
      (if (s.chan c).session.isAutomatic then report .blocked s else s).auto.item := by
    intro h
    rw [conflict_active h, item_reverseSession, conflictTold, fixSession, auto_updSeq]
  have hopened : s.auto.item = some j → (report .blocked s).auto.item = some { j with outcome := some .blocked } :=
    fun h => (engine_report h hopen hleft).1
  have hfixed : s.auto.item = some { j with outcome := some .blocked } → report .blocked s = s :=
    fun h => item_report_fixed h rfl
  refine ⟨fun hactive hp hj => ?_, fun hj => ?_, fun hj => ?_⟩
  · have hauto : (s.chan c).session.isAutomatic = true := by
      rw [isAutomatic_iff]
      refine ⟨fun hidle => ?_, hp⟩
      rw [hidle] at hactive
      cases hactive
    rw [hitem hactive, if_pos hauto]
    rcases hj with hj | hj
    · exact hopened hj
    · rw [hfixed hj, hj]
  · by_cases hactive : (s.chan c).session.state.active = true
    · rw [hitem hactive]
      split
      · exact .inr (hopened hj)
      · exact .inl hj
    · rw [conflict_inactive (Bool.eq_false_iff.2 hactive)]
      exact .inl hj
  · by_cases hactive : (s.chan c).session.state.active = true
    · rw [hitem hactive]
      split
      · rw [hfixed hj, hj]
      · exact hj
    · rw [conflict_inactive (Bool.eq_false_iff.2 hactive), hj]

end Conflict

end Sys2Proof.Machine
end

section
/-! PROOFS. What a pair that another station holds does to the own sessions (R102, R119 to R125): settles O42. -/

namespace Sys2Proof.Machine

/-! ### The passes over the channels -/

section Passes

variable {s v w u : State} {l : Line} {t : Trunk} {c : Channel} {n : Station} {F G : Channel → State → State}

/-- A pass over a channel that ends its active session by CONFLICT where the pair names its line or trunk, and may
withdraw its queued claim (R102, R119, R125). -/
structure ContestOp (l : Line) (t : Trunk) (c : Channel) (f : State → State) : Prop where
  other : ∀ w, SideKept c.other w (f w)
  acts : ∀ w, (w.chan c).claim.stage ≠ .queued → f w =
    if (w.chan c).session.line = l ∨ (w.chan c).session.trunk = t then conflict c w else w

/-- A pass over a channel that acts on a queued claim alone (R121). -/
structure RerouteOp (c : Channel) (f : State → State) : Prop where
  other : ∀ w, SideKept c.other w (f w)
  idle : ∀ w, (w.chan c).claim.stage ≠ .queued → f w = w

theorem lineContested_one (x : Session) : lineContested x [(l, t)] = true ↔ x.line = l := by
  rw [lineContested, List.any_cons, List.any_nil, Bool.or_false, beq_iff_eq, eq_comm]

theorem trunkContested_one (x : Session) : trunkContested x [(l, t)] = true ↔ x.trunk = t := by
  rw [trunkContested, List.any_cons, List.any_nil, Bool.or_false, beq_iff_eq, eq_comm]

theorem contestOp_contestFirst : ContestOp l t c (contestFirst n [(l, t)] c) where
  other w := by
    unfold contestFirst
    dsimp only
    split
    · split
      · exact sideKept_of_chan chan_other_endClaim
      · split
        · exact sideKept_of_chan chan_other_endClaim
        · exact SideKept.refl _ _
    · split
      · exact sideKept_conflict
      · exact SideKept.refl _ _
  acts w h := by
    refine (if_neg h).trans ?_
    simp only [Bool.or_eq_true, lineContested_one, trunkContested_one]

theorem contestOp_releaseContests : ContestOp l t c (releaseContests (l, t) c) where
  other w := by
    unfold releaseContests
    dsimp only
    split
    · exact sideKept_conflict
    · exact SideKept.refl _ _
  acts w _ := by
    unfold releaseContests
    simp only [Bool.and_eq_true, Bool.or_eq_true, lineContested_one, trunkContested_one]
    by_cases hactive : (w.chan c).session.state.active = true
    · simp [hactive]
    · rw [conflict_inactive (Bool.eq_false_iff.2 hactive), if_neg fun h => hactive h.1, ite_self]

theorem rerouteOp_contestSecond : RerouteOp c (contestSecond n [(l, t)] c) where
  other w := by
    unfold contestSecond
    dsimp only
    split
    · exact sideKept_of_chan chan_other_rerouteClaim
    · exact SideKept.refl _ _
  idle w h := contestSecond_nothing_of_stage h

theorem rerouteOp_id : RerouteOp c fun s => s := ⟨fun _ => SideKept.refl _ _, fun _ _ => rfl⟩

/-- Both passes over both channels, channel A before channel B. -/
def passes (F G : Channel → State → State) (s : State) : State := G .b (G .a (F .b (F .a s)))

theorem ContestOp.claim {f : State → State} (hf : ContestOp l t c f) (h : (w.chan c).claim.stage ≠ .queued) :
    ((f w).chan c).claim = (w.chan c).claim := by
  rw [hf.acts w h]
  split
  · exact claim_conflict
  · rfl

/-- What the passes make of a session with no queued claim is what the first pass makes of it (R102). -/
theorem passes_side (hF : ∀ c, ContestOp l t c (F c)) (hG : ∀ c, RerouteOp c (G c))
    (h : (v.chan c).claim.stage ≠ .queued) :
    ∃ w, SideKept c v w ∧ SideKept c (F c w) (passes F G v) := by
  cases c with
  | a =>
    have hb : SideKept .a (F .a v) (F .b (F .a v)) := (hF .b).other _
    have hstage : ((F .b (F .a v)).chan .a).claim.stage ≠ .queued := by
      rw [hb.claim, (hF .a).claim h]
      exact h
    have hlast : SideKept .a (F .b (F .a v)) (passes F G v) := by
      rw [passes, (hG .a).idle _ hstage]
      exact (hG .b).other _
    exact ⟨v, SideKept.refl _ _, hb.trans hlast⟩
  | b =>
    have ha : SideKept .b v (F .a v) := (hF .a).other _
    have hstage : ((F .a v).chan .b).claim.stage ≠ .queued := by
      rw [ha.claim]
      exact h
    have hsecond : SideKept .b (F .b (F .a v)) (G .a (F .b (F .a v))) := (hG .a).other _
    have hlast : passes F G v = G .a (F .b (F .a v)) := by
      refine (hG .b).idle _ ?_
      rw [hsecond.claim, (hF .b).claim hstage]
      exact hstage
    exact ⟨F .a v, ha, by rw [hlast]; exact hsecond⟩

/-- With no claim queued the second passes do nothing. -/
theorem passes_unqueued (hF : ∀ c, ContestOp l t c (F c)) (hG : ∀ c, RerouteOp c (G c))
    (h : ∀ c, (v.chan c).claim.stage ≠ .queued) : passes F G v = F .b (F .a v) ∧
      ((F .a v).chan .b).claim.stage ≠ .queued ∧ ((F .a v).chan .b).session = (v.chan .b).session := by
  have ha : SideKept .b v (F .a v) := (hF .a).other _
  have hb : SideKept .a (F .a v) (F .b (F .a v)) := (hF .b).other _
  have hstage : ((F .a v).chan .b).claim.stage ≠ .queued := by
    rw [ha.claim]
    exact h .b
  refine ⟨?_, hstage, ha.session⟩
  rw [passes, (hG .a).idle _ (by rw [hb.claim, (hF .a).claim (h .a)]; exact h .a),
    (hG .b).idle _ (by rw [(hF .b).claim hstage]; exact hstage)]

/-- A session that the pair does not name, or that is in no active state, is passed over. -/
theorem ContestOp.passesOver {f : State → State} (hf : ContestOp l t c f) (hstage : (w.chan c).claim.stage ≠ .queued)
    (h : (w.chan c).session.state.active = false ∨
      ¬((w.chan c).session.line = l ∨ (w.chan c).session.trunk = t)) : f w = w := by
  rw [hf.acts w hstage]
  rcases h with h | h
  · rw [conflict_inactive h, ite_self]
  · rw [if_neg h]

theorem ContestOp.conflicts {f : State → State} (hf : ContestOp l t c f) (hstage : (w.chan c).claim.stage ≠ .queued)
    (h : (w.chan c).session.line = l ∨ (w.chan c).session.trunk = t) : f w = conflict c w := by
  rw [hf.acts w hstage, if_pos h]

/-- The passes meet one session alone. -/
theorem passes_one (hF : ∀ c, ContestOp l t c (F c)) (hG : ∀ c, RerouteOp c (G c))
    (h : ∀ c, (v.chan c).claim.stage ≠ .queued) (hother : (v.chan c.other).session.state.active = false ∨
      ¬((v.chan c.other).session.line = l ∨ (v.chan c.other).session.trunk = t)) : passes F G v = F c v := by
  obtain ⟨hpasses, hstage, hsession⟩ := passes_unqueued hF hG h
  cases c with
  | a => rw [hpasses, (hF .b).passesOver hstage (by rw [hsession]; exact hother)]
  | b => rw [hpasses, (hF .a).passesOver (h .a) hother]

end Passes

/-! ### What the pair does to both sessions -/

section Pair

variable {s v u w : State} {l : Line} {t : Trunk} {c : Channel} {F G : Channel → State → State}

theorem Reversed.of_side (h : Reversed c s v) (k : SideKept c v u) : Reversed c s u where
  outcome := by rw [k.seq, h.outcome]
  undriven := by rw [k.session]; exact h.undriven
  driven := by rw [k.session, k.seq]; exact h.driven
  abandoned := by rw [k.seq]; exact h.abandoned
  connected := by rw [k.session, k.seq]; exact h.connected
  measuring := by rw [k.measuring]; exact h.measuring

/-- The session of a channel is one the pair names, with no claim queued. -/
def Met (s : State) (l : Line) (t : Trunk) (c : Channel) : Prop :=
  (s.chan c).claim.stage ≠ .queued ∧ ((s.chan c).session.line = l ∨ (s.chan c).session.trunk = t)

/-- The state `s` of a channel's session as a conflict begins to reverse it in `r`: its outcome is fixed (R36). -/
def OutcomeFixed (s r : State) (c : Channel) : Prop := (r.chan c).session = (s.chan c).session ∧
  (r.chan c).seq = { (s.chan c).seq with outcome := some ((s.chan c).seq.outcome.getD .conflict) }

/-- The state `u` after a pair of `l` and `t` has met the own sessions in `s`, its link being `k` (R39, R102, R119,
R125). -/
structure MeetsPair (s : State) (k : Link) (l : Line) (t : Trunk) (u : State) : Prop where
  untouched : ∀ c, (s.chan c).claim.stage ≠ .queued → ¬Met s l t c ∨ (s.chan c).session.state.active = false →
    (u.chan c).session = (s.chan c).session
  reversed : ∀ c, Met s l t c → (s.chan c).session.state.active = true → ∃ r, OutcomeFixed s r c ∧ Reversed c r u
  blocked : ∀ c, Met s l t c → (s.chan c).session.state.active = true → (s.chan c).session.purpose ≠ .operator →
    (s.chan c.other).claim.stage ≠ .queued → ∀ j, s.auto.item = some j → j.outcome = none → j.aborted = false →
      u.auto.item = some { j with outcome := some .blocked }
  one : ∀ c, Met s l t c → (s.chan c).session.state = .claimed ∨
      (s.chan c).session.state = .deferred ∧ (s.chan c).session.relayStep = none →
    (s.chan c.other).claim.stage ≠ .queued →
    (s.chan c.other).session.state.active = false ∨ ¬Met s l t c.other → k.waiting = [] → k.queue.length < 12 →
      u.link = linkWith (.release (s.chan c).session.line (s.chan c).session.trunk) (some c) k
  both : (∀ c, Met s l t c ∧ ((s.chan c).session.state = .claimed ∨
      (s.chan c).session.state = .deferred ∧ (s.chan c).session.relayStep = none)) →
    k.waiting = [] → k.queue.length + 2 ≤ 12 →
      u.link = linkWith (.release (s.chan .b).session.line (s.chan .b).session.trunk) (some .b)
        (linkWith (.release (s.chan .a).session.line (s.chan .a).session.trunk) (some .a) k)

theorem stages_of (hc : (s.chan c).claim.stage ≠ .queued) (hother : (s.chan c.other).claim.stage ≠ .queued) (d : Channel) :
    (s.chan d).claim.stage ≠ .queued := by
  rcases channel_eq_or_other c d with rfl | rfl
  · exact hc
  · exact hother

theorem meetsPair_passes (hF : ∀ c, ContestOp l t c (F c)) (hG : ∀ c, RerouteOp c (G c)) :
    MeetsPair s s.link l t (passes F G s) where
  untouched c hstage h := by
    obtain ⟨w, hw, hlast⟩ := passes_side hF hG hstage
    rw [hlast.session, (hF c).passesOver (by rw [hw.claim]; exact hstage), hw.session]
    rw [hw.session]
    exact h.symm.imp_right fun hnot hpair => hnot ⟨hstage, hpair⟩
  reversed c hmet hactive := by
    obtain ⟨hstage, hpair⟩ := hmet
    obtain ⟨w, hw, hlast⟩ := passes_side hF hG hstage
    rw [(hF c).conflicts (by rw [hw.claim]; exact hstage) (by rw [hw.session]; exact hpair)] at hlast
    obtain ⟨hreversed, hchan⟩ := conflict_reverses (c := c) (s := w) (by rw [hw.session]; exact hactive)
    refine ⟨conflictTold c w, ⟨?_, ?_⟩, hreversed.of_side hlast⟩
    · rw [hchan, hw.session]
    · rw [hchan, hw.seq]
  blocked c hmet hactive hp hother j hj hopen hleft := by
    obtain ⟨hstage, hpair⟩ := hmet
    obtain ⟨hpasses, hbstage, hbsession⟩ := passes_unqueued hF hG (stages_of hstage hother)
    have hkeeps : ∀ (d : Channel) (w : State), (w.chan d).claim.stage ≠ .queued →
        (w.auto.item = some { j with outcome := some .blocked } →
          (F d w).auto.item = some { j with outcome := some .blocked }) ∧
        (w.auto.item = some j → (F d w).auto.item = some j ∨
          (F d w).auto.item = some { j with outcome := some .blocked }) := by
      intro d w hw
      rw [(hF d).acts w hw]
      split
      · exact ⟨(item_conflict hopen hleft).2.2, (item_conflict hopen hleft).2.1⟩
      · exact ⟨id, .inl⟩
    rw [hpasses]
    cases c with
    | a =>
      refine (hkeeps .b _ hbstage).1 ?_
      rw [(hF .a).conflicts hstage hpair]
      exact (item_conflict hopen hleft).1 hactive hp (.inl hj)
    | b =>
      rw [(hF .b).conflicts hbstage (by rw [hbsession]; exact hpair)]
      exact (item_conflict hopen hleft).1 (by rw [hbsession]; exact hactive) (by rw [hbsession]; exact hp)
        ((hkeeps .a s hother).2 hj)
  one c hmet hclosing hother hpassed hwaiting hslots := by
    obtain ⟨hstage, hpair⟩ := hmet
    rw [passes_one hF hG (stages_of hstage hother) (hpassed.imp_right fun hnot hpair => hnot ⟨hother, hpair⟩),
      (hF c).conflicts hstage hpair, link_conflict_closing hclosing ⟨hwaiting, hslots⟩]
  both hall hwaiting hslots := by
    obtain ⟨⟨hastage, hapair⟩, haclosing⟩ := hall .a
    obtain ⟨⟨hbstage, hbpair⟩, hbclosing⟩ := hall .b
    obtain ⟨hpasses, hstage, hsession⟩ := passes_unqueued hF hG (stages_of (c := .a) hastage hbstage)
    have hlink : (F .a s).link =
        linkWith (.release (s.chan .a).session.line (s.chan .a).session.trunk) (some .a) s.link := by
      rw [(hF .a).conflicts hastage hapair]
      exact link_conflict_closing haclosing ⟨hwaiting, by omega⟩
    rw [hpasses, (hF .b).conflicts hstage (by rw [hsession]; exact hbpair), link_conflict_closing
      (by rw [hsession]; exact hbclosing) ⟨by rw [hlink]; exact hwaiting, by rw [hlink]; simp [linkWith]; omega⟩, hsession,
      hlink]

/-- What meets the sessions of `v` meets those of a state that has the same. -/
theorem MeetsPair.of_frame {k : Link} (h : MeetsPair v k l t w) (hchan : ∀ c, v.chan c = s.chan c)
    (hitem : v.auto.item = s.auto.item) (hu : ∀ c, u.chan c = w.chan c) (huitem : u.auto.item = w.auto.item)
    (hulink : u.link = w.link) : MeetsPair s k l t u where
  untouched := by simpa only [Met, hchan, hu] using h.untouched
  reversed c := by
    have hc := h.reversed c
    simp only [Met, OutcomeFixed, hchan] at hc ⊢
    intro hmet hactive
    obtain ⟨r, hfixed, hreversed⟩ := hc hmet hactive
    exact ⟨r, hfixed, hreversed.of_side (sideKept_of_chan (hu c))⟩
  blocked := by simpa only [Met, hchan, hitem, huitem] using h.blocked
  one := by simpa only [Met, hchan, hulink] using h.one
  both := by simpa only [Met, hchan, hulink] using h.both

end Pair

end Sys2Proof.Machine
end

section
/-! PROOFS. The frames that show a pair another station holds, and the queued claims they withdraw (R102, R119 to R122):
settles O42. -/

namespace Sys2Proof.Machine

/-! ### The frames -/

section Frames

variable {s : State} {l : Line} {t : Trunk} {c d : Channel} {n : Station} {b : FrameBody} {p : Purpose}

theorem monitorClaim_frame {own : Bool} : (monitorClaim own n l t p c s).chan d = s.chan d ∧
    (monitorClaim own n l t p c s).auto = s.auto ∧ (monitorClaim own n l t p c s).link = s.link := by
  have hhit : ∀ v : State, (emitWatchHit l n c p v).chan d = v.chan d ∧ (emitWatchHit l n c p v).auto = v.auto ∧
      (emitWatchHit l n c p v).link = v.link := by
    intro v
    unfold emitWatchHit
    split
    · exact ⟨rfl, rfl, rfl⟩
    · exact ⟨emit_chan _ _ _, emit_auto _ _, emit_link _ _⟩
  unfold monitorClaim
  split
  · obtain ⟨hchan, hauto, hlink⟩ := hhit (captureMatch ⟨n, p, t, c, s.store.clock⟩ s)
    refine ⟨hchan.trans ?_, hauto, hlink⟩
    cases d <;> rfl
  · exact ⟨rfl, rfl, rfl⟩

/-- The state as a CLAIM heard is in its sender's holdings (R97, R98). -/
def claimNoted (n : Station) (l : Line) (t : Trunk) (p : Purpose) (s : State) : State := { s.answered with
  roster := rosterWith n
    (fun q => { q with lastHeard := s.now, holdings := addHolding ⟨l, t, p⟩ q.holdings }) s.roster }

@[simp] theorem chan_claimNoted : (claimNoted n l t p s).chan c = s.chan c := by cases c <;> rfl

theorem exec_claimHeard (h : Heard s n (.claim l t p c)) : exec (.claimTaken n l t p c) s =
    .next (monitorClaim false n l t p c (contest n [(l, t)] (claimNoted n l t p s))) := by
  obtain ⟨q, -, hexec⟩ := exec_heard h rfl
  refine hexec.trans (congrArg _ ?_)
  rw [applyFrame, takeClaim, updatePeer_heard]
  rfl

/-- A PRESENCE that lists the quiet blocks of the entry before it adds none and ends none (R101). -/
theorem presence_sameQuiets {q : Peer} : presenceEnds q (q.quiets.map (·.block)) = [] ∧
    presenceAdds s q (q.quiets.map (·.block)) = [] := by
  refine ⟨List.filter_eq_nil_iff.2 fun b hb => by simpa using hb, List.filter_eq_nil_iff.2 fun b hb => ?_⟩
  have hlisted : b ∈ q.quiets.map (·.block) := by
    rw [presenceQuiets, List.map_append, List.mem_append, List.map_map] at hb
    rcases hb with hb | hb
    · obtain ⟨x, hx, rfl⟩ := List.mem_map.1 hb
      exact List.mem_map_of_mem (List.mem_filter.1 hx).1
    · obtain ⟨x, hx, rfl⟩ := List.mem_map.1 hb
      exact (List.mem_filter.1 hx).1
  obtain ⟨x, hx, rfl⟩ := List.mem_map.1 hlisted
  simp only [Bool.not_eq_true', List.any_eq_true, beq_iff_eq, Bool.not_eq_false]
  exact ⟨x, hx, rfl⟩

/-- A frame heard that shows a pair meets both own sessions with it (R102, R119, R125). -/
theorem showsPair_meets (h : Heard s n b) (hshows : ShowsPair s n l t b) :
    ∃ u, exec (frameRow n b) s = .next u ∧ MeetsPair s s.answered.link l t u := by
  have hcontest : ∀ v : State, MeetsPair v v.link l t (contest n [(l, t)] v) := fun v =>
    meetsPair_passes (fun _ => contestOp_contestFirst) fun _ => rerouteOp_contestSecond
  have hrelease : ∀ v : State, MeetsPair v v.link l t (releaseContests (l, t) .b (releaseContests (l, t) .a v)) := fun v =>
    meetsPair_passes (G := fun _ s => s) (fun _ => contestOp_releaseContests) fun _ => rerouteOp_id
  rcases hshows with ⟨p, c, rfl⟩ | rfl | ⟨j, p, q, rfl, hq, hj⟩
  · refine ⟨_, exec_claimHeard h, (hcontest (claimNoted n l t p s)).of_frame (fun _ => chan_claimNoted) rfl
      (fun _ => monitorClaim_frame.1) ?_ (monitorClaim_frame (d := .a)).2.2⟩
    rw [(monitorClaim_frame (d := .a)).2.1]
  · obtain ⟨q, -, hexec⟩ := exec_heard h rfl
    refine ⟨_, hexec, ?_⟩
    exact (hrelease (updatePeer n (fun q => { q with holdings := removeHolding l t q.holdings }) (s.heard n))).of_frame
      (fun _ => by rw [chan_updatePeer, chan_heard]) rfl (fun _ => rfl) rfl rfl
  · obtain ⟨hends, hadds⟩ := presence_sameQuiets (s := s.heard n) (q := { q with lastHeard := s.now })
    refine ⟨_, exec_heard_of h hq hj, ?_⟩
    have htake : takePresence n j [⟨l, t, p⟩] (q.quiets.map (·.block)) { q with lastHeard := s.now } (s.heard n) =
        contest n [(l, t)] (replacePeer n j [⟨l, t, p⟩] (q.quiets.map (·.block)) (s.heard n)) := by
      rw [takePresence]
      dsimp only at hends hadds ⊢
      rw [hends, hadds, if_neg (by rcases hj with hj | hj <;> simp [hj])]
      rfl
    rw [applyFrame, htake]
    have hmeets := hcontest (replacePeer n j [⟨l, t, p⟩] (q.quiets.map (·.block)) (s.heard n))
    exact hmeets.of_frame (fun _ => by rw [replacePeer, chan_updatePeer, chan_heard]) rfl (fun _ => rfl) rfl rfl

end Frames

/-! ### Queued claims -/

section Queued

variable {s v : State} {l : Line} {t r : Trunk} {c : Channel} {n : Station} {f g : QueuedFrame} {o : ChannelOutcome}

theorem contestFirst_ends (hstage : (s.chan c).claim.stage = .queued) (h : (s.chan c).session.line = l ∨
    (s.chan c).session.purpose ≠ .operator ∧ (s.chan c).session.trunk = t) :
    contestFirst n [(l, t)] c s = endClaim c .claimLost (some n) s := by
  refine (if_pos hstage).trans ?_
  simp only [lineContested_one, Bool.and_eq_true, trunkContested_one, purpose_automatic_iff]
  by_cases hl : (s.chan c).session.line = l
  · rw [if_pos hl]
  · rw [if_neg hl, if_pos ((h.resolve_left hl).symm)]

theorem contestFirst_leaves (hstage : (s.chan c).claim.stage = .queued) (hl : (s.chan c).session.line ≠ l)
    (hp : (s.chan c).session.purpose = .operator) : contestFirst n [(l, t)] c s = s := by
  refine (if_pos hstage).trans ?_
  simp only [lineContested_one, Bool.and_eq_true, trunkContested_one, purpose_automatic_iff]
  rw [if_neg hl, if_neg fun h => h.2 hp]

theorem contestSecond_reroutes (hstage : (s.chan c).claim.stage = .queued) (ht : (s.chan c).session.trunk = t) :
    contestSecond n [(l, t)] c s = rerouteClaim c (some n) s :=
  if_pos (by rw [hstage, (trunkContested_one _).2 ht]; rfl)

/-- The passes over one channel, the other having neither a queued claim nor an active session. -/
theorem contest_alone (hother : (s.chan c.other).claim.stage ≠ .queued)
    (hinactive : (s.chan c.other).session.state.active = false) :
    contest n [(l, t)] s = contestSecond n [(l, t)] c (contestFirst n [(l, t)] c s) := by
  have hkept : SideKept c.other s (contestFirst n [(l, t)] c s) := contestOp_contestFirst.other s
  have hlast : SideKept c.other (contestFirst n [(l, t)] c s) (contestSecond n [(l, t)] c (contestFirst n [(l, t)] c s)) :=
    rerouteOp_contestSecond.other _
  have hfirst : contestFirst n [(l, t)] c.other s = s := contestFirst_nothing (.inl ⟨hother, hinactive⟩)
  have hfirst' : contestFirst n [(l, t)] c.other (contestFirst n [(l, t)] c s) = contestFirst n [(l, t)] c s :=
    contestFirst_nothing (.inl ⟨by rw [hkept.claim]; exact hother, by rw [hkept.session]; exact hinactive⟩)
  have hsecond : contestSecond n [(l, t)] c.other (contestFirst n [(l, t)] c s) = contestFirst n [(l, t)] c s :=
    contestSecond_nothing_of_stage (by rw [hkept.claim]; exact hother)
  have hsecond' : contestSecond n [(l, t)] c.other (contestSecond n [(l, t)] c (contestFirst n [(l, t)] c s)) =
      contestSecond n [(l, t)] c (contestFirst n [(l, t)] c s) :=
    contestSecond_nothing_of_stage (by rw [hlast.claim, hkept.claim]; exact hother)
  cases c with
  | a => exact (congrArg (fun w => contestSecond n [(l, t)] .b (contestSecond n [(l, t)] .a w)) hfirst').trans hsecond'
  | b =>
    rw [contest]
    rw [show contestFirst n [(l, t)] .a s = s from hfirst]
    exact congrArg _ hsecond

/-- A claim that the pair ends is not re-routed after it (R119). -/
theorem contestSecond_endClaim (hf : s.link.claimFrame c = some f) :
    contestSecond n [(l, t)] c (endClaim c o (some n) s) = endClaim c o (some n) s := by
  refine contestSecond_nothing_of_stage ?_
  rw [(endClaim_frame hf).2.2.1]
  decide

/-- An operator's claim that ends by its line completes its ACCESS with CLAIM-LOST (R120). -/
theorem endClaim_access (hp : (s.chan c).session.purpose = .operator) (hf : s.link.claimFrame c = some f)
    (hcancel : (s.chan c).session.cancelPending = false) (hcmd : (s.chan c).command = some .access)
    (hdone : s.done c = false) : (endClaim c o (some n) s).port =
      portWith { kind := .accessDone, channel := some c, line := some (s.chan c).session.line.val
                 trunk := some (s.chan c).session.trunk, outcome := some (.channel o), station := some n } s ∧
      (endClaim c o (some n) s).busy c = false := by
  rw [endClaim_operator hp hf, hcancel, if_neg Bool.false_ne_true,
    finishSession_access (by rw [chan_removeFrame]; exact hp) (by rw [chan_removeFrame]; exact hcmd),
    complete_of_free (by rw [done_of_port (s := s) (by rw [port_clearSession, port_removeFrame])]; exact hdone)]
  refine ⟨?_, ?_⟩
  · rw [port_setCommand, enterEvent, portWith]
    simp [completionOf]
  · simp [State.busy, Session.isAutomatic, idleSession]

end Queued

/-! ### Two queued claims -/

section TwoQueued

variable {s v w : State} {k : Link} {l : Line} {t r : Trunk} {c d : Channel} {n : Station} {f g : QueuedFrame}

theorem claimFrame_origin (h : k.claimFrame c = some f) : f.origin = some c := by
  have hfound := List.find?_some h
  simp only [Bool.and_eq_true, beq_iff_eq] at hfound
  exact hfound.1

/-- The frames of two channels' claims are two. -/
theorem claimFrame_entry_ne (hl : LinkOk k) (hf : k.claimFrame c = some f) (hg : k.claimFrame c.other = some g) :
    g.entry ≠ f.entry := by
  intro he
  have hsame : g = f := frame_unique hl (claimFrame_mem hf) (claimFrame_mem hg) he
  have hgorigin := claimFrame_origin hg
  rw [hsame, claimFrame_origin hf] at hgorigin
  cases c <;> cases hgorigin

/-- A queued claim is found as before once another frame has left. -/
theorem claimFrame_filter (hg : k.claimFrame d = some g) (hne : g.entry ≠ f.entry) :
    ({ k with queue := k.queue.filter (·.entry != f.entry) } : Link).claimFrame d = some g := by
  unfold Link.claimFrame Link.channelFrame at hg ⊢
  obtain ⟨hgood, before, after, hqueue, hbefore⟩ := List.find?_eq_some_iff_append.1 hg
  refine List.find?_eq_some_iff_append.2 ⟨hgood, before.filter (·.entry != f.entry), after.filter (·.entry != f.entry), ?_,
    fun x hx => hbefore x (List.mem_filter.1 hx).1⟩
  simp [hqueue, hne]

/-- Route choice looks at the sessions that are not IDLE alone (R7). -/
theorem chooseRoute_of_idle (hstore : w.store = v.store) (hroster : w.roster = v.roster)
    (hc : (w.chan c).session.state = .idle) (hother : w.chan c.other = v.chan c.other) (m : Line) :
    chooseRoute w m = chooseRoute (v.updSession c fun x => { x with state := .idle }) m := by
  have hsessions : ∀ t, (∀ d, (w.chan d).session.state ≠ .idle → (w.chan d).session.trunk ≠ t) ↔
      ∀ d, ((v.updSession c fun x => { x with state := .idle }).chan d).session.state ≠ .idle →
        ((v.updSession c fun x => { x with state := .idle }).chan d).session.trunk ≠ t := by
    refine fun t => forall_congr' fun d => ?_
    rcases channel_eq_or_other c d with rfl | rfl
    · simp [hc]
    · rw [hother, chan_updSession_other]
  have hfree : ∀ e t, trunkFree w e t = trunkFree (v.updSession c fun x => { x with state := .idle }) e t := by
    intro e t
    rw [Bool.eq_iff_iff, trunkFree_iff, trunkFree_iff, hsessions,
      trunkEntry_of_store (r := v.updSession c fun x => { x with state := .idle }) (by rw [hstore, store_updSession]),
      hroster, roster_updSession]
  unfold chooseRoute
  rw [show w.blockEntry (blockOf m) = (v.updSession c fun x => { x with state := .idle }).blockEntry (blockOf m) from by
    rw [State.blockEntry, State.blockEntry, hstore, store_updSession]]
  simp only [funext (hfree _)]

/-- Of two queued claims, the one that ends frees its trunk before the other is re-routed (R119 to R121). -/
theorem contest_two (hc : (v.chan c).claim.stage = .queued) (hends : (v.chan c).session.line = l ∨
      (v.chan c).session.purpose ≠ .operator ∧ (v.chan c).session.trunk = t)
    (hf : v.link.claimFrame c = some f) (ho : (v.chan c.other).claim.stage = .queued)
    (hp : (v.chan c.other).session.purpose = .operator) (hl : (v.chan c.other).session.line ≠ l)
    (ht : (v.chan c.other).session.trunk = t) :
    contest n [(l, t)] v = rerouteClaim c.other (some n) (endClaim c .claimLost (some n) v) := by
  have hgone : ((endClaim c .claimLost (some n) v).chan c).claim.stage ≠ .queued := by
    rw [(endClaim_frame hf).2.2.1]
    decide
  have hkept : (endClaim c .claimLost (some n) v).chan c.other = v.chan c.other := chan_other_endClaim
  have hleaves : contestFirst n [(l, t)] c.other (endClaim c .claimLost (some n) v) =
      endClaim c .claimLost (some n) v :=
    contestFirst_leaves (by rw [hkept, ho]) (by rw [hkept]; exact hl) (by rw [hkept, hp])
  have hreroutes : contestSecond n [(l, t)] c.other (endClaim c .claimLost (some n) v) =
      rerouteClaim c.other (some n) (endClaim c .claimLost (some n) v) :=
    contestSecond_reroutes (by rw [hkept, ho]) (by rw [hkept, ht])
  cases c with
  | a =>
    rw [contest, contestFirst_ends hc hends, show contestFirst n [(l, t)] .b (endClaim .a .claimLost (some n) v) =
      endClaim .a .claimLost (some n) v from hleaves, contestSecond_nothing_of_stage hgone]
    exact hreroutes
  | b =>
    have hlast : ((rerouteClaim .a (some n) (endClaim .b .claimLost (some n) v)).chan .b).claim.stage ≠ .queued := by
      rw [show (rerouteClaim .a (some n) (endClaim .b .claimLost (some n) v)).chan .b =
        (endClaim .b .claimLost (some n) v).chan .b from chan_other_rerouteClaim (c := .a)]
      exact hgone
    rw [contest, show contestFirst n [(l, t)] .a v = v from contestFirst_leaves ho hl hp, contestFirst_ends hc hends,
      show contestSecond n [(l, t)] .a (endClaim .b .claimLost (some n) v) =
        rerouteClaim .a (some n) (endClaim .b .claimLost (some n) v) from hreroutes,
      contestSecond_nothing_of_stage hlast]
    rfl

/-- The row CLAIM_TAKEN where the watch is not in MONITOR (R102, R119). -/
theorem exec_claimTaken_contest {p : Purpose} {e : Channel} (h : Heard s n (.claim l t p e))
    (hwatch : s.watch.op ≠ .monitor) :
    exec (.claimTaken n l t p e) s = .next (contest n [(l, t)] (claimNoted n l t p s)) := by
  have hop : (contest n [(l, t)] (claimNoted n l t p s)).watch.op = s.watch.op :=
    (aside_contest.2 (Aside.refl _)).watch.1
  rw [exec_claimHeard h, monitorClaim_off (by rw [hop]; exact hwatch)]

/-- A claim withdrawn by a pair that another station holds, the other session untouched (R12, R119 to R122). -/
theorem contest_withdraws (hc : (v.chan c).claim.stage = .queued) (hf : v.link.claimFrame c = some f)
    (hother : (v.chan c.other).claim.stage ≠ .queued) (hinactive : (v.chan c.other).session.state.active = false)
    (h : (v.chan c).session.purpose = .operator ∧ (v.chan c).session.line ≠ l ∧ (v.chan c).session.trunk = t ∨
      (v.chan c).session.purpose ≠ .operator ∧ ((v.chan c).session.line = l ∨ (v.chan c).session.trunk = t)) :
    ClaimWithdrawn v c f (some n) (contest n [(l, t)] v) := by
  have hwithdrawn := claimWithdrawn_withdrawClaim (n := some n) hf
  rw [contest_alone hother hinactive]
  rcases h with ⟨hp, hl, ht⟩ | ⟨hp, hpair⟩
  · rw [contestFirst_leaves hc hl hp, contestSecond_reroutes hc ht, ← withdrawClaim_operator hp]
    exact hwithdrawn
  · rw [contestFirst_ends hc (hpair.imp_right fun ht => ⟨hp, ht⟩), contestSecond_endClaim hf]
    have hsame : endClaim c .claimLost (some n) v = endClaim c .noTrunk (some n) v := by
      rw [endClaim_automatic hp hf, endClaim_automatic hp hf, finishSession_automatic (by simpa using hp),
        finishSession_automatic (by simpa using hp)]
    rw [hsame, ← withdrawClaim_automatic hp]
    exact hwithdrawn

end TwoQueued

/-- Settles O42: `contest_withdraws` and `contest_two` for the queued claims, `showsPair_meets` for the active sessions. -/
theorem foreignClaimsMeetOwnSessions : Obligations.ForeignClaimsMeetOwnSessions := by
  refine ⟨fun s n l t p k c f h hwatch hstage hf => ?_, fun s n l t b h hshows => ?_⟩
  · intro x v
    have hchan : ∀ d, v.chan d = s.chan d := fun d => chan_claimNoted (n := n) (l := l) (t := t) (p := p)
    have hvf : v.link.claimFrame c = some f := hf
    have hexec : exec (.claimTaken n l t p k) s = .next (contest n [(l, t)] v) := exec_claimTaken_contest h hwatch
    refine ⟨fun hother hinactive => ⟨fun hp hcancel hl hcmd hdone => ⟨_, hexec, ?_⟩, fun hpair => ⟨_, hexec, ?_⟩⟩,
      fun g r hostage hg hok hends hop hol hot hroute => ⟨_, hexec, ?_⟩⟩
    · rw [contest_alone (by rw [hchan]; exact hother) (by rw [hchan]; exact hinactive),
        contestFirst_ends (by rw [hchan, hstage]) (.inl (by rw [hchan]; exact hl)), contestSecond_endClaim hvf]
      obtain ⟨-, hsession, hclaim, hlink, -, -⟩ := endClaim_frame (n := some n) (o := .claimLost) hvf
      obtain ⟨hport, hbusy⟩ := endClaim_access (n := n) (o := .claimLost) (by rw [hchan]; exact hp) hvf
        (by rw [hchan]; exact hcancel) (by rw [hchan, hcmd]) (show v.done c = false from hdone)
      refine ⟨by rw [hsession]; rfl, by rw [hclaim]; rfl, by rw [hlink]; rfl, ?_, hbusy⟩
      rw [hport, hchan]
      exact congrArg (fun m => portWith { kind := .accessDone, channel := some c, line := some (Fin.val m)
                                          trunk := some x.trunk, outcome := some (.channel .claimLost)
                                          station := some n } v) hl
    · refine contest_withdraws (by rw [hchan, hstage]) hvf (by rw [hchan]; exact hother) (by rw [hchan]; exact hinactive) ?_
      rw [hchan]
      exact hpair
    · rw [contest_two (by rw [hchan, hstage]) (by rw [hchan]; exact hends) hvf (by rw [hchan, hostage])
        (by rw [hchan, hop]) (by rw [hchan]; exact hol) (by rw [hchan, hot])]
      obtain ⟨hkept, hsession, hclaim, hlink, hstore, hroster⟩ := endClaim_frame (n := some n) (o := .claimLost) hvf
      have hne : g.entry ≠ f.entry := claimFrame_entry_ne hok hf hg
      have hwg : (endClaim c .claimLost (some n) v).link.claimFrame c.other = some g := by
        rw [hlink]
        exact claimFrame_filter hg hne
      have hwr : chooseRoute (endClaim c .claimLost (some n) v)
          ((endClaim c .claimLost (some n) v).chan c.other).session.line = .trunk r := by
        rw [chooseRoute_of_idle hstore hroster (by rw [hsession]; rfl) hkept, hkept, hchan, hroute]
      have hkeptc : ∀ w : State, (rerouteClaim c.other (some n) w).chan c = w.chan c := fun w => by
        have hback := chan_other_rerouteClaim (c := c.other) (n := some n) (s := w)
        rwa [other_other] at hback
      refine ⟨by rw [hkeptc, hsession]; rfl, by rw [hkeptc, hclaim]; rfl, ?_, ?_, ?_⟩
      · rw [rerouteClaim_taken hwr hwg]
        simp [hkept, hchan, hostage]
      · rw [rerouteClaim_taken hwr hwg]
        simp [hkept, hchan]
      · rw [rerouteClaim_taken hwr hwg, hkept, hchan, hop, link_updLink, link_updSession, hlink]
        refine congrArg (· ++ _) ((List.filter_filter ..).trans (List.filter_congr fun q _ => ?_))
        by_cases hqf : q.entry = f.entry <;> by_cases hqg : q.entry = g.entry <;> simp [hqf, hqg]
  · obtain ⟨u, hexec, hmeets⟩ := showsPair_meets h hshows
    intro met claimed release
    refine ⟨u, hexec, fun c => ⟨hmeets.untouched c, fun hmet => ?_⟩, fun c hclaimed hother hpassed hroom => ?_,
      fun ha hb hwaiting hslots => ?_⟩
    · have hreversed : (s.chan c).session.state.active = true → ∃ r, OutcomeFixed s r c ∧ Reversed c r u :=
        hmeets.reversed c hmet
      refine ⟨fun hlive => ?_, fun hclaimed => ?_, fun m hstate hm => ?_, fun hstate => ?_, hmeets.blocked c hmet⟩
      · obtain ⟨r, ⟨-, hseq⟩, hends⟩ := hreversed hlive
        rw [hends.outcome, hseq]
      · have hclosing := hclaimed.2
        obtain ⟨r, ⟨hsession, -⟩, hends⟩ := hreversed (by rcases hclosing with h | ⟨h, -⟩ <;> rw [h] <;> rfl)
        rw [hends.undriven (by rw [hsession]; exact hclosing), hsession]
      · obtain ⟨r, ⟨hsession, hseq⟩, hends⟩ := hreversed (by rcases hstate with h | h <;> rw [h] <;> rfl)
        obtain ⟨hnow, hreleasing⟩ := hends.driven m (by rw [hsession]; exact hstate) (by rw [hsession]; exact hm)
        refine ⟨by rw [hnow, hsession], hreleasing, fun hconnecting hoperates htaken => ?_⟩
        rw [hends.abandoned m (by rw [hsession]; exact hconnecting) (by rw [hsession]; exact hm) hoperates
          (by rw [hseq]; exact htaken), hsession]
      · obtain ⟨r, ⟨hsession, -⟩, hends⟩ := hreversed (by rcases hstate with h | h <;> rw [h] <;> rfl)
        obtain ⟨hnow, hreleasing⟩ := hends.connected (by rw [hsession]; exact hstate)
        exact ⟨by rw [hnow, hsession], hreleasing, fun hmeasuring => hends.measuring (by rw [hsession]; exact hmeasuring)⟩
    · exact hmeets.one c hclaimed.1 hclaimed.2 hother hpassed hroom.1 hroom.2
    · refine hmeets.both (fun c => ?_) hwaiting hslots
      cases c with
      | a => exact ha
      | b => exact hb

end Sys2Proof.Machine
end

section
/-! PROOFS. Changes of one ticket, and what a note carries and does as its attempt ends (R151, R152): settles O48. -/

namespace Sys2Proof.Machine

/-! ### Changes of one ticket -/

section Change

variable {ts : TicketStore} {n : TicketNo} {t : Ticket} {f g : Ticket → Ticket}

/-- A store that keeps its numbers apart has one ticket of a number (R143). -/
theorem ticket_of_number (h : TicketsOk ts) (ht : ts.byNumber n = some t) {u : Ticket} (hu : u ∈ ts.tickets)
    (hn : u.number = n) : u = t := by
  obtain ⟨hmem, hnumber⟩ := byNumber_mem ht
  exact same_of_key h.numbers hu hmem (hn.trans hnumber.symm)

/-- A change of the ticket with a number is told by what it makes of that ticket. -/
theorem updateTicket_congr (h : TicketsOk ts) (ht : ts.byNumber n = some t) (hfg : f t = g t) :
    updateTicket n f ts = updateTicket n g ts := by
  have hmap : (ts.tickets.map fun u => if u.number = n then f u else u) =
      ts.tickets.map fun u => if u.number = n then g u else u := by
    refine List.map_congr_left fun u hu => ?_
    by_cases hn : u.number = n
    · rw [if_pos hn, if_pos hn, ticket_of_number h ht hu hn, hfg]
    · rw [if_neg hn, if_neg hn]
  rw [updateTicket, updateTicket, hmap]

theorem updateTicket_updateTicket (hg : ∀ u, u.number = n → (g u).number = n) :
    updateTicket n f (updateTicket n g ts) = updateTicket n (fun u => f (g u)) ts := by
  have hmap : ((ts.tickets.map fun u => if u.number = n then g u else u).map fun u => if u.number = n then f u else u) =
      ts.tickets.map fun u => if u.number = n then f (g u) else u := by
    rw [List.map_map]
    refine List.map_congr_left fun u _ => ?_
    by_cases hn : u.number = n
    · simp [hn, hg u hn]
    · simp [hn]
  rw [updateTicket, updateTicket, updateTicket, hmap]

theorem isOpen_eq (t : Ticket) : t.isOpen = decide (t.state ≠ .cleared) := by
  cases h : t.state <;> simp [Ticket.isOpen, h]

theorem noteEntryOf_eq (t : Ticket) : noteEntryOf t = ⟨t.line, t.number, decide (t.state ≠ .cleared), t.cls⟩ := by
  rw [noteEntryOf, isOpen_eq]

end Change

/-! ### Notes -/

section Notes

variable {s : State} {ts : TicketStore} {t : Ticket} {e : NoteEntry} {es : List NoteEntry} {k : Nat} {w : Attempt}
  {f : QueuedFrame}

/-- A note is given the first four entries of the closed-note list and the marked tickets (R152). -/
theorem noteEntries_eq : noteEntries ts = ((ts.closedNotes ++
    (ts.tickets.filter fun t => t.announcePending && !t.noteHeldBack).map noteEntryOf).take 4,
      min 4 ts.closedNotes.length) := by
  have hrest : 4 - (ts.closedNotes.take 4).length = 4 - ts.closedNotes.length := by
    rw [List.length_take]
    omega
  rw [noteEntries, List.take_append, hrest, List.length_take]

/-- A ticket after the open entries of a note that has been taken (R152). -/
def ticketNoted (es : List NoteEntry) (t : Ticket) : Ticket := { t with
  noteTaken := t.noteTaken || decide (∃ e ∈ es, e.number = t.number ∧ e.isOpen = true)
  announcePending := t.announcePending && decide (noteEntryOf t ∉ es) }

theorem noteEntryOf_ticketNoted : noteEntryOf (ticketNoted es t) = noteEntryOf t := rfl

theorem ticketNoted_nil : ticketNoted [] t = t := by
  simp [ticketNoted]

/-- What the first entry of a note does to a ticket, and then the others. -/
theorem ticketNoted_cons : ticketNoted (e :: es) t = ticketNoted es (if t.number = e.number then { t with
    noteTaken := t.noteTaken || e.isOpen
    announcePending := t.announcePending && noteEntryOf t != e } else t) := by
  by_cases hn : t.number = e.number
  · rw [if_pos hn]
    have hentry : noteEntryOf { t with
        noteTaken := t.noteTaken || e.isOpen
        announcePending := t.announcePending && noteEntryOf t != e } = noteEntryOf t := rfl
    rw [ticketNoted, ticketNoted, hentry]
    have hor : (∃ x ∈ e :: es, x.number = t.number ∧ x.isOpen = true) ↔
        e.isOpen = true ∨ ∃ x ∈ es, x.number = t.number ∧ x.isOpen = true := by
      simp [hn]
    congr 1
    · by_cases he : noteEntryOf t = e
      · simp [he]
      · simp [he, bne_iff_ne.2 he]
    · rw [decide_eq_decide.2 hor, Bool.decide_or, Bool.decide_eq_true, Bool.or_assoc]
  · rw [if_neg hn]
    have hne : noteEntryOf t ≠ e := fun h => hn (congrArg NoteEntry.number h)
    have hnn : e.number ≠ t.number := fun h => hn h.symm
    simp [ticketNoted, hne, hnn]

theorem foldl_entryTaken (es : List NoteEntry) (ts : TicketStore) : es.foldl (fun r e => entryTaken e r) ts =
    { ts with tickets := ts.tickets.map (ticketNoted es) } := by
  induction es generalizing ts with
  | nil =>
    have hid : ts.tickets.map (ticketNoted []) = ts.tickets := by
      refine (List.map_congr_left fun t _ => ticketNoted_nil).trans (List.map_id _)
    rw [List.foldl_nil, hid]
  | cons e es ih =>
    rw [List.foldl_cons, ih, entryTaken, updateTicket, List.map_map]
    congr 1
    refine List.map_congr_left fun t _ => ?_
    rw [ticketNoted_cons]
    rfl

theorem noteTaken_eq : noteTaken es k ts = { ts with
    closedNotes := ts.closedNotes.filter (· ∉ es.take k)
    tickets := ts.tickets.map (ticketNoted (es.drop k)) } := by
  have hclosed : (ts.closedNotes.filter fun e => !(es.take k).contains e) = ts.closedNotes.filter (· ∉ es.take k) := by
    refine List.filter_congr fun e _ => ?_
    rw [List.contains_eq_mem, decide_not]
  rw [noteTaken, foldl_entryTaken, hclosed]

theorem ownFrameTaken_note {o : Option Channel} (hw : w.body = .ticketNote es) :
    ownFrameTaken w o s = s.updTickets (noteTaken es w.fromClosedList) := by
  unfold ownFrameTaken
  rw [hw]

theorem attemptWithdrawn_noteMark (hbody : f.body = .noteMark) : attemptWithdrawn f s = false := by
  unfold attemptWithdrawn
  rw [hbody]

theorem ownFrameDropped_noteMark {o : Option Channel} : ownFrameDropped .noteMark o s = s := rfl

end Notes

/-- Settles O48: `noteEntries_eq`, and `noteTaken_eq` for the note taken. -/
theorem notesCarryWhatIsPending : Obligations.NotesCarryWhatIsPending := by
  refine ⟨fun ts => ?_, fun s f es k hw hl hf hbody hfarewell => ?_⟩
  · have hentry : noteEntryOf = fun t : Ticket => (⟨t.line, t.number, decide (t.state ≠ .cleared), t.cls⟩ : NoteEntry) :=
      funext noteEntryOf_eq
    rw [noteEntries_eq, hentry]
  · have h : OnWire s ⟨f.entry, .ticketNote es, k⟩ f := ⟨hw, hl, hf, rfl⟩
    have hleft : removeFrame f (clearWire s) = _ := removeFrame_eq
    refine ⟨?_, fun hvoids => ⟨setLinkError (removeFrame f (clearWire s)),
      (exec_ownAttemptEnd _ s).trans (congrArg _ ?_), ?_⟩⟩
    · have hnoted : ∀ t : Ticket, ticketNoted (es.drop k) t = { t with
          noteTaken := t.noteTaken || decide (∃ e ∈ es.drop k, e.number = t.number ∧ e.isOpen = true)
          announcePending := t.announcePending &&
            decide (⟨t.line, t.number, decide (t.state ≠ .cleared), t.cls⟩ ∉ es.drop k) } := by
        intro t
        rw [ticketNoted, noteEntryOf_eq]
      rw [exec_ownAttemptEnd, attemptEnds_taken h hfarewell rfl rfl, ownFrameTaken_note rfl, hleft, State.updTickets,
        noteTaken_eq, funext hnoted]
    · rw [attemptEnds_void h hfarewell rfl rfl, attemptVoid_dropped (attemptWithdrawn_noteMark hbody) hvoids, hbody,
        ownFrameDropped_noteMark]
    · rw [hleft]
      refine ⟨by simp, by simp, by simp⟩

end Sys2Proof.Machine
end

section
/-! PROOFS. What an observation does to its ticket, and what notes and additions of other stations do (R144, R145, R150,
R153, R154): settles O46. -/

namespace Sys2Proof.Machine

/-! ### Observations -/

section Observations

variable {s : State} {n : TicketNo} {t : Ticket} {o : Observation}

/-- An observation that finds no fault, or is NOISY, only joins the list (R144). -/
theorem observed_finding_none (h : o.cls = .pass ∨ o.noisy = true) :
    observed o t = { t with observations := addObservation o t.observations } := by
  rw [observed]
  refine if_neg ?_
  rcases h with h | h
  · simp [h, FaultClass.failing]
  · simp [h]

theorem finding_of (hcls : o.cls ≠ .pass) (hnoisy : o.noisy = false) : (o.cls.failing && !o.noisy) = true := by
  rw [(failing_iff _).2 hcls, hnoisy]
  rfl

theorem observed_open (hcls : o.cls ≠ .pass) (hnoisy : o.noisy = false) (hstate : t.state ≠ .cleared) :
    observed o t = { t with
      observations := addObservation o t.observations, cls := o.cls, streak := 0
      announcePending := t.announcePending || (t.noteTaken && decide (t.cls ≠ o.cls)) } := by
  have hbne : (t.cls != o.cls) = decide (t.cls ≠ o.cls) := by
    by_cases h : t.cls = o.cls
    · simp [h]
    · simp [h, bne_iff_ne.2 h]
  rw [observed]
  refine (if_pos (finding_of hcls hnoisy)).trans ((if_neg hstate).trans ?_)
  rw [hbne]

theorem observed_cleared (hcls : o.cls ≠ .pass) (hnoisy : o.noisy = false) (hstate : t.state = .cleared) :
    observed o t = { t with
      observations := addObservation o t.observations, cls := o.cls, streak := 0, state := .opened
      announcePending := true } :=
  (if_pos (finding_of hcls hnoisy)).trans (if_pos hstate)

theorem appendObservation_none (ht : s.ticketStore.byNumber n = none) : appendObservation n o s = s := by
  unfold appendObservation
  rw [ht]

/-- An observation that reopens no ticket changes the ticket alone (R144). -/
theorem appendObservation_quiet (ht : s.ticketStore.byNumber n = some t)
    (h : t.state ≠ .cleared ∨ o.cls = .pass ∨ o.noisy = true) :
    appendObservation n o s = s.updTickets (updateTicket n (observed o)) := by
  unfold appendObservation
  rw [ht]
  refine if_neg ?_
  rcases h with h | h | h
  · simp [h]
  · simp [h, FaultClass.failing]
  · simp [h]

theorem appendObservation_reopens (ht : s.ticketStore.byNumber n = some t) (hstate : t.state = .cleared)
    (hcls : o.cls ≠ .pass) (hnoisy : o.noisy = false) : appendObservation n o s =
      emit (ticketClassEvent .ticketOpened (observed o t)) (s.updTickets (updateTicket n (observed o))) := by
  unfold appendObservation
  rw [ht]
  exact if_pos (by simp [hstate, hnoisy, (failing_iff _).2 hcls])

theorem updTickets_congr {f g : TicketStore → TicketStore} (h : f s.ticketStore = g s.ticketStore) :
    s.updTickets f = s.updTickets g := by
  rw [State.updTickets, State.updTickets, h]

/-- An event told as the tickets change, where there is room (R204). -/
theorem emit_updTickets_of_room {e : Event} {f : TicketStore → TicketStore} (h : generalCount s.port.events < 30) :
    emit e (s.updTickets f) = { s.updTickets f with port := portWith e s } :=
  emit_of_room (s := s.updTickets f) h

/-- The state as an observation reopens a ticket, the event told (R144, R165). -/
theorem appendObservation_told (hok : TicketsOk s.ticketStore) (ht : s.ticketStore.byNumber n = some t)
    (hstate : t.state = .cleared) (hcls : o.cls ≠ .pass) (hnoisy : o.noisy = false)
    (hroom : generalCount s.port.events < 30) {u : Ticket} (hu : observed o t = u) : appendObservation n o s =
      { s.updTickets (updateTicket n fun _ => u) with
        port := portWith { kind := .ticketOpened, ticket := some n, line := some t.line.val, outcome := some (.cls o.cls) } s } := by
  have hn : t.number = n := (byNumber_mem ht).2
  have hevent : ticketClassEvent .ticketOpened (observed o t) =
      { kind := .ticketOpened, ticket := some n, line := some t.line.val, outcome := some (.cls o.cls) } := by
    rw [observed_cleared hcls hnoisy hstate, ticketClassEvent, ticketEvent, hn]
  rw [appendObservation_reopens ht hstate hcls hnoisy, hevent, emit_updTickets_of_room hroom,
    updTickets_congr (updateTicket_congr (g := fun _ => u) hok ht hu)]

end Observations

/-! ### Notes of other stations -/

section Notes

variable {s : State} {n m : Station} {e : NoteEntry} {t : Ticket} {x : IndexEntry} {ts : TicketStore} {b : Bool}

theorem takeNoteEntry_enters (ho : e.isOpen = true) (ht : s.ticketStore.byLine e.line = none) :
    takeNoteEntry n e s = s.updTickets (putIndex ⟨e.line, n, e.number, e.cls⟩) := by
  unfold takeNoteEntry
  rw [if_pos ho, ht]

/-- A closed entry drops the index entry that is its owner's (R153). -/
theorem takeNoteEntry_closed (ho : e.isOpen = false) : takeNoteEntry n e s = s.updTickets fun ts => { ts with
    index := if (∃ x, ts.indexFor e.line = some x ∧ x.owner = n ∧ x.number = e.number) then
      ts.index.filter (·.line ≠ e.line) else ts.index } := by
  have hdrop : dropIndexLine e.line s.ticketStore =
      { s.ticketStore with index := s.ticketStore.index.filter (·.line ≠ e.line) } := by
    simp [dropIndexLine, bne, beq_eq_decide]
  unfold takeNoteEntry
  rw [if_neg (by simp [ho])]
  by_cases hlisted : ∃ x, s.ticketStore.indexFor e.line = some x ∧ x.owner = n ∧ x.number = e.number
  · obtain ⟨x, hx, hmatch⟩ := id hlisted
    rw [hx]
    refine (if_pos hmatch).trans (updTickets_congr (hdrop.trans ?_))
    exact congrArg (fun i => ({ s.ticketStore with index := i } : TicketStore)) (if_pos hlisted).symm
  · have hkeeps : s.updTickets id = s.updTickets fun ts => { ts with
        index := if (∃ x, ts.indexFor e.line = some x ∧ x.owner = n ∧ x.number = e.number) then
          ts.index.filter (·.line ≠ e.line) else ts.index } :=
      updTickets_congr (congrArg (fun i => ({ s.ticketStore with index := i } : TicketStore)) (if_neg hlisted).symm)
    refine Eq.trans ?_ hkeeps
    split
    · next x hx => exact if_neg fun hmatch => hlisted ⟨x, hx, hmatch⟩
    · rfl

theorem takeNoteEntry_reasserts (ho : e.isOpen = true) (ht : s.ticketStore.byLine e.line = some t)
    (hm : s.store.station = some m) (htaken : t.noteTaken = true) (hlower : m < n) : takeNoteEntry n e s =
      s.updTickets (updateTicket t.number fun t => { t with announcePending := true }) := by
  unfold takeNoteEntry
  rw [if_pos ho, ht]
  dsimp only
  rw [if_neg (by simp [htaken]), hm]
  exact if_pos hlower

theorem takeNoteEntry_merges (ho : e.isOpen = true) (ht : s.ticketStore.byLine e.line = some t)
    (hm : s.store.station = some m) (h : t.noteTaken = false ∨ n ≤ m) :
    takeNoteEntry n e s = mergeTicket n e t t.noteTaken s := by
  unfold takeNoteEntry
  rw [if_pos ho, ht]
  dsimp only
  cases htaken : t.noteTaken with
  | false => rfl
  | true =>
    have hnot : ¬s.store.station.getD 0 < n := by
      rw [hm]
      exact Nat.not_lt.2 (h.resolve_left (by simp [htaken]))
    exact if_neg hnot

/-- The addition that a merge owes the other ticket, where the own one is open and has a finding (R154). -/
def mergeAddition (n : Station) (e : NoteEntry) (t : Ticket) (s : State) : State :=
  if t.isOpen then
    match latestFinding t with
    | some o => offerNotice (.ticketAdd n e.number e.line ⟨o.cls, o.deciding⟩) s
    | none => s
  else s

theorem mergeAddition_finding {o : Observation} (hstate : t.state ≠ .cleared) (ho : latestFinding t = some o) :
    mergeAddition n e t s = offerNotice (.ticketAdd n e.number e.line ⟨o.cls, o.deciding⟩) s := by
  unfold mergeAddition
  rw [if_pos (by rw [isOpen_eq]; exact decide_eq_true hstate), ho]

theorem mergeAddition_none (h : t.state = .cleared ∨ latestFinding t = none) : mergeAddition n e t s = s := by
  unfold mergeAddition
  rcases h with h | h
  · exact if_neg (by rw [isOpen_eq, h]; decide)
  · rw [h, ite_self]

/-- With room, the addition touches the queue alone. -/
theorem mergeAddition_frame (h : NoticeRoom s) : ∃ l, mergeAddition n e t s = { s with link := l } := by
  unfold mergeAddition
  split
  · split
    · exact ⟨_, offerNotice_of_room h⟩
    · exact ⟨s.link, rfl⟩
  · exact ⟨s.link, rfl⟩

/-- The Ticket Store as an own ticket merges into another station's (R154). -/
def mergedStore (n : Station) (e : NoteEntry) (t : Ticket) (b : Bool) (ts : TicketStore) : TicketStore :=
  putIndex ⟨e.line, n, e.number, e.cls⟩ (removeTicket t.number (if b then addClosedNote (closedEntryOf t) ts else ts))

theorem mergeTicket_eq : mergeTicket n e t b s = emit { ticketEvent .ticketMerged t with station := some n }
    ((mergeAddition n e t s).updTickets (mergedStore n e t b)) := rfl

theorem mergedStore_tickets : (mergedStore n e t b ts).tickets = ts.tickets.filter (·.number ≠ t.number) := by
  have hfilter : ts.tickets.filter (·.number != t.number) = ts.tickets.filter (·.number ≠ t.number) := by
    simp [bne, beq_eq_decide]
  rw [mergedStore, ← hfilter]
  cases b <;> rfl

theorem mergedStore_index : (mergedStore n e t b ts).index = (putIndex ⟨e.line, n, e.number, e.cls⟩ ts).index := by
  cases b <;> rfl

theorem mergedStore_closedNotes : (mergedStore n e t false ts).closedNotes = ts.closedNotes ∧
    ⟨t.line, t.number, false, t.cls⟩ ∈ (mergedStore n e t true ts).closedNotes :=
  ⟨rfl, List.mem_append_right _ (List.mem_singleton_self _)⟩

theorem putIndex_replaces (h : ∃ y ∈ ts.index, y.line = x.line) :
    (putIndex x ts).index = ts.index.map fun y => if y.line = x.line then x else y :=
  if_pos (by simpa using h)

theorem putIndex_appends (h : ∀ y ∈ ts.index, y.line ≠ x.line) (hroom : ts.index.length < 256) :
    (putIndex x ts).index = ts.index ++ [x] :=
  (if_neg (by simpa using h)).trans (if_pos hroom)

theorem putIndex_full (h : ∀ y ∈ ts.index, y.line ≠ x.line) (hfull : 256 ≤ ts.index.length) :
    (putIndex x ts).index = ts.index :=
  (if_neg (by simpa using h)).trans (if_neg (Nat.not_lt.2 hfull))

end Notes

/-! ### Additions -/

section Additions

variable {s : State} {n o : Station} {k : TicketNo} {l : Line} {obs : ObsData} {t : Ticket}

/-- The observation that a TICKET-ADD of station `n` brings (R150). -/
def addedObservation (n : Station) (obs : ObsData) (s : State) : Observation :=
  ⟨s.store.clock, .peer n, obs.cls, obs.deciding, false⟩

theorem exec_ticketAdd_ignored (h : Heard s n (.ticketAdd o k l obs))
    (hnot : s.store.station ≠ some o ∨ ∀ t, s.ticketStore.byNumber k = some t → t.line ≠ l) :
    exec (.ticketAddTaken n o k l obs) s = .next (s.heard n) := by
  obtain ⟨p, -, hexec⟩ := exec_heard h rfl
  refine hexec.trans (congrArg _ ?_)
  rw [applyFrame]
  rcases hnot with hnot | hnot
  · have hother : (s.heard n).isOwn o = false := beq_eq_false_iff_ne.2 hnot
    rw [hother]
    rfl
  · have hnone : takeAddition n k l obs (s.heard n) = s.heard n := by
      unfold takeAddition
      rw [ticketStore_heard]
      cases ht : s.ticketStore.byNumber k with
      | none => rfl
      | some t => exact if_neg (hnot t ht)
    rw [hnone, ite_self]

theorem exec_ticketAdd_appends (h : Heard s n (.ticketAdd o k l obs)) (hown : s.store.station = some o)
    (ht : s.ticketStore.byNumber k = some t) (hl : t.line = l) : exec (.ticketAddTaken n o k l obs) s =
      .next (appendObservation k (addedObservation n obs s) (s.heard n)) := by
  obtain ⟨p, -, hexec⟩ := exec_heard h rfl
  refine hexec.trans (congrArg _ ?_)
  rw [applyFrame, isOwn_heard_self hown, if_pos rfl, takeAddition, ticketStore_heard, ht]
  exact if_pos hl

end Additions

/-- Settles O46: the `takeNoteEntry_…` cases and `mergeTicket_eq` for the notes, `exec_ticketAdd_appends` with the cases of
an observation for the additions. -/
theorem notesAndAdditionsActOnTheTicketStore : Obligations.NotesAndAdditionsActOnTheTicketStore := by
  refine ⟨fun s n es h => ?_, fun s n e => ⟨takeNoteEntry_enters, takeNoteEntry_closed, fun t m ho ht hm => ⟨fun htaken hlower =>
      takeNoteEntry_reasserts ho ht hm htaken hlower, fun hcase hroom hnotice => ?_⟩⟩,
    fun e ts => ⟨putIndex_replaces, putIndex_appends, putIndex_full⟩,
    fun s n o k l obs h => ⟨exec_ticketAdd_ignored h, fun t hown ht hl hok => ?_⟩⟩
  · obtain ⟨p, -, hexec⟩ := exec_heard h rfl
    exact hexec
  · intro o
    obtain ⟨k, hk⟩ := mergeAddition_frame (n := n) (e := e) (t := t) hnotice
    refine ⟨_, takeNoteEntry_merges ho ht hm hcase, ?_⟩
    rw [mergeTicket_eq]
    refine ⟨?_, ?_, fun htaken => ?_, fun htaken => ?_, ?_, fun k hstate hfinding => ?_, fun hnone => ?_⟩
    · rw [emit_ticketStore, ticketStore_updTickets, mergedStore_tickets, hk]
    · rw [emit_ticketStore, ticketStore_updTickets, mergedStore_index, hk]
    · rw [emit_ticketStore, ticketStore_updTickets, htaken, mergedStore_closedNotes.1, hk]
    · rw [emit_ticketStore, ticketStore_updTickets, htaken]
      exact mergedStore_closedNotes.2
    · rw [hk, port_emit_of_room (s := ({ s with link := k } : State).updTickets (mergedStore n e t t.noteTaken)) hroom]
      rfl
    · rw [emit_link, link_updTickets, mergeAddition_finding hstate hfinding, offerNotice_of_room hnotice]
      rfl
    · rw [emit_link, link_updTickets, mergeAddition_none hnone]
  · subst hl
    intro seen
    have hexec := exec_ticketAdd_appends h hown ht rfl
    have hfound : (s.heard n).ticketStore.byNumber k = some t := ht
    have hok' : TicketsOk (s.heard n).ticketStore := hok
    refine ⟨fun hpass => ?_, fun hcls hstate => ?_, fun hcls hstate hroom => ?_⟩
    · rw [hexec, appendObservation_quiet hfound (.inr (.inl hpass))]
      exact congrArg _ (updTickets_congr (updateTicket_congr hok' hfound (observed_finding_none (.inl hpass))))
    · rw [hexec, appendObservation_quiet hfound (.inl hstate)]
      exact congrArg _ (updTickets_congr (updateTicket_congr hok' hfound (observed_open hcls rfl hstate)))
    · rw [hexec, appendObservation_told hok' hfound hstate hcls rfl hroom (observed_cleared hcls rfl hstate)]
      have hput := updateTicket_congr (f := fun _ => { t with
          observations := addObservation (addedObservation n obs s) t.observations, cls := obs.cls, streak := 0
          state := .opened, announcePending := true })
        (g := fun t => { t with observations := seen, cls := obs.cls, streak := 0, state := .opened, announcePending := true })
        hok' hfound rfl
      rw [← updTickets_congr hput]
      rfl

end Sys2Proof.Machine
end

section
/-! PROOFS. What a result does at the Ticket Store, and what the last answer of an automatic measurement hands there (R144,
R146 to R149, R169, R170): settles O47. -/

namespace Sys2Proof.Machine

/-! ### Results for a line -/

section Results

variable {s : State} {l : Line} {o : Observation} {t : Ticket} {e : IndexEntry}

theorem storeResult_pass (h : o.cls = .pass) : storeResult l o s = ((none, none), s) :=
  if_pos (by simp [h, FaultClass.failing])

theorem storeResult_noisyUnfound (hcls : o.cls ≠ .pass) (hnoisy : o.noisy = true) (ht : s.ticketStore.byLine l = none) :
    storeResult l o s = ((none, none), s) := by
  refine (if_neg (by simp [(failing_iff _).2 hcls])).trans ((if_pos hnoisy).trans ?_)
  unfold storeNoisy
  rw [ht]

theorem storeResult_found (hcls : o.cls ≠ .pass) (ht : s.ticketStore.byLine l = some t) :
    storeResult l o s = ((some t.number, none), appendObservation t.number o s) := by
  refine (if_neg (by simp [(failing_iff _).2 hcls])).trans ?_
  split
  · unfold storeNoisy
    rw [ht]
  · unfold storeFailure
    rw [ht]

theorem storeResult_failure (hcls : o.cls ≠ .pass) (hnoisy : o.noisy = false) :
    storeResult l o s = storeFailure l o s :=
  (if_neg (by simp [(failing_iff _).2 hcls])).trans (if_neg (by simp [hnoisy]))

theorem storeFailure_indexed (ht : s.ticketStore.byLine l = none) (he : s.ticketStore.indexFor l = some e) :
    storeFailure l o s = ((some e.number, some e.owner),
      offerNotice (.ticketAdd e.owner e.number l ⟨o.cls, o.deciding⟩) s) := by
  unfold storeFailure
  rw [ht, he]

/-- The ticket that a failing result opens (R146). -/
def openedBy (l : Line) (o : Observation) (s : State) : TicketNo → Ticket :=
  openedTicket l o.cls (originOf o.source) s.store.clock [o]

theorem storeFailure_opens (ht : s.ticketStore.byLine l = none) (he : s.ticketStore.indexFor l = none)
    (hroom : s.ticketStore.hasRoom = true) : storeFailure l o s = ((some (numberGiven s.ticketStore), none),
      emit (ticketClassEvent .ticketOpened (openedBy l o s (numberGiven s.ticketStore)))
        (s.updTickets (addTicket (openedBy l o s)))) := by
  unfold storeFailure
  rw [ht, he]
  exact if_pos hroom

theorem storeFailure_full (ht : s.ticketStore.byLine l = none) (he : s.ticketStore.indexFor l = none)
    (hroom : s.ticketStore.hasRoom = false) : storeFailure l o s = ((none, none),
      emit { kind := .ticketStoreFull, line := some l.val, outcome := some (.cls o.cls) } s) := by
  unfold storeFailure
  rw [ht, he]
  exact if_neg (by simp [hroom])

theorem hasRoom_false {ts : TicketStore} (hlength : 96 ≤ ts.tickets.length) (h : ∀ t ∈ ts.tickets, t.state ≠ .cleared) :
    ts.hasRoom = false := by
  rw [TicketStore.hasRoom, Bool.or_eq_false_iff]
  exact ⟨decide_eq_false (Nat.not_lt.2 hlength), by simpa using h⟩

theorem hasRoom_true {ts : TicketStore} (hlength : ts.tickets.length < 96) : ts.hasRoom = true := by
  rw [TicketStore.hasRoom, Bool.or_eq_true]
  exact .inl (decide_eq_true hlength)

/-- The counter moves one past a ticket number and wraps after the last (R143). -/
theorem numberAfter_of_le {n : Nat} (h : n ≤ 9999) : numberAfter n = if n = 9999 then 1 else n + 1 := by
  rcases Nat.lt_or_eq_of_le h with hlt | rfl
  · exact (if_pos hlt).trans (if_neg (Nat.ne_of_lt hlt)).symm
  · rfl

/-- With a place free, a ticket is added under a number that no ticket has (R143). -/
theorem addTicket_of_place {ts : TicketStore} {mk : TicketNo → Ticket} (hlength : ts.tickets.length < 96)
    (hok : TicketsOk ts) : (∀ t ∈ ts.tickets, t.number ≠ numberGiven ts) ∧ addTicket mk ts = { ts with
      tickets := ts.tickets ++ [mk (numberGiven ts)]
      nextNumber := if numberGiven ts = 9999 then 1 else numberGiven ts + 1 } := by
  have hevict : evict ts = ts := if_pos hlength
  have hgiven : numberGiven ts = newNumber ts := by rw [numberGiven, hevict]
  have hafter : numberAfter (newNumber ts) = if newNumber ts = 9999 then 1 else newNumber ts + 1 :=
    numberAfter_of_le (newNumber_range hok).2
  refine ⟨fun t ht hn => newNumber_free hok ?_, ?_⟩
  · rw [← hgiven, ← hn]
    exact List.mem_map_of_mem ht
  · rw [hgiven, addTicket, hevict, hafter]

end Results

/-! ### Results of a retest -/

section Retests

variable {s : State} {l : Line} {o : Observation} {t u : Ticket} {n : TicketNo} {p : RetestPlan} {ts : TicketStore}
  {c : Channel} {x : ChannelRecord}

theorem retestResult_none (h : s.ticketStore.byNumber n = none) : retestResult n l o s = s := by
  unfold retestResult
  rw [h]

theorem retestResult_ended (ht : s.ticketStore.byNumber n = some t) (h : t.state = .handover ∨ t.state = .cleared) :
    retestResult n l o s = s := by
  unfold retestResult
  rw [ht]
  rcases h with h | h <;> simp only [h]

theorem retestResult_opened (ht : s.ticketStore.byNumber n = some t) (h : t.state = .opened) :
    retestResult n l o s = (storeResult l o s).2 := by
  unfold retestResult
  rw [ht]
  simp only [h]

/-- The ticket in RETEST as its result has been counted (R148). -/
def retestedTicket (o : Observation) (t : Ticket) (s : State) : Ticket :=
  retested o (s.dueIn ((t.plan.map (·.interval)).getD 0 * 60)) (observed o t)

theorem retestedTicket_number : (retestedTicket o t s).number = t.number := by
  rw [retestedTicket, retested_number, observed_number]

/-- Put a ticket in the place of the one with a number. -/
def putTicket (n : TicketNo) (u : Ticket) (s : State) : State := s.updTickets (updateTicket n fun _ => u)

/-- A ticket put over the one that an observation changed is put over the one before it. -/
theorem putTicket_over : putTicket n u (s.updTickets (updateTicket n (observed o))) = putTicket n u s := by
  have hover : updateTicket n (fun _ => u) (updateTicket n (observed o) s.ticketStore) =
      updateTicket n (fun _ => u) s.ticketStore :=
    updateTicket_updateTicket fun v hv => (observed_number o v).trans hv
  exact congrArg (fun ts => ({ s with ticketStore := ts } : State)) hover

theorem settleRetest_cleared (h : 2 ≤ u.streak) :
    settleRetest u s = emit (ticketClassEvent .ticketCleared u) (putTicket u.number (clearedTicket u) s) := if_pos h

theorem settleRetest_exhausted (h : u.streak < 2) (hplan : u.plan.all (·.remaining == 0) = true) : settleRetest u s =
    emit (ticketClassEvent .retestExhausted u) (putTicket u.number { u with plan := none, state := .opened } s) :=
  (if_neg (Nat.not_le.2 h)).trans (if_pos hplan)

theorem settleRetest_goesOn (h : u.streak < 2) (hplan : u.plan.all (·.remaining == 0) = false) :
    settleRetest u s = putTicket u.number u s :=
  (if_neg (Nat.not_le.2 h)).trans (if_neg (by simp [hplan]))

/-- A result settles a ticket as it does where the observation has not been put in first. -/
theorem settleRetest_over (hn : u.number = n) :
    settleRetest u (s.updTickets (updateTicket n (observed o))) = settleRetest u s := by
  subst hn
  rcases Nat.lt_or_ge u.streak 2 with h | h
  · cases hplan : u.plan.all (·.remaining == 0) with
    | true => rw [settleRetest_exhausted h hplan, settleRetest_exhausted h hplan, putTicket_over]
    | false => rw [settleRetest_goesOn h hplan, settleRetest_goesOn h hplan, putTicket_over]
  · rw [settleRetest_cleared h, settleRetest_cleared h, putTicket_over]

/-- A retest's result, for its ticket in RETEST (R148). -/
theorem retestResult_retest (ht : s.ticketStore.byNumber n = some t) (h : t.state = .retest) : retestResult n l o s =
    if o.noisy then putTicket n (retestedTicket o t s) s else settleRetest (retestedTicket o t s) s := by
  have hn : t.number = n := (byNumber_mem ht).2
  have happend : appendObservation n o s = s.updTickets (updateTicket n (observed o)) :=
    appendObservation_quiet ht (.inl (by rw [h]; decide))
  unfold retestResult
  rw [ht]
  simp only [h, happend]
  split
  · exact putTicket_over
  · exact settleRetest_over (retestedTicket_number.trans hn)

/-- The plan of a ticket after a result, with a remaining count (R148). -/
def planAfter (p : RetestPlan) (left : Nat) (s : State) : RetestPlan :=
  ⟨p.interval, left, min 4294967295 (s.store.clock + p.interval * 60)⟩

theorem retestedTicket_noisy (hp : t.plan = some p) (hnoisy : o.noisy = true) : retestedTicket o t s =
    { t with observations := addObservation o t.observations, plan := some (planAfter p p.remaining s) } := by
  rw [retestedTicket, observed_finding_none (.inr hnoisy), retested, if_pos hnoisy, replan]
  simp [hp, planAfter, State.dueIn, Config.clockMax]

theorem retestedTicket_failed (hp : t.plan = some p) (hnoisy : o.noisy = false) (hcls : o.cls ≠ .pass)
    (hstate : t.state = .retest) : retestedTicket o t s = { t with
      observations := addObservation o t.observations, cls := o.cls, streak := 0
      announcePending := t.announcePending || (t.noteTaken && decide (t.cls ≠ o.cls))
      plan := some (planAfter p (p.remaining - 1) s) } := by
  rw [retestedTicket, observed_open hcls hnoisy (by rw [hstate]; decide), retested, if_neg (by simp [hnoisy]),
    if_pos ((failing_iff _).2 hcls), replan]
  simp [hp, planAfter, State.dueIn, Config.clockMax]

theorem retestedTicket_passed (hp : t.plan = some p) (hnoisy : o.noisy = false) (hcls : o.cls = .pass) :
    retestedTicket o t s = { t with
      observations := addObservation o t.observations, streak := min 2 (t.streak + 1)
      plan := some (planAfter p (p.remaining - 1) s) } := by
  rw [retestedTicket, observed_finding_none (.inl hcls), retested, if_neg (by simp [hnoisy]),
    if_neg (by simp [hcls, FaultClass.failing]), replan]
  simp [hp, planAfter, State.dueIn, Config.clockMax]

/-- An event about the ticket's class told with a ticket put in place, where there is room (R165, R204). -/
theorem emit_putTicket_of_room {k : EventKind} {v : Ticket} (hroom : generalCount s.port.events < 30) :
    emit (ticketClassEvent k u) (putTicket n v s) = { putTicket n v s with
      port := portWith { kind := k, ticket := some u.number, line := some u.line.val, outcome := some (.cls u.cls) } s } :=
  emit_updTickets_of_room hroom

/-- What a retest's result does, by whether it is NOISY, fails or passes and by what the count and the streak leave (R148,
R149). -/
theorem retestResult_of_plan (ht : s.ticketStore.byNumber t.number = some t) (hstate : t.state = .retest)
    (hp : t.plan = some p) (hroom : generalCount s.port.events < 30) :
    let put := fun u : Ticket => s.updTickets (updateTicket t.number fun _ => u)
    let told := fun (k : EventKind) (u : Ticket) => { put u with
      port := portWith { kind := k, ticket := some t.number, line := some t.line.val, outcome := some (.cls u.cls) } s }
    let seen := addObservation o t.observations
    let plan := fun left => some (planAfter p left s)
    let failed := { t with
      observations := seen, cls := o.cls, streak := 0
      announcePending := t.announcePending || (t.noteTaken && decide (t.cls ≠ o.cls)) }
    let passed := { t with observations := seen, streak := t.streak + 1 }
    (o.noisy = true → retestResult t.number l o s = put { t with observations := seen, plan := plan p.remaining }) ∧
    (o.noisy = false → o.cls ≠ .pass →
      (2 ≤ p.remaining → retestResult t.number l o s = put { failed with plan := plan (p.remaining - 1) }) ∧
      (p.remaining = 1 → retestResult t.number l o s =
        told .retestExhausted { failed with plan := none, state := .opened })) ∧
    (o.noisy = false → o.cls = .pass →
      (t.streak = 1 → retestResult t.number l o s =
        told .ticketCleared { passed with state := .cleared, plan := none, announcePending := t.noteTaken }) ∧
      (t.streak = 0 → 2 ≤ p.remaining →
        retestResult t.number l o s = put { passed with plan := plan (p.remaining - 1) }) ∧
      (t.streak = 0 → p.remaining = 1 → retestResult t.number l o s =
        told .retestExhausted { passed with plan := none, state := .opened })) := by
  have hresult := retestResult_retest (l := l) (o := o) ht hstate
  refine ⟨fun hnoisy => ?_, fun hnoisy hcls => ?_, fun hnoisy hcls => ?_⟩
  · rw [hresult, if_pos hnoisy, retestedTicket_noisy hp hnoisy]
    rfl
  · rw [hresult, if_neg (by simp [hnoisy]), retestedTicket_failed hp hnoisy hcls hstate]
    refine ⟨fun hleft => settleRetest_goesOn Nat.zero_lt_two ?_, fun hleft => (settleRetest_exhausted Nat.zero_lt_two ?_).trans
      (emit_putTicket_of_room hroom)⟩
    · simp only [planAfter, Option.all_some, beq_eq_false_iff_ne]
      omega
    · simp [planAfter, hleft]
  · rw [hresult, if_neg (by simp [hnoisy]), retestedTicket_passed hp hnoisy hcls]
    refine ⟨fun hstreak => ?_, fun hstreak hleft => ?_, fun hstreak hleft => ?_⟩ <;> rw [hstreak]
    · exact (settleRetest_cleared (Nat.le_refl 2)).trans (emit_putTicket_of_room hroom)
    · refine settleRetest_goesOn Nat.one_lt_two ?_
      simp only [planAfter, Option.all_some, beq_eq_false_iff_ne]
      omega
    · refine (settleRetest_exhausted Nat.one_lt_two ?_).trans (emit_putTicket_of_room hroom)
      simp [planAfter, hleft]

theorem settleRetest_setChan : settleRetest u (s.setChan c x) = (settleRetest u s).setChan c x := by
  unfold settleRetest
  simp only [updTickets_setChan, emit_setChan]
  repeat' split
  all_goals rfl

theorem retestResult_setChan : retestResult n l o (s.setChan c x) = (retestResult n l o s).setChan c x := by
  unfold retestResult
  simp only [ticketStore_setChan, appendObservation_setChan, updTickets_setChan, settleRetest_setChan, storeResult_setChan,
    State.dueIn, store_setChan]
  repeat' split
  all_goals rfl

end Retests

/-! ### The last answer of an automatic measurement -/

section Automatic

variable {s : State} {i : Item} {c : Channel} {k : Copies} {r : MeasureRecord} {l : Line} {o : Observation} {n : TicketNo}

/-! The sweep and its counts lie beside the tickets. -/

theorem ticketStore_completeSweep : (completeSweep s).ticketStore = s.ticketStore := by
  unfold completeSweep
  repeat' split
  all_goals simp [updSweep]

theorem ticketStore_deferLine : (deferLine l s).ticketStore = s.ticketStore := by
  unfold deferLine
  repeat' split
  all_goals simp [skipLine, updSweep]

theorem ticketStore_sweepOutcome {v : ItemOutcome} : (sweepOutcome i v s).ticketStore = s.ticketStore := by
  unfold sweepOutcome
  dsimp only
  repeat' split
  all_goals simp [ticketStore_completeSweep, ticketStore_deferLine, skipLine, updSweep]

theorem ticketStore_emitItemResult {v : ItemOutcome} {q : Option FaultClass} {a : TicketAnswer} :
    (emitItemResult i v q a s).ticketStore = s.ticketStore := by
  unfold emitItemResult
  split <;> simp

theorem retestOutcome_measured {q : FaultClass} {noisy : Bool} : retestOutcome n (measuredOutcome q noisy) s = s := by
  unfold measuredOutcome
  split
  · rfl
  · split <;> rfl

/-- A measured outcome changes no ticket: its result already has (R170). -/
theorem ticketStore_fixMeasured {q : FaultClass} {noisy : Bool} {b : Option FaultClass} {a : TicketAnswer} :
    (fixOutcome i (measuredOutcome q noisy) b a s).ticketStore = s.ticketStore := by
  unfold fixOutcome
  dsimp only
  split <;> simp [retestOutcome_measured, ticketStore_sweepOutcome, ticketStore_emitItemResult, updItem]

theorem auto_appendObservation : (appendObservation n o s).auto = s.auto := by
  unfold appendObservation
  repeat' split
  all_goals simp

theorem auto_offerNotice {b : FrameBody} : (offerNotice b s).auto = s.auto := by
  unfold offerNotice
  split <;> simp

theorem auto_storeResult : (storeResult l o s).2.auto = s.auto := by
  unfold storeResult storeNoisy storeFailure
  repeat' split
  all_goals simp [auto_appendObservation, auto_offerNotice]

theorem auto_settleRetest {t : Ticket} : (settleRetest t s).auto = s.auto := by
  unfold settleRetest
  repeat' split
  all_goals simp

theorem auto_retestResult : (retestResult n l o s).auto = s.auto := by
  unfold retestResult
  repeat' split
  all_goals simp [auto_appendObservation, auto_storeResult, auto_settleRetest]

theorem measuredOutcome_eq {q : FaultClass} {noisy : Bool} :
    measuredOutcome q noisy = if noisy then .noisy else if q = .pass then .pass else .fail := by
  rw [measuredOutcome]
  cases q <;> rfl

/-- The state of the engine as a measured result is handed in and its outcome fixed (R169, R170). -/
theorem reportMeasured_open {q : FaultClass} {d : Option Deciding} {noisy : Bool} (hi : s.auto.item = some i)
    (hopen : i.outcome = none) (hleft : i.aborted = false) :
    (reportMeasured q d noisy s).auto.item = some { i with outcome := some (measuredOutcome q noisy) } ∧
    (i.purpose = .sweep → (reportMeasured q d noisy s).ticketStore =
      (storeResult i.line ⟨s.store.clock, .ownSweep, q, d, noisy⟩ s).2.ticketStore) ∧
    (∀ n, i.purpose = .retest → i.ticket = some n → (reportMeasured q d noisy s).ticketStore =
      (retestResult n i.line ⟨s.store.clock, .ownRetest, q, d, noisy⟩ s).ticketStore) := by
  have hitem : s.openItem = some i := by simp [State.openItem, hi, hopen, hleft]
  unfold reportMeasured
  rw [hitem]
  refine ⟨?_, fun hp => ?_, fun n hp hn => ?_⟩
  · dsimp only
    split
    · rw [engine_fixOutcome.1, auto_retestResult, hi]
      rfl
    · rw [engine_fixOutcome.1, auto_storeResult, hi]
      rfl
  · simp only [hp, ticketStore_fixMeasured]
  · simp only [hp, hn, ticketStore_fixMeasured]

end Automatic

/-- The state as the last answer of an automatic measurement has handed its result in (R169). -/
theorem measurementDone_automatic {s : State} {c : Channel} {k : Copies} {r : MeasureRecord}
    (h : (s.chan c).session.purpose ≠ .operator) : measurementDone c k r s = releaseAutomatic c
      (reportMeasured (classOf k r) (decidingOf k r (classOf k r)) r.noisy (measurementClosed c (classified k r) s)) :=
  if_pos ((purpose_automatic_iff _).2 h)

/-- An automatic session releases from its last step, its tickets and item as they were (R31, R169). -/
theorem releaseAutomatic_releases {w : State} {c : Channel}
    (hquiet : quietHolder w (w.chan c).session.block = none) :
    ((releaseAutomatic c w).chan c).session = { (w.chan c).session with state := .releasing, relayStep := some 5 } ∧
    ((releaseAutomatic c w).chan c).engine = (w.chan c).engine ∧
    (releaseAutomatic c w).auto.item = w.auto.item ∧ (releaseAutomatic c w).ticketStore = w.ticketStore := by
  have hitem : (releaseAutomatic c w).auto.item = w.auto.item := by simp [releaseAutomatic, item_enterReleasing]
  rw [releaseAutomatic, enterReleasing_driven (n := 5) (by simp)] at *
  refine ⟨?_, ?_, hitem, ?_⟩
  · simp [giveRelease]
  · simp [giveRelease, engine_releaseDisturbs]
  · rcases releaseDisturbs_unquieted (c := c) (s := (w.updSession c fun x => { x with relayStep := some 5 }).updSession c
        fun x => { x with state := .releasing }) (by rw [quietHolder_of_roster (s := w) (by simp)]; simpa using hquiet)
      with hr | hr | hr <;> simp [giveRelease, hr, joinWait, markNoisy]

theorem originOf_of_mem {v : ObsSource} {g : TicketOrigin}
    (h : (v, g) ∈ [(ObsSource.ownOperator, TicketOrigin.operator), (.ownSweep, .sweep), (.ownRetest, .retest)]) :
    originOf v = g := by
  simp only [List.mem_cons, List.not_mem_nil, or_false, Prod.mk.injEq] at h
  rcases h with ⟨rfl, rfl⟩ | ⟨rfl, rfl⟩ | ⟨rfl, rfl⟩ <;> rfl

/-- Settles O47: what a result does by `storeResult` and `retestResult`, the measured one by `releaseAutomatic_releases`. -/
theorem resultsReachTheTicketStore : Obligations.ResultsReachTheTicketStore := by
  refine ⟨fun s l o => ?_, fun s t o ht => ?_, fun s n l o => retestResult_none, ?_⟩
  · refine ⟨storeResult_pass, storeResult_noisyUnfound, fun hcls t ht => storeResult_found hcls ht,
      fun hcls hnoisy ht => ⟨fun e he => ?_, fun he hroom => ⟨fun hfull hopen => ?_, fun hplace hok g hg => ?_⟩⟩⟩
    · exact (storeResult_failure hcls hnoisy).trans (storeFailure_indexed ht he)
    · exact (storeResult_failure hcls hnoisy).trans ((storeFailure_full ht he (hasRoom_false hfull hopen)).trans
        (congrArg _ (emit_of_room hroom)))
    · obtain ⟨hfree, hadd⟩ := addTicket_of_place (mk := openedBy l o s) hplace hok
      refine ⟨_, hfree, ((storeResult_failure hcls hnoisy).trans (storeFailure_opens ht he (hasRoom_true hplace))).trans ?_⟩
      rw [emit_updTickets_of_room hroom, State.updTickets, hadd, ← originOf_of_mem hg]
      rfl
  · refine ⟨fun h hok => ?_, fun hcls hnoisy hok => ⟨fun hstate => ?_, fun hstate hroom => ?_⟩,
      fun h l => retestResult_ended ht h, fun h l => retestResult_opened ht h, fun l p hstate hp hroom => ?_⟩
    · rw [appendObservation_quiet ht (.inr h)]
      exact updTickets_congr (updateTicket_congr hok ht (observed_finding_none h))
    · rw [appendObservation_quiet ht (.inl hstate)]
      exact updTickets_congr (updateTicket_congr hok ht (observed_open hcls hnoisy hstate))
    · exact appendObservation_told hok ht hstate hcls hnoisy hroom (observed_cleared hcls hnoisy hstate)
    · exact retestResult_of_plan ht hstate hp hroom
  · intro s c a q k r r' i hq hk hr hafter hquiet hp hi hopen hleft hholder
    dsimp only
    have hexec : exec (.headAnswer c a) s =
        .next (measurementDone c k r' (lastAnswered c (limitAnswer q.samples a) r' s)) :=
      (exec_headAnswer c a s).trans (congrArg _ (takeAnswer_last hq hk hr hafter))
    generalize limitAnswer q.samples a = b at *
    rw [measurementDone_automatic (by simpa [lastAnswered] using hp)] at hexec
    have hclosed := measurementClosed_setChan (s := s) (c := c) (b := b) (k := k) hquiet
    obtain ⟨hsession, hengine⟩ := measurementClosed_chan (s := lastAnswered c b r' s) (c := c) (r := classified k r')
    generalize measurementClosed c (classified k r') (lastAnswered c b r' s) = m at *
    obtain ⟨hitem, hsweep, hretest⟩ := reportMeasured_open (s := m) (q := classOf k r')
      (d := decidingOf k r' (classOf k r')) (noisy := r'.noisy) (by rw [hclosed]; simpa using hi) hopen hleft
    have hroster : m.roster = s.roster := by rw [hclosed]; simp
    have hunquieted : quietHolder (reportMeasured (classOf k r') (decidingOf k r' (classOf k r')) r'.noisy m)
        ((reportMeasured (classOf k r') (decidingOf k r' (classOf k r')) r'.noisy m).chan c).session.block = none := by
      rw [chan_reportMeasured, hsession, quietHolder_of_roster (roster_reportMeasured.trans hroster)]
      simpa [lastAnswered] using hholder
    obtain ⟨hreleased, hidle, hkept, htickets⟩ := releaseAutomatic_releases hunquieted
    have hclock : m.store.clock = s.store.clock := by rw [hclosed]; simp
    refine ⟨_, hexec, ?_, ?_, ?_, fun hpurpose => ?_, fun n hpurpose hn => ?_⟩
    · rw [hreleased, chan_reportMeasured, hsession]
      simp [lastAnswered]
    · rw [hidle, chan_reportMeasured, hengine]
      rfl
    · rw [hkept, hitem, measuredOutcome_eq]
    · rw [htickets, hsweep hpurpose, hclock, hclosed, storeResult_setChan]
      simp
    · rw [htickets, hretest n hpurpose hn, hclock, hclosed, retestResult_setChan]
      simp

end Sys2Proof.Machine
end

section
/-! PROOFS. A handover from TICKET HANDOVER to its end, at the station that offers and at the one offered to (R160 to
R163): settles O49. -/

namespace Sys2Proof.Machine

/-! ### TICKET HANDOVER -/

section Offers

variable {s : State} {n : TicketNo} {m : Nat} {t : Ticket}

theorem takeTicketHandover_badStation (h : m < 1 ∨ 15 < m ∨ s.store.station = some m) :
    takeTicketHandover n m s = (.badArgument 2, s) := by
  refine if_pos ?_
  rcases h with h | h | h
  · simp [stationOk, Nat.not_le.2 h]
  · simp [stationOk, Nat.not_le.2 h]
  · simp [h]

/-- Where the station number passes, the checks go on with the ticket (R160). -/
theorem stationCheck_passes (hlow : 1 ≤ m) (hhigh : m ≤ 15) (hother : s.store.station ≠ some m) :
    ¬(!stationOk m || s.store.station == some m) = true := by
  simp [stationOk, hlow, hhigh, hother]

theorem takeTicketHandover_noTicket (hst : ¬(!stationOk m || s.store.station == some m) = true)
    (ht : s.ticketStore.byNumber n = none) : takeTicketHandover n m s = (.noTicket n, s) := by
  unfold takeTicketHandover
  rw [if_neg hst, ht]
  rfl

/-- What TICKET HANDOVER goes on to with its ticket found (R160). -/
def handoverOf (n : TicketNo) (m : Station) (t : Ticket) (s : State) : Answer × State :=
  if s.link.state ≠ .active then refuse (.linkDown s.link.state) s
  else if (s.peer m).isNone then refuse (.noPeer m) s
  else if t.state = .handover ∨ t.state = .cleared then refuse .wrongState s
  else if linkedTo s.chanA.session n || linkedTo s.chanB.session n then refuse (.busy none) s
  else accepted (offerNotice (.handOffer (offerOf t m s.store.clock)) (s.updTickets (updateTicket n (offered m s.now))))

theorem takeTicketHandover_found (hst : ¬(!stationOk m || s.store.station == some m) = true)
    (ht : s.ticketStore.byNumber n = some t) : takeTicketHandover n m s = handoverOf n m t s := by
  unfold takeTicketHandover
  rw [if_neg hst, ht]
  rfl

theorem handoverOf_linkDown (h : s.link.state ≠ .active) : handoverOf n m t s = (.linkDown s.link.state, s) := if_pos h

theorem handoverOf_noPeer (hlink : s.link.state = .active) (hp : s.peer m = none) :
    handoverOf n m t s = (.noPeer m, s) :=
  (if_neg (not_not_intro hlink)).trans (if_pos (by rw [hp]; rfl))

theorem handoverOf_known (hlink : s.link.state = .active) (hp : (s.peer m).isSome = true) : handoverOf n m t s =
    if t.state = .handover ∨ t.state = .cleared then refuse .wrongState s
    else if linkedTo s.chanA.session n || linkedTo s.chanB.session n then refuse (.busy none) s
    else accepted (offerNotice (.handOffer (offerOf t m s.store.clock))
      (s.updTickets (updateTicket n (offered m s.now)))) :=
  (if_neg (not_not_intro hlink)).trans (if_neg (by simpa using Option.isSome_iff_ne_none.1 hp))

theorem handoverOf_wrongState (hlink : s.link.state = .active) (hp : (s.peer m).isSome = true)
    (h : t.state = .handover ∨ t.state = .cleared) : handoverOf n m t s = (.wrongState, s) :=
  (handoverOf_known hlink hp).trans (if_pos h)

theorem linkedTo_false_iff : (linkedTo s.chanA.session n || linkedTo s.chanB.session n) = false ↔
    ∀ c, linkedTo (s.chan c).session n = false := by
  rw [Bool.or_eq_false_iff]
  exact ⟨fun ⟨ha, hb⟩ c => by cases c <;> assumption, fun h => ⟨h .a, h .b⟩⟩

theorem ends_of_handable (h : t.state = .opened ∨ t.state = .retest) : ¬(t.state = .handover ∨ t.state = .cleared) := by
  rcases h with h | h <;> simp [h]

theorem handoverOf_busy (hlink : s.link.state = .active) (hp : (s.peer m).isSome = true)
    (h : t.state = .opened ∨ t.state = .retest) (hbusy : ∃ c, linkedTo (s.chan c).session n = true) :
    handoverOf n m t s = (.busy none, s) := by
  refine (handoverOf_known hlink hp).trans ((if_neg (ends_of_handable h)).trans (if_pos ?_))
  refine (Bool.not_eq_false _).mp fun hnone => ?_
  obtain ⟨c, hc⟩ := hbusy
  rw [linkedTo_false_iff.1 hnone c] at hc
  cases hc

theorem handoverOf_offers (hlink : s.link.state = .active) (hp : (s.peer m).isSome = true)
    (h : t.state = .opened ∨ t.state = .retest) (hfree : ∀ c, linkedTo (s.chan c).session n = false)
    (hroom : NoticeRoom s) : handoverOf n m t s = (.accepted .nothing, { s with
      ticketStore := updateTicket n (offered m s.now) s.ticketStore
      link := linkWith (.handOffer (offerOf t m s.store.clock)) none s.link }) := by
  refine (handoverOf_known hlink hp).trans ((if_neg (ends_of_handable h)).trans
    ((if_neg (by rw [linkedTo_false_iff.2 hfree]; exact Bool.false_ne_true)).trans ?_))
  rw [offerNotice_of_room (s := s.updTickets _) hroom]
  rfl

end Offers

/-! ### HAND-OFFER -/

section Taken

variable {s : State} {n o : Station} {b : HandOffer} {k : TicketNo} {t : Ticket} {h : Handover} {x : RefuseReason}

theorem noticeRoom_heard (hroom : NoticeRoom s) : NoticeRoom (s.heard n) := hroom

/-- A notice offered as a frame has been heard, where there is room for it (R82, R84). -/
theorem offerNotice_heard {a : FrameBody} (hroom : NoticeRoom s) :
    offerNotice a (s.heard n) = { s.heard n with link := linkWith a none s.answered.link } :=
  (offerNotice_of_room (noticeRoom_heard hroom)).trans rfl

theorem exec_handOffer_other (h : Heard s n (.handOffer b)) (hown : s.store.station ≠ some b.target) :
    exec (.handOfferTaken n b) s = .next (s.heard n) := by
  obtain ⟨p, -, hexec⟩ := exec_heard h rfl
  have hother : (s.heard n).isOwn b.target = false := beq_eq_false_iff_ne.2 hown
  refine hexec.trans (congrArg _ ?_)
  rw [applyFrame, hother]
  rfl

theorem exec_handOffer_own (h : Heard s n (.handOffer b)) (hown : s.store.station = some b.target) :
    exec (.handOfferTaken n b) s = .next (takeOffer n b (s.heard n)) := by
  obtain ⟨p, -, hexec⟩ := exec_heard h rfl
  refine hexec.trans (congrArg _ ?_)
  rw [applyFrame, isOwn_heard_self hown]
  rfl

theorem takeOffer_notActive (h : s.link.state ≠ .active) :
    takeOffer n b s = offerNotice (.handRefuse n b.number .notActive) s := if_pos h

theorem takeOffer_duplicate (hlink : s.link.state = .active) (h : (s.ticketStore.byLine b.line).isSome = true) :
    takeOffer n b s = offerNotice (.handRefuse n b.number .duplicate) s :=
  (if_neg (not_not_intro hlink)).trans (if_pos h)

theorem takeOffer_full (hlink : s.link.state = .active) (h : s.ticketStore.byLine b.line = none)
    (hroom : s.ticketStore.hasRoom = false) : takeOffer n b s = offerNotice (.handRefuse n b.number .full) s :=
  (if_neg (not_not_intro hlink)).trans ((if_neg (by rw [h]; exact Bool.false_ne_true)).trans
    (if_pos (by rw [hroom]; rfl)))

/-- The tickets as one offered joins them and its line leaves the index (R161). -/
def takenIn (n : Station) (b : HandOffer) (s : State) : TicketStore → TicketStore :=
  fun ts => dropIndexLine b.line (addTicket (handedInTicket n b s) ts)

theorem takeOffer_takesIn (hlink : s.link.state = .active) (h : s.ticketStore.byLine b.line = none)
    (hroom : s.ticketStore.hasRoom = true) : takeOffer n b s =
      emit { ticketClassEvent .ticketHandedIn (handedInTicket n b s (numberGiven s.ticketStore)) with station := some n }
        (offerNotice (.handAccept n b.number (numberGiven s.ticketStore)) (s.updTickets (takenIn n b s))) :=
  (if_neg (not_not_intro hlink)).trans ((if_neg (by rw [h]; exact Bool.false_ne_true)).trans
    (if_neg (by rw [hroom]; exact Bool.false_ne_true)))

/-! ### HAND-ACCEPT and HAND-REFUSE -/

/-- The own ticket with a number that is offered to a station, or was until it lapsed (R162, R163). -/
def OfferedTo (s : State) (n : Station) (k : TicketNo) (t : Ticket) (h : Handover) : Prop :=
  s.ticketStore.byNumber k = some t ∧ t.handover = some h ∧ h.target = n

/-- No ticket with a number that is offered to a station and in HANDOVER or lapsed (R162, R163). -/
def NotOffered (s : State) (n : Station) (k : TicketNo) : Prop :=
  ∀ t h, OfferedTo s n k t h → t.state ≠ .handover ∧ h.lapsed = false

theorem takeAccept_ignored (hnot : NotOffered s n k) : takeAccept n k s = s := by
  unfold takeAccept
  split
  · rfl
  · next t ht =>
      split
      · rfl
      · next h hh =>
          split
          · rfl
          · next htarget =>
              obtain ⟨hstate, hlapsed⟩ := hnot t h ⟨ht, hh, not_not.1 htarget⟩
              rw [if_neg hstate, if_neg (by rw [hlapsed]; exact Bool.false_ne_true)]

theorem takeRefusal_ignored (hnot : NotOffered s n k) : takeRefusal n k x s = s := by
  unfold takeRefusal
  split
  · rfl
  · next t ht =>
      split
      · rfl
      · next h hh =>
          split
          · rfl
          · next htarget =>
              obtain ⟨hstate, hlapsed⟩ := hnot t h ⟨ht, hh, not_not.1 htarget⟩
              rw [if_neg hstate, if_neg (by rw [hlapsed]; exact Bool.false_ne_true)]

/-- The cases in which an answer to an offer only notes its sender, as the model's text names them. -/
theorem notOffered_of (h : s.ticketStore.byNumber k = none ∨
    (∃ t, s.ticketStore.byNumber k = some t ∧ t.handover = none)) : NotOffered s n k := by
  rintro t v ⟨ht, hh, -⟩
  rcases h with h | ⟨u, hu, hnone⟩
  · rw [ht] at h
    cases h
  · rw [ht] at hu
    cases hu
    rw [hh] at hnone
    cases hnone

theorem notOffered_of_handover (ht : s.ticketStore.byNumber k = some t) (hh : t.handover = some h)
    (hnot : h.target ≠ n ∨ (t.state ≠ .handover ∧ h.lapsed = false)) : NotOffered s n k := by
  rintro u v ⟨hu, hv, htarget⟩
  rw [ht] at hu
  cases hu
  rw [hh] at hv
  cases hv
  exact hnot.resolve_left (not_not_intro htarget)

theorem removeTicket_eq {ts : TicketStore} :
    removeTicket k ts = { ts with tickets := ts.tickets.filter (·.number ≠ k) } := by
  have hfilter : ts.tickets.filter (·.number != k) = ts.tickets.filter (·.number ≠ k) := by
    simp [bne, beq_eq_decide]
  rw [removeTicket, hfilter]

theorem takeAccept_done (ho : OfferedTo s n k t h) (hended : t.state = .handover ∨ h.lapsed = true) : takeAccept n k s =
    emit { ticketEvent (if t.state = .handover then .handoverDone else .handoverLate) t with station := some n }
      (s.updTickets (removeTicket k)) := by
  obtain ⟨ht, hh, htarget⟩ := ho
  unfold takeAccept
  rw [ht]
  dsimp only
  rw [hh]
  refine (if_neg (not_not_intro htarget)).trans ?_
  by_cases hstate : t.state = .handover
  · rw [if_pos hstate, if_pos hstate]
  · rw [if_neg hstate, if_neg hstate, if_pos (hended.resolve_left hstate)]

theorem takeRefusal_fails (ho : OfferedTo s n k t h) (hstate : t.state = .handover) :
    takeRefusal n k x s = failHandover t h (.refused x) s := by
  obtain ⟨ht, hh, htarget⟩ := ho
  unfold takeRefusal
  rw [ht]
  dsimp only
  rw [hh]
  exact (if_neg (not_not_intro htarget)).trans (if_pos hstate)

theorem takeRefusal_lapsed (ho : OfferedTo s n k t h) (hstate : t.state ≠ .handover) (hlapsed : h.lapsed = true) :
    takeRefusal n k x s = s.updTickets (updateTicket k fun t => { t with handover := none }) := by
  obtain ⟨ht, hh, htarget⟩ := ho
  unfold takeRefusal
  rw [ht]
  dsimp only
  rw [hh]
  exact (if_neg (not_not_intro htarget)).trans ((if_neg hstate).trans (if_pos hlapsed))

theorem exec_handAccept_other {new : TicketNo} (h : Heard s n (.handAccept o k new)) (hown : s.store.station ≠ some o) :
    exec (.handAcceptTaken n o k new) s = .next (s.heard n) := by
  obtain ⟨p, -, hexec⟩ := exec_heard h rfl
  have hother : (s.heard n).isOwn o = false := beq_eq_false_iff_ne.2 hown
  refine hexec.trans (congrArg _ ?_)
  rw [applyFrame, hother]
  rfl

theorem exec_handAccept_own {new : TicketNo} (h : Heard s n (.handAccept o k new)) (hown : s.store.station = some o) :
    exec (.handAcceptTaken n o k new) s = .next (takeAccept n k (s.heard n)) := by
  obtain ⟨p, -, hexec⟩ := exec_heard h rfl
  refine hexec.trans (congrArg _ ?_)
  rw [applyFrame, isOwn_heard_self hown]
  rfl

theorem exec_handRefuse_other (h : Heard s n (.handRefuse o k x)) (hown : s.store.station ≠ some o) :
    exec (.handRefuseTaken n o k x) s = .next (s.heard n) := by
  obtain ⟨p, -, hexec⟩ := exec_heard h rfl
  have hother : (s.heard n).isOwn o = false := beq_eq_false_iff_ne.2 hown
  refine hexec.trans (congrArg _ ?_)
  rw [applyFrame, hother]
  rfl

theorem exec_handRefuse_own (h : Heard s n (.handRefuse o k x)) (hown : s.store.station = some o) :
    exec (.handRefuseTaken n o k x) s = .next (takeRefusal n k x (s.heard n)) := by
  obtain ⟨p, -, hexec⟩ := exec_heard h rfl
  refine hexec.trans (congrArg _ ?_)
  rw [applyFrame, isOwn_heard_self hown]
  rfl

/-- The ticket as its handover ends by a refusal, a drop or a lapse (R163). -/
def handedBack (h : Handover) (v : Option Handover) (t : Ticket) : Ticket :=
  { t with state := if h.priorRetest then .retest else .opened, handover := v }

/-- A handover that fails, the event told where there is room (R163, R165). -/
theorem failHandover_told {r : HandoverReason} {v : Option Handover} (hok : TicketsOk s.ticketStore)
    (ht : s.ticketStore.byNumber k = some t) (hh : t.handover = some h) (hroom : generalCount s.port.events < 30)
    (hv : (if r = .timeout then some { h with lapsed := true } else none) = v) : failHandover t h r s = { s with
      ticketStore := updateTicket k (handedBack h v) s.ticketStore
      port := portWith { kind := .handoverFailed, ticket := some k, line := some t.line.val, station := some h.target
                         outcome := some (.handover r) } s } := by
  have hn : t.number = k := (byNumber_mem ht).2
  have hreturned : handoverReturned (r = .timeout) t = handedBack h v t := by
    rw [handoverReturned, hh, handedBack, ← hv]
    simp
  rw [failHandover, emit_updTickets_of_room hroom, hn, State.updTickets, updateTicket_congr hok ht hreturned, ← hn]
  rfl

theorem handoverTimesOut_none (h : ∀ t, s.ticketStore.byNumber k = some t → t.state ≠ .handover) :
    handoverTimesOut k s = s := by
  unfold handoverTimesOut
  split
  · rfl
  · next t ht => rw [show t.inHandover = none from if_neg (h t ht)]

theorem handoverTimesOut_fails (ht : s.ticketStore.byNumber k = some t) (hstate : t.state = .handover)
    (hh : t.handover = some h) : handoverTimesOut k s = failHandover t h .timeout s := by
  unfold handoverTimesOut
  rw [ht]
  dsimp only
  rw [inHandover_of hstate hh]

end Taken

/-- The row HANDOVER_TIMEOUT, once the port has started (R163). -/
theorem exec_handoverTimeout {s : State} {k : TicketNo} (h : s.port.phase ≠ .starting) :
    exec (.handoverTimeout k) s = .next (handoverTimesOut k s) := congrArg _ (if_neg h)

/-- Settles O49: the checks of TICKET HANDOVER one after another, then each frame's row by what it finds of the ticket. -/
theorem handoversRunToTheirEnd : Obligations.HandoversRunToTheirEnd := by
  refine ⟨fun s n m hphase => ?_, fun s n o h => ⟨exec_handOffer_other h, fun hown hroom => ?_⟩,
    fun s m o k new x hok => ⟨fun h => ?_, fun h => ?_⟩, fun s k hok => ⟨fun hnot => ?_, ?_⟩⟩
  · have hanswer : ∀ {a : Answer} {u : State}, takeTicketHandover n m s = (a, u) → Answers (.ticketHandover n m) s a u :=
      fun h => answers_of_take hphase rfl h
    refine ⟨fun h => hanswer (takeTicketHandover_badStation h), fun hlow hhigh hother => ?_⟩
    have hst := stationCheck_passes hlow hhigh hother
    refine ⟨fun ht => hanswer (takeTicketHandover_noTicket hst ht), fun t ht => ?_⟩
    have hfound : ∀ {a : Answer} {u : State}, handoverOf n m t s = (a, u) → Answers (.ticketHandover n m) s a u :=
      fun h => hanswer ((takeTicketHandover_found hst ht).trans h)
    exact ⟨fun hlink => hfound (handoverOf_linkDown hlink), fun hlink hp => hfound (handoverOf_noPeer hlink hp),
      fun hlink hp => ⟨fun hstate => hfound (handoverOf_wrongState hlink hp hstate),
        fun hstate => ⟨fun hbusy => hfound (handoverOf_busy hlink hp hstate hbusy),
          fun hfree hroom => hfound (handoverOf_offers hlink hp hstate hfree hroom)⟩⟩⟩
  · have hexec := exec_handOffer_own h hown
    refine ⟨fun hjoining => ?_, fun hlink hsome => ?_, fun hlink hnone => ⟨fun hfull hopen => ?_, fun hplace hok hcount => ?_⟩⟩
    · have hlink : (s.heard n).link.state ≠ .active := by
        simp [State.answered, hjoining]
      rw [hexec, takeOffer_notActive hlink, offerNotice_heard hroom]
    · rw [hexec, takeOffer_duplicate (s := s.heard n) hlink hsome, offerNotice_heard hroom]
    · rw [hexec, takeOffer_full (s := s.heard n) hlink hnone (hasRoom_false hfull hopen), offerNotice_heard hroom]
    · have htakes := takeOffer_takesIn (s := s.heard n) (n := n) hlink hnone (hasRoom_true hplace)
      obtain ⟨hfree, hadd⟩ := addTicket_of_place (mk := handedInTicket n o (s.heard n)) hplace hok
      have haccept : offerNotice (.handAccept n o.number (numberGiven s.ticketStore))
          ((s.heard n).updTickets (takenIn n o (s.heard n))) = { (s.heard n).updTickets (takenIn n o (s.heard n)) with
            link := linkWith (.handAccept n o.number (numberGiven s.ticketStore)) none s.answered.link } :=
        (offerNotice_of_room (s := (s.heard n).updTickets _) hroom).trans rfl
      have hindex : s.ticketStore.index.filter (·.line != o.line) = s.ticketStore.index.filter (·.line ≠ o.line) := by
        simp [bne, beq_eq_decide]
      have htaken : takenIn n o (s.heard n) s.ticketStore = _ := congrArg (dropIndexLine o.line) hadd
      refine ⟨_, numberGiven s.ticketStore, hexec.trans (congrArg _ htakes), hfree, ?_, ?_, ?_, ?_⟩ <;>
        rw [ticketStore_heard, haccept]
      · rw [emit_ticketStore]
        exact congrArg TicketStore.tickets htaken
      · rw [emit_ticketStore]
        exact (congrArg TicketStore.index htaken).trans hindex
      · rw [emit_link]
      · exact port_emit_of_room hcount
  · refine ⟨fun hcase => ?_, fun t v hown ht hh => ⟨fun hnot => ?_, fun htarget hended hcount => ?_⟩⟩
    · by_cases hown : s.store.station = some o
      · rw [exec_handAccept_own h hown,
          takeAccept_ignored (s := s.heard m) (notOffered_of (hcase.resolve_left (not_not_intro hown)))]
      · exact exec_handAccept_other h hown
    · rw [exec_handAccept_own h hown, takeAccept_ignored (s := s.heard m) (notOffered_of_handover ht hh hnot)]
    · rw [exec_handAccept_own h hown, takeAccept_done (s := s.heard m) ⟨ht, hh, htarget⟩ hended,
        emit_updTickets_of_room (s := s.heard m) hcount]
      rw [State.updTickets, removeTicket_eq, ticketEvent, (byNumber_mem ht).2]
      rfl
  · refine ⟨fun hcase => ?_, fun t v hown ht hh => ⟨fun hnot => ?_, fun htarget hstate hlapsed => ?_,
      fun htarget hstate hcount => ?_⟩⟩
    · by_cases hown : s.store.station = some o
      · rw [exec_handRefuse_own h hown,
          takeRefusal_ignored (s := s.heard m) (notOffered_of (hcase.resolve_left (not_not_intro hown)))]
      · exact exec_handRefuse_other h hown
    · rw [exec_handRefuse_own h hown, takeRefusal_ignored (s := s.heard m) (notOffered_of_handover ht hh hnot)]
    · rw [exec_handRefuse_own h hown, takeRefusal_lapsed (s := s.heard m) ⟨ht, hh, htarget⟩ hstate hlapsed]
    · subst htarget
      rw [exec_handRefuse_own h hown, takeRefusal_fails (s := s.heard v.target) ⟨ht, hh, rfl⟩ hstate,
        failHandover_told (s := s.heard v.target) hok ht hh hcount (if_neg (by simp))]
      rfl
  · by_cases hstarting : s.port.phase = .starting
    · exact congrArg _ (if_pos hstarting)
    · rw [exec_handoverTimeout hstarting, handoverTimesOut_none hnot]
  · intro t h hstarting ht hstate hh hcount
    rw [exec_handoverTimeout hstarting, handoverTimesOut_fails ht hstate hh, failHandover_told hok ht hh hcount rfl]
    rfl

end Sys2Proof.Machine
end

section
/-! PROOFS. TICKET OPEN, TICKET CLOSE and TICKET RETEST (R142, R143, R151, R156 to R158): settles O53. -/

namespace Sys2Proof.Machine

/-! ### Eviction -/

section Eviction

variable {ts : TicketStore} {t : Ticket} {pre post : List Ticket}

/-- The walk to the number that the next ticket takes, from the counter on (R143). -/
theorem newNumber_walk (h : TicketsOk ts) : ∃ k, newNumber ts = (ts.nextNumber - 1 + k) % 9999 + 1 ∧
    ∀ j < k, ∃ t ∈ ts.tickets, t.number = (ts.nextNumber - 1 + j) % 9999 + 1 := freeNumber_walk h.next

theorem evict_of_place (h : ts.tickets.length < 96) : evict ts = ts := if_pos h

/-- A full store loses its first CLEARED ticket, and its closed entry joins the notes where it is announce-pending (R143). -/
theorem evict_first (hsplit : ts.tickets = pre ++ t :: post) (hfull : 96 ≤ ts.tickets.length)
    (hpre : ∀ x ∈ pre, x.state ≠ .cleared) (hstate : t.state = .cleared) : evict ts =
      removeTicket t.number (if t.announcePending then addClosedNote (closedEntryOf t) ts else ts) := by
  have hfind : ts.tickets.find? (·.state == .cleared) = some t := by
    rw [hsplit, List.find?_append, List.find?_eq_none.2 (fun x hx => by simpa using hpre x hx), Option.none_or]
    exact List.find?_cons_of_pos (by simp [hstate])
  unfold evict
  refine (if_neg (Nat.not_lt.2 hfull)).trans ?_
  rw [hfind]

theorem filter_split (hok : TicketsOk ts) (hsplit : ts.tickets = pre ++ t :: post) :
    ts.tickets.filter (·.number ≠ t.number) = pre ++ post := by
  have hnodup := hok.numbers
  rw [hsplit, List.map_append, List.map_cons, List.nodup_middle, List.nodup_cons, ← List.map_append] at hnodup
  have hothers : ∀ x ∈ pre ++ post, x.number ≠ t.number := fun x hx hn =>
    hnodup.1 (hn ▸ List.mem_map_of_mem hx)
  rw [hsplit, List.filter_append, List.filter_cons_of_neg (by simp), ← List.filter_append,
    List.filter_eq_self.2 (fun x hx => decide_eq_true (hothers x hx))]

theorem tickets_evict_first (hok : TicketsOk ts) (hsplit : ts.tickets = pre ++ t :: post)
    (hfull : 96 ≤ ts.tickets.length) (hpre : ∀ x ∈ pre, x.state ≠ .cleared) (hstate : t.state = .cleared) :
    (evict ts).tickets = pre ++ post := by
  rw [evict_first hsplit hfull hpre hstate, removeTicket_eq, ← filter_split hok hsplit]
  split <;> rfl

theorem nextNumber_evict : (evict ts).nextNumber = ts.nextNumber := by
  unfold evict
  repeat' split
  all_goals rfl

theorem hasRoom_of_cleared (hsplit : ts.tickets = pre ++ t :: post) (hstate : t.state = .cleared) : ts.hasRoom = true := by
  rw [TicketStore.hasRoom, Bool.or_eq_true]
  exact .inr (List.any_eq_true.2 ⟨t, by simp [hsplit], by simp [hstate]⟩)

end Eviction

/-! ### TICKET OPEN -/

section Opens

variable {s : State} {l : Line} {k : FaultClass}

theorem takeTicketOpen_badClass {v : Option FaultClass} (h : v = none ∨ v = some .pass) :
    takeTicketOpen l v s = (.badArgument 2, s) := by
  rcases h with rfl | rfl <;> rfl

theorem takeTicketOpen_unconfigured (hk : k ≠ .pass) (h : s.store.configured = false) :
    takeTicketOpen l (some k) s = (.notConfigured, s) :=
  (if_neg (by simp [(failing_iff _).2 hk])).trans (if_pos (by simp [h]))

theorem takeTicketOpen_exists {t : Ticket} (hk : k ≠ .pass) (h : s.store.configured = true)
    (ht : s.ticketStore.byLine l = some t) : takeTicketOpen l (some k) s = (.exists_ t.number, s) := by
  simp [takeTicketOpen, (failing_iff _).2 hk, h, ht, refuse]

theorem takeTicketOpen_elsewhere {e : IndexEntry} (hk : k ≠ .pass) (h : s.store.configured = true)
    (ht : s.ticketStore.byLine l = none) (he : s.ticketStore.indexFor l = some e) :
    takeTicketOpen l (some k) s = (.ownedElsewhere e.owner e.number, s) := by
  simp [takeTicketOpen, (failing_iff _).2 hk, h, ht, he, refuse]

theorem takeTicketOpen_full (hk : k ≠ .pass) (h : s.store.configured = true) (ht : s.ticketStore.byLine l = none)
    (he : s.ticketStore.indexFor l = none) (hroom : s.ticketStore.hasRoom = false) :
    takeTicketOpen l (some k) s = (.storeFull, s) := by
  simp [takeTicketOpen, (failing_iff _).2 hk, h, ht, he, hroom, refuse]

theorem takeTicketOpen_opens (hk : k ≠ .pass) (h : s.store.configured = true) (ht : s.ticketStore.byLine l = none)
    (he : s.ticketStore.indexFor l = none) (hroom : s.ticketStore.hasRoom = true) : takeTicketOpen l (some k) s =
      (.accepted (.ticketNumber (numberGiven s.ticketStore)),
        s.updTickets (addTicket (openedTicket l k .manual s.store.clock []))) := by
  simp [takeTicketOpen, (failing_iff _).2 hk, h, ht, he, hroom]

end Opens

/-! ### TICKET CLOSE and TICKET RETEST -/

section Closes

variable {s : State} {n : TicketNo} {t : Ticket} {i k : Nat}

theorem takeTicketClose_noTicket (h : s.ticketStore.byNumber n = none) : takeTicketClose n s = (.noTicket n, s) := by
  unfold takeTicketClose
  rw [h]
  rfl

theorem takeTicketClose_wrongState (ht : s.ticketStore.byNumber n = some t) (h : t.state = .handover) :
    takeTicketClose n s = (.wrongState, s) := by
  unfold takeTicketClose
  rw [ht]
  exact if_pos h

/-- The notes that a closed ticket leaves (R151, R157). -/
theorem closeTicket_eq {b : Bool} {ts : TicketStore} :
    removeTicket n (if b then addClosedNote (closedEntryOf t) ts else ts) = { ts with
      tickets := ts.tickets.filter (·.number ≠ n)
      closedNotes := if b = true then (if ts.closedNotes.length < 16 then ts.closedNotes else ts.closedNotes.drop 1) ++
        [⟨t.line, t.number, false, t.cls⟩] else ts.closedNotes } := by
  rw [removeTicket_eq]
  cases b <;> rfl

theorem takeTicketClose_closes (ht : s.ticketStore.byNumber n = some t) (h : t.state ≠ .handover) :
    takeTicketClose n s = (.accepted .nothing, s.updTickets fun ts =>
      removeTicket n (if owesClosedEntry t then addClosedNote (closedEntryOf t) ts else ts)) := by
  unfold takeTicketClose
  rw [ht]
  exact if_neg h

theorem takeTicketRetest_noTicket (h : s.ticketStore.byNumber n = none) :
    takeTicketRetest n i k s = (.noTicket n, s) := by
  unfold takeTicketRetest
  rw [h]
  rfl

theorem takeTicketRetest_wrongState (ht : s.ticketStore.byNumber n = some t)
    (h : t.state = .handover ∨ t.state = .cleared) : takeTicketRetest n i k s = (.wrongState, s) := by
  unfold takeTicketRetest
  rw [ht]
  exact if_pos h

/-- TICKET RETEST stores its clamped plan whole (R158). -/
theorem takeTicketRetest_plans {j m : Nat} {u : Ticket} (ht : s.ticketStore.byNumber n = some t)
    (h : t.state = .opened ∨ t.state = .retest) (hj : clampNat 1 240 i = j) (hm : clampNat 0 15 k = m)
    (hu : planned j m (s.dueIn (j * 60)) t = u) : takeTicketRetest n i k s =
      (.accepted (.retestPlan j m (u.plan.map (·.nextDue))), s.updTickets (updateTicket n fun _ => u)) := by
  subst hj hm hu
  unfold takeTicketRetest
  rw [ht]
  exact if_neg (ends_of_handable h)

theorem planned_ends {due : Nat} : planned i 0 due t = { t with plan := none, state := .opened } := if_pos rfl

theorem planned_goesOn {due : Nat} (h : 1 ≤ k) :
    planned i k due t = { t with plan := some ⟨i, k, due⟩, streak := 0, state := .retest } :=
  if_neg (Nat.one_le_iff_ne_zero.1 h)

end Closes

/-- Settles O53: each command's checks one after another; the number given by `newNumber_walk` over the tickets that
eviction leaves. -/
theorem ticketCommandsKeepTheStore : Obligations.TicketCommandsKeepTheStore := by
  refine ⟨fun s l hphase => ?_, fun s n hphase => ?_⟩
  · have hanswer : ∀ {k : Option FaultClass} {a : Answer} {u : State}, takeTicketOpen l k s = (a, u) →
        Answers (.ticketOpen l k) s a u := fun h => answers_of_take hphase rfl h
    refine ⟨fun k hk => hanswer (takeTicketOpen_badClass hk), fun k hk =>
      ⟨fun hconf => hanswer (takeTicketOpen_unconfigured hk hconf), fun hconf =>
        ⟨fun t ht => hanswer (takeTicketOpen_exists hk hconf ht),
          fun e ht he => hanswer (takeTicketOpen_elsewhere hk hconf ht he), fun ht he => ?_⟩⟩⟩
    intro made
    refine ⟨fun hfull hopen => hanswer (takeTicketOpen_full hk hconf ht he (hasRoom_false hfull hopen)),
      fun hplace hok => ?_, fun pre t post hsplit hfull hok hpre hstate => ?_⟩
    · obtain ⟨hfree, hadd⟩ := addTicket_of_place (mk := made) hplace hok
      have hgiven : numberGiven s.ticketStore = newNumber s.ticketStore := by rw [numberGiven, evict_of_place hplace]
      obtain ⟨hlow, hhigh⟩ := newNumber_range hok
      have hopens := hanswer (takeTicketOpen_opens hk hconf ht he (hasRoom_true hplace))
      rw [State.updTickets, show openedTicket l k .manual s.store.clock [] = made from rfl, hadd] at hopens
      rw [hgiven] at hfree hopens
      exact ⟨newNumber s.ticketStore, hlow, hhigh, hfree, newNumber_walk hok, hopens⟩
    · have hevicted := ticketsOk_evict hok
      have htickets := tickets_evict_first hok hsplit hfull hpre hstate
      have hwalk := newNumber_walk hevicted
      rw [htickets, nextNumber_evict] at hwalk
      refine ⟨numberGiven s.ticketStore, _, hanswer (takeTicketOpen_opens hk hconf ht he (hasRoom_of_cleared hsplit hstate)),
        congrArg (· ++ [made (numberGiven s.ticketStore)]) htickets, fun x hx hn => newNumber_free hevicted ?_, hwalk,
        numberAfter_of_le (newNumber_range hevicted).2, fun hpending => ?_, fun hpending hnotes => ?_⟩
      · have hmem : x ∈ (evict s.ticketStore).tickets := htickets ▸ hx
        exact List.mem_map.2 ⟨x, hmem, hn⟩
      · have hclosed : (evict s.ticketStore).closedNotes = s.ticketStore.closedNotes := by
          rw [evict_first hsplit hfull hpre hstate, hpending]
          rfl
        exact hclosed
      · have hclosed : (evict s.ticketStore).closedNotes =
            s.ticketStore.closedNotes ++ [⟨t.line, t.number, false, t.cls⟩] := by
          rw [evict_first hsplit hfull hpre hstate, hpending]
          exact congrArg (· ++ _) (if_pos hnotes)
        exact hclosed
  · have hclose : ∀ {a : Answer} {u : State}, takeTicketClose n s = (a, u) → Answers (.ticketClose n) s a u :=
      fun h => answers_of_take hphase rfl h
    have hretest : ∀ {i k : Nat} {a : Answer} {u : State}, takeTicketRetest n i k s = (a, u) →
        Answers (.ticketRetest n i k) s a u := fun h => answers_of_take hphase rfl h
    refine ⟨fun ht => ⟨hclose (takeTicketClose_noTicket ht), fun i k => hretest (takeTicketRetest_noTicket ht)⟩,
      fun t ht => ⟨fun hstate => hclose (takeTicketClose_wrongState ht hstate), fun hstate => ?_,
        fun i k hstate => hretest (takeTicketRetest_wrongState ht hstate), fun i hstate => ?_, fun i k hstate hk => ?_⟩⟩
    · have hcloses := hclose (takeTicketClose_closes ht hstate)
      rw [State.updTickets, closeTicket_eq] at hcloses
      exact hcloses
    · have hends := takeTicketRetest_plans (i := i) (k := 0) ht hstate rfl rfl planned_ends
      exact hretest hends
    · have hgoesOn := takeTicketRetest_plans (i := i) (k := k) ht hstate rfl (Nat.zero_max _)
        (planned_goesOn (Nat.le_min.2 ⟨by decide, hk⟩))
      exact hretest hgoesOn

end Sys2Proof.Machine
end

section
/-! PROOFS. The soft reset: the farewell's frames, its limit, and the part as the reset ends (R20, R43, R95, R185, R186,
R211, R212): settles O58. -/

namespace Sys2Proof.Machine

/-! ### The farewell's frames -/

section Farewell

variable {s r v : State} {b : FrameBody} {fs bs : List FrameBody}

/-- Frames of the farewell queued behind one another, of which those past the twelfth wait for a slot; nothing but the link
has changed (R83, R95). -/
structure FarewellQueued (v : State) (fs : List FrameBody) (r : State) : Prop where
  link : ∃ q w n, r = { v with link := { v.link with queue := q, waiting := w, nextEntry := n } }
  queue : r.link.queue.map (·.body) = (fs.map QueuedBody.built).take 12
  waiting : r.link.waiting.map (·.body) = (fs.map QueuedBody.built).drop 12
  urgent : ∀ f ∈ r.link.queue ++ r.link.waiting, f.first = 0 ∧ f.urgency = 0

theorem farewellQueued_nil (hq : v.link.queue = []) (hw : v.link.waiting = []) : FarewellQueued v [] v where
  link := ⟨v.link.queue, v.link.waiting, v.link.nextEntry, rfl⟩
  queue := by simp [hq]
  waiting := by simp [hw]
  urgent := by simp [hq, hw]

theorem FarewellQueued.length_queue (h : FarewellQueued v fs r) : r.link.queue.length = min 12 fs.length := by
  simpa using congrArg List.length h.queue

theorem FarewellQueued.waiting_nil (h : FarewellQueued v fs r) (hfew : fs.length < 12) : r.link.waiting = [] := by
  have hmap := h.waiting
  rw [List.drop_eq_nil_of_le (by rw [List.length_map]; exact hfew.le)] at hmap
  exact List.map_eq_nil_iff.1 hmap

/-- An urgency-0 frame behind frames of the farewell enters a free slot or waits: there is none that it displaces (R83). -/
theorem FarewellQueued.offerUrgent (h : FarewellQueued v fs r) (hb : urgencyOf b = 0) :
    FarewellQueued v (fs ++ [b]) (offerUrgent b none r) := by
  obtain ⟨q, w, n, hr⟩ := h.link
  have hlength := h.length_queue
  rcases Nat.lt_or_ge fs.length 12 with hfew | hmany
  · have hwaiting := h.waiting_nil hfew
    rw [offerUrgent_of_room hwaiting (by omega)]
    refine ⟨⟨_, _, _, by rw [enqueue, hr]; rfl⟩, ?_, ?_, ?_⟩
    · simp only [enqueue, link_updLink, List.map_append, h.queue]
      rw [List.take_of_length_le (by simp; omega), List.take_of_length_le (by simp; omega)]
      rfl
    · rw [List.drop_eq_nil_of_le (by simp; omega)]
      simp [enqueue, hwaiting]
    · intro f hf
      simp only [enqueue, link_updLink, hwaiting, List.append_nil, List.mem_append, List.mem_singleton] at hf
      rcases hf with hf | rfl
      · exact h.urgent f (List.mem_append_left _ hf)
      · exact ⟨hb, hb⟩
  · have hall : ∀ f ∈ r.link.queue, 2 ≤ f.first → r.link.onWire f = true := fun f hf hlow => by
      obtain ⟨hfirst, -⟩ := h.urgent f (List.mem_append_left _ hf)
      omega
    rw [offerUrgent_waits (.inr ⟨by omega, hall⟩)]
    refine ⟨⟨_, _, _, by rw [hr]; rfl⟩, ?_, ?_, ?_⟩
    · rw [link_updLink, List.map_append, List.take_append_of_le_length (by simpa using hmany)]
      exact h.queue
    · rw [List.map_append, List.drop_append_of_le_length (by simpa using hmany)]
      simp only [link_updLink, List.map_append, h.waiting]
      rfl
    · intro f hf
      simp only [link_updLink, List.mem_append, List.mem_singleton] at hf
      rcases hf with hf | hf | rfl
      · exact h.urgent f (List.mem_append_left _ hf)
      · exact h.urgent f (List.mem_append_right _ hf)
      · exact ⟨hb, hb⟩

theorem FarewellQueued.foldl (h : FarewellQueued v fs r) (hb : ∀ b ∈ bs, urgencyOf b = 0) :
    FarewellQueued v (fs ++ bs) (bs.foldl (fun r b => Machine.offerUrgent b none r) r) := by
  induction bs generalizing fs r with
  | nil => simpa using h
  | cons b bs ih =>
    rw [List.forall_mem_cons] at hb
    obtain ⟨hone, hrest⟩ := hb
    have hnext := ih (h.offerUrgent hone) hrest
    rwa [List.append_assoc] at hnext

theorem urgencyOf_farewellSet : ∀ b ∈ farewellSet s, urgencyOf b = 0 := by
  have hrelease : ∀ x : ChannelRecord, ∀ b ∈ farewellRelease x, urgencyOf b = 0 := by
    intro x b hb
    unfold farewellRelease at hb
    split at hb
    · rw [List.mem_singleton.1 hb]
      rfl
    · cases hb
  have hclears : ∀ x : ChannelRecord, ∀ b ∈ farewellClears x, urgencyOf b = 0 := by
    intro x b hb
    obtain ⟨k, -, rfl⟩ := List.mem_map.1 hb
    rfl
  have hquiet : ∀ x : ChannelRecord, ∀ b ∈ farewellQuietEnd x, urgencyOf b = 0 := by
    intro x b hb
    obtain ⟨k, -, rfl⟩ := List.mem_map.1 hb
    rfl
  intro b hb
  simp only [farewellSet, List.mem_append] at hb
  rcases hb with ((((hb | hb) | hb) | hb) | hb) | hb
  · exact hrelease _ b hb
  · exact hrelease _ b hb
  · exact hclears _ b hb
  · exact hclears _ b hb
  · exact hquiet _ b hb
  · exact hquiet _ b hb

/-! ### The reset accepted -/

/-- The farewell's frames, none outside ACTIVE (R95). -/
def farewellFrames (s : State) : List FrameBody := if s.link.state = .active then farewellSet s else []

theorem urgencyOf_farewellFrames : ∀ b ∈ farewellFrames s, urgencyOf b = 0 := by
  unfold farewellFrames
  split
  · exact urgencyOf_farewellSet
  · exact fun b hb => absurd hb List.not_mem_nil

/-- The own attempt that a farewell lets end, none outside ACTIVE (R95). -/
def farewellWire (s : State) : Option Attempt := if s.link.state = .active then s.link.wire else none

/-- The part as a soft reset is accepted, before its farewell is queued (R43, R185, R211). -/
def resetAccepted (s : State) : State :=
  { s with
    port := portStarting s.port
    chanA := resetChannel s.chanA
    chanB := resetChannel s.chanB
    auto := { halted s.auto with item := none }
    link := { emptyLink s.link with wire := farewellWire s }
    softReset := some ⟨s.store.lock, !(farewellFrames s).isEmpty || (farewellWire s).isSome⟩ }

theorem takeSoftReset_queues : FarewellQueued (resetAccepted s) (farewellFrames s) (takeSoftReset s) := by
  have hstart : FarewellQueued (resetAccepted s) [] (resetAccepted s) := farewellQueued_nil rfl rfl
  exact hstart.foldl urgencyOf_farewellFrames

theorem chan_resetAccepted (c : Channel) : (resetAccepted s).chan c = resetChannel (s.chan c) := by
  cases c <;> rfl

/-- The farewell's frames in the order of their three groups, each with channel A's first (R95). -/
theorem farewellSet_bodies : (farewellSet s).map QueuedBody.built =
    ([Channel.a, .b].flatMap fun c => if (s.chan c).claim.stage = .held then
      [QueuedBody.built (.release (s.chan c).session.line (s.chan c).session.trunk)] else []) ++
    ([Channel.a, .b].flatMap fun c => ((s.chan c).clears.filter (·.busyTaken)).map fun k =>
      QueuedBody.built (.quietClear k.block k.requester)) ++
    ([Channel.a, .b].flatMap fun c => if (s.chan c).quiet.stands then
      (s.chan c).quiet.block.toList.map fun b => QueuedBody.built (.quietEnd b) else []) := by
  have hrelease : ∀ x : ChannelRecord, (farewellRelease x).map QueuedBody.built =
      if x.claim.stage = .held then [QueuedBody.built (.release x.session.line x.session.trunk)] else [] := by
    intro x
    unfold farewellRelease
    split <;> rfl
  have hends : ∀ x : ChannelRecord, (farewellQuietEnd x).map QueuedBody.built =
      if x.quiet.stands then x.quiet.block.toList.map fun b => QueuedBody.built (.quietEnd b) else [] := by
    intro x
    unfold farewellQuietEnd ownQuietBlock
    split
    · rw [List.map_map]
      rfl
    · rfl
  simp only [farewellSet, List.map_append, hrelease, hends, farewellClears, List.map_map, List.flatMap_cons,
    List.flatMap_nil, List.append_nil, chan_a, chan_b, List.append_assoc]
  rfl

end Farewell

/-! ### The reset ends -/

section ResetEnds

variable {s r : State} {k : Bool} {m : Mask} {t : Trunk} {ts : List Trunk}

/-- The port as a soft reset has ended, with no more events than the link has told (R211, R212). -/
structure FewEvents (m : Mask) (s : State) : Prop where
  phase : s.port.phase = .expectCommand
  mask : s.port.mask = m
  lost : s.port.lost = 0
  few : s.port.events.length ≤ 1 + s.link.linkError.toNat

theorem emit_of_few {e : Event} {n : Nat} (h : s.port.events.length ≤ n) (hn : n < 30) :
    emit e s = enterEvent e s :=
  emit_of_room (Nat.lt_of_le_of_lt ((List.length_filter_le _ _).trans h) hn)

theorem fewEvents_setLinkError (h : FewEvents m s) : FewEvents m (setLinkError s) := by
  unfold setLinkError
  split
  · exact h
  · next hclear =>
      have hlength := h.few
      rw [Bool.eq_false_of_not_eq_true hclear] at hlength
      rw [emit_of_few (n := 1) (by simpa using hlength) (by decide)]
      exact ⟨h.phase, h.mask, rfl, by simpa [enterEvent] using hlength⟩

/-- An out notice queued: nothing is told but that the link is in error (R84, R94). -/
theorem fewEvents_queueTrunkNotice (h : FewEvents m s) (hheld : NoticesHeld s) :
    FewEvents m (queueTrunkNotice t true s) := by
  have hsame : ∀ {w : State}, w.port = s.port → w.link.linkError = s.link.linkError → FewEvents m w := by
    intro w hport herror
    exact ⟨by rw [hport, h.phase], by rw [hport, h.mask], by rw [hport, h.lost], by rw [hport, herror]; exact h.few⟩
  unfold queueTrunkNotice offerNotice holdFrame
  split
  · split
    · exact hsame rfl rfl
    · split
      · exact hsame rfl rfl
      · next oldest rest hholding =>
          split
          · exact hsame rfl rfl
          · rw [tellDroppedFrame_notice (hheld oldest (by rw [hholding]; exact List.mem_cons_self))]
            exact fewEvents_setLinkError (hsame rfl rfl)
  · exact h

theorem noticesHeld_queueTrunkNotice (h : NoticesHeld s) : NoticesHeld (queueTrunkNotice t true s) := by
  unfold queueTrunkNotice
  split
  · exact (offerNotice_noticesHeld h).1
  · exact h

theorem fewEvents_outNotices (h : FewEvents m s) (hheld : NoticesHeld s) : FewEvents m (outNotices ts s) := by
  induction ts generalizing s with
  | nil => exact h
  | cons t ts ih => exact ih (fewEvents_queueTrunkNotice h hheld) (noticesHeld_queueTrunkNotice hheld)

/-- LINK-STATE told to an empty queue (R212). -/
theorem fewEvents_emitIfChanged {old : LinkState} (hphase : s.port.phase = .expectCommand) (hmask : s.port.mask = m)
    (hlost : s.port.lost = 0) (hevents : s.port.events = []) : FewEvents m (emitIfChanged old s) := by
  unfold emitIfChanged emitLinkState
  split
  · exact ⟨hphase, hmask, hlost, by simp [hevents]⟩
  · rw [emit_of_few (n := 0) (by simp [hevents]) (by decide)]
    exact ⟨hphase, hmask, rfl, by simp [enterEvent, hevents]⟩

theorem port_servePresence : (servePresence (joiningLink s)).port = s.port := by
  unfold servePresence joiningLink
  split <;> simp

theorem fewEvents_enterJoining (hphase : s.port.phase = .expectCommand) (hmask : s.port.mask = m) (hlost : s.port.lost = 0)
    (hevents : s.port.events = []) (hholding : s.link.holding = []) : FewEvents m (enterJoining s) := by
  rw [enterJoining_eq, announceTrunks_eq]
  refine fewEvents_outNotices ?_ ?_
  · have hserve := port_servePresence (s := s)
    have htold := fewEvents_emitIfChanged (s := servePresence (joiningLink s)) (old := s.link.state) (m := m)
      (by rw [hserve, hphase]) (by rw [hserve, hmask]) (by rw [hserve, hlost]) (by rw [hserve, hevents])
    exact ⟨htold.phase, htold.mask, htold.lost, htold.few⟩
  · rw [NoticesHeld, link_joined, hholding]
    simp

/-- JOINING entered again from JOINING tells nothing where no trunk is declared out (R87, R104). -/
theorem port_enterJoining_again (hstate : s.link.state = .joining) (hdeclared : s.declaredOut = []) :
    (enterJoining s).port = s.port := by
  have hlink : (servePresence (joiningLink s)).link.state = .joining := by
    unfold servePresence joiningLink
    split <;> simp [enqueue]
  rw [enterJoining_eq, announceTrunks_eq, declaredOut_joined, hdeclared, outNotices, List.foldl_nil, joined,
    emitIfChanged, if_pos (by rw [hlink, hstate]), port_updTickets, port_servePresence]

theorem linkError_enterJoining (hdeclared : s.declaredOut = []) : (enterJoining s).link.linkError = s.link.linkError := by
  rw [enterJoining_eq, announceTrunks_eq, declaredOut_joined, hdeclared, outNotices, List.foldl_nil, link_joined]

theorem clash_enterJoining : (enterJoining s).link.clash = s.link.clash := by
  rw [gains_enterJoining.link, link_joined]

/-- The tickets as a soft reset leaves them: the same ones, none holding its note back (R161, R164). -/
theorem tickets_softResetValues : (softResetValues k s).ticketStore.index = [] ∧
    (softResetValues k s).ticketStore.closedNotes = s.ticketStore.closedNotes ∧
    (softResetValues k s).ticketStore.nextNumber = s.ticketStore.nextNumber ∧
    (softResetValues k s).ticketStore.tickets.map (·.number) = s.ticketStore.tickets.map (·.number) ∧
    (∀ t ∈ (softResetValues k s).ticketStore.tickets, t.noteHeldBack = false) := by
  refine ⟨rfl, rfl, rfl, ?_, fun t ht => ?_⟩
  · simp only [softResetValues, releaseAllNotes, returnHandovers, List.map_map]
    refine List.map_congr_left fun t _ => ?_
    simp only [Function.comp_apply]
    split
    · exact handoverReturned_number _ t
    · rfl
  · obtain ⟨u, -, rfl⟩ := List.mem_map.1 ht
    rfl

/-- A soft reset keeps the clock and what is known of each trunk's condition (R20). -/
theorem store_softResetValues : (softResetValues k s).store.clock = s.store.clock ∧
    ∀ t, ((softResetValues k s).trunkEntry t).condition = (s.trunkEntry t).condition ∧
      ((softResetValues k s).trunkEntry t).streak = (s.trunkEntry t).streak ∧
      ((softResetValues k s).trunkEntry t).declaredBy = (s.trunkEntry t).declaredBy := by
  cases k
  · refine ⟨rfl, fun t => ?_⟩
    simp [State.trunkEntry, softResetValues, resetStore]
  · exact ⟨rfl, fun t => ⟨rfl, rfl, rfl⟩⟩

theorem softResetEnds_joins (hk : k = true) (hconf : s.store.configured = true) :
    softResetEnds k s = enterJoining (softResetValues k s) := by
  subst hk
  exact if_pos hconf

theorem softResetEnds_off (h : k = false ∨ s.store.configured = false) : softResetEnds k s =
    emitIfChanged s.link.state ((softResetValues k s).updLink fun l => { l with state := .off }) := by
  refine if_neg ?_
  rcases h with rfl | h
  · exact Bool.false_ne_true
  · cases k <;> simp [softResetValues, resetStore, h]

/-- What is so at the end of a soft reset, whether the link joins or is OFF (R20, R185, R186, R211, R212). -/
structure ResetEnded (k : Bool) (s u : State) : Prop where
  port : FewEvents s.port.mask u
  beside : Beside (softResetValues k s) u
  auto : u.auto = .initial
  tickets : SameTickets (softResetValues k s).ticketStore u.ticketStore
  clash : u.link.clash = false
  linkError : k = false ∨ s.declaredOut = [] → u.link.linkError = false

theorem softResetEnds_ended : ResetEnded k s (softResetEnds k s) := by
  by_cases hjoins : k = true ∧ s.store.configured = true
  · obtain ⟨rfl, hconf⟩ := hjoins
    rw [softResetEnds_joins rfl hconf]
    refine ⟨fewEvents_enterJoining rfl rfl rfl rfl rfl, beside_enterJoining, auto_enterJoining, sameTickets_enterJoining,
      clash_enterJoining, fun h => linkError_enterJoining (h.resolve_left (by decide))⟩
  · have hoff : k = false ∨ s.store.configured = false := by
      cases k <;> simp_all
    rw [softResetEnds_off hoff]
    refine ⟨fewEvents_emitIfChanged rfl rfl rfl rfl, ?_, ?_, ?_, ?_, fun _ => ?_⟩
    · rw [beside_emitIfChanged, beside_updLink]
      exact Beside.refl _
    · rw [auto_emitIfChanged]
      rfl
    · rw [ticketStore_emitIfChanged]
      exact SameTickets.refl _
    · rw [link_emitIfChanged]
      rfl
    · rw [link_emitIfChanged]
      rfl

end ResetEnds

theorem exec_softResetEnd {s : State} {r : SoftReset} (hr : s.softReset = some r) (hf : r.farewell = false) :
    exec .softResetEnd s = .next (softResetEnds r.kept s) := by
  have hrow : exec .softResetEnd s = execSoftResetEnd s := rfl
  rw [hrow]
  unfold execSoftResetEnd
  rw [hr]
  exact congrArg _ (if_neg (by rw [hf]; exact Bool.false_ne_true))

theorem exec_softResetEnd_none {s : State} (h : s.softReset = none ∨ s.inFarewell = true) :
    exec .softResetEnd s = .next s := by
  have hrow : exec .softResetEnd s = execSoftResetEnd s := rfl
  rw [hrow]
  unfold execSoftResetEnd
  cases hr : s.softReset with
  | none => rfl
  | some r =>
    have hfarewell : r.farewell = true := by
      have hin := h.resolve_left (by rw [hr]; simp)
      simpa [State.inFarewell, hr] using hin
    exact congrArg _ (if_pos hfarewell)

theorem presenceRoom_softResetValues {k : Bool} {s : State} : PresenceRoom (softResetValues k s) :=
  ⟨rfl, Nat.zero_lt_succ 7, Nat.zero_lt_succ 11⟩

/-- Settles O58: the acceptance by `takeSoftReset_queues`, the end by `softResetEnds_ended` and its two links. -/
theorem aSoftResetSaysFarewellAndStartsAnew : Obligations.ASoftResetSaysFarewellAndStartsAnew := by
  refine ⟨fun s h => congrArg _ (if_neg h), fun s hphase => ?_, fun s => ⟨fun h => ?_, fun h => ?_⟩,
    fun s => ⟨exec_softResetEnd_none, fun r hr hf => ?_⟩⟩
  · have hexec : exec .softReset s = .next (takeSoftReset s) := congrArg _ (if_pos hphase)
    have hqueues := takeSoftReset_queues (s := s)
    obtain ⟨q, w, n, hu⟩ := hqueues.link
    generalize takeSoftReset s = u at *
    have hchan : ∀ c, u.chan c = resetChannel (s.chan c) := fun c => by
      rw [hu, ← chan_resetAccepted]
      cases c <;> rfl
    have hfarewell : u.inFarewell = (!(farewellFrames s).isEmpty || (farewellWire s).isSome) := by
      rw [hu]
      exact Option.any_some
    refine ⟨u, hexec, by rw [hu]; rfl, by rw [hu]; rfl, by rw [hu]; rfl, by rw [hu]; rfl, by rw [hu]; rfl,
      fun c => ?_, by rw [hu]; rfl, by rw [hu]; rfl, by rw [hu]; rfl, fun hlink => ?_, fun hlink => ?_⟩
    · have hbusy : u.busy c = false := by
        rw [State.busy, hchan]
        rfl
      rw [hchan]
      exact ⟨rfl, rfl, rfl, rfl, rfl, rfl, hbusy⟩
    · have hframes : farewellFrames s = [] := if_neg hlink
      have hwire : farewellWire s = none := if_neg hlink
      have hqueue := hqueues.queue
      rw [hframes] at hqueue hfarewell
      refine ⟨List.map_eq_nil_iff.1 hqueue, by rw [hu]; exact hwire, by rw [hfarewell, hwire]; rfl⟩
    · have hframes : farewellFrames s = farewellSet s := if_pos hlink
      have hwire : farewellWire s = s.link.wire := if_pos hlink
      have hqueue := hqueues.queue
      have hwaiting := hqueues.waiting
      rw [hframes, farewellSet_bodies] at hqueue hwaiting
      refine ⟨hqueue, hwaiting, fun f hf => (hqueues.urgent f hf).2, ?_⟩
      rw [hfarewell, hwire, hframes, ← farewellSet_bodies, List.isEmpty_map]
  · exact congrArg _ (if_neg (by rw [h]; exact Bool.false_ne_true))
  · refine ⟨endFarewell s, congrArg _ (if_pos h), rfl, rfl, ?_, rfl⟩
    cases hr : s.softReset <;> simp [State.inFarewell, endFarewell, hr]
  · have hended := softResetEnds_ended (k := r.kept) (s := s)
    have hexec := exec_softResetEnd hr hf
    obtain ⟨hindex, hclosed, hnext, hnumbers, hreleased⟩ := tickets_softResetValues (k := r.kept) (s := s)
    obtain ⟨hclock, htrunks⟩ := store_softResetValues (k := r.kept) (s := s)
    generalize hu : softResetEnds r.kept s = u at *
    have hlines : u.ticketStore.tickets.map (·.number) = s.ticketStore.tickets.map (·.number) := by
      have hlines := congrArg (List.map Prod.fst) hended.tickets.lines
      rw [List.map_map, List.map_map] at hlines
      exact hlines.trans hnumbers
    refine ⟨_, hexec, hended.port.phase, hended.port.mask, hended.port.lost, hended.beside.roster,
      hended.tickets.index.trans hindex, hended.tickets.closedNotes.trans hclosed, hended.tickets.nextNumber.trans hnext,
      hlines, hended.tickets.released hreleased, hended.auto, hended.beside.watch, hended.beside.softReset, hended.clash,
      hended.linkError, ?_, ?_, ?_, ?_⟩
    · rw [hended.beside.store, hclock]
    · intro t
      rw [trunkEntry_of_store hended.beside.store]
      exact htrunks t
    · intro hkept hconf hdeclared
      rw [softResetEnds_joins hkept hconf, hkept] at hu
      have hjoins := enterJoining_joins (s := softResetValues true s)
      rw [hu] at hjoins
      obtain ⟨hmark, -⟩ := hjoins.presence presenceRoom_softResetValues
      have hnone : (softResetValues true s).declaredOut = [] := hdeclared
      have hframes := hjoins.frames PortPhase.noConfusion rfl rfl (by rw [hnone]; exact Nat.zero_lt_succ 7)
        (by rw [hnone]; exact Nat.zero_lt_succ 11)
      rw [hnone] at hframes
      refine ⟨hjoins.store, hjoins.state, hmark, ?_, hjoins.settle, fun hstate => ?_, fun hstate => ?_⟩
      · exact hframes
      · rw [← hu, port_enterJoining_again (s := softResetValues true s) hstate hdeclared]
        rfl
      · rw [hjoins.event hstate (Nat.zero_lt_succ 29) hdeclared]
        rfl
    · intro hkept
      have hlink : u.link = { Link.initial with state := .off, nextEntry := s.link.nextEntry } := by
        rw [← hu, softResetEnds_off (.inl hkept), link_emitIfChanged]
        rfl
      have hstore : u.store = (softResetValues false s).store := by rw [hended.beside.store, hkept]
      have hentry : ∀ t, u.trunkEntry t = { s.trunkEntry t with rtrunk := 0, ctrunk := 0 } := fun t => by
        rw [trunkEntry_of_store hstore]
        simp [State.trunkEntry, softResetValues, resetStore]
      refine ⟨by rw [hlink], by rw [hlink]; rfl, by rw [hstore]; rfl, by rw [hstore]; rfl, by rw [hstore]; rfl,
        by rw [hstore]; rfl, fun b => ?_, fun t => ?_, by rw [hstore]; rfl⟩
      · rw [State.blockEntry, hstore]
        simp [softResetValues, resetStore, Store.initial]
      · rw [hentry]
        exact ⟨rfl, rfl⟩

end Sys2Proof.Machine
end

section
/-! The sweep record as it moves on and completes (R180 to R182), and the arbiter's walk: settles O56. -/

namespace Sys2Proof.Machine

/-! ### Events told where there is room -/

section ToldInRoom

variable {s t : State} {p : Event → Prop} {e : Event}

/-- An event that satisfies a condition is in the queue, unless the queue is full (R204). -/
def ToldInRoom (p : Event → Prop) (s : State) : Prop := generalCount s.port.events < 30 → Told p s

theorem toldInRoom_emit_self (h : ∀ time lost, p { e with time := time, lostBefore := lost }) :
    ToldInRoom p (emit e s) := by
  intro hroom
  rw [emit_entered hroom, Told]
  exact ⟨_, List.mem_append_right _ (List.mem_singleton_self _), h _ _⟩

theorem toldInRoom_emit (h : ToldInRoom p s) : ToldInRoom p (emit e s) := fun hroom =>
  told_emit (h (Nat.lt_of_le_of_lt generalCount_le_emit hroom)) e

theorem toldInRoom_of_port (h : ToldInRoom p s) (hport : t.port = s.port) : ToldInRoom p t := fun hroom =>
  told_of_port (h (hport ▸ hroom)) hport

end ToldInRoom

/-! ### The sweep record -/

section Sweeps

variable {s : State} {w v : Sweep} {l : Line} {f g : Sweep → Sweep} {e : Event} {p : Event → Prop}

theorem sweep_updSweep : (updSweep f s).auto.sweep = s.auto.sweep.map f := by simp [updSweep]

theorem sweep_emit : (emit e s).auto.sweep = s.auto.sweep := by simp

theorem sweep_skipLine : (skipLine l s).auto.sweep =
    s.auto.sweep.map fun w => { w with skipped := countUp w.skipped 1 } := by
  rw [skipLine, sweep_emit, sweep_updSweep]

@[simp] theorem port_updSweep : (updSweep f s).port = s.port := by simp [updSweep]

/-- A sweep record that has run out of lines is complete (R182). -/
def settled (w : Sweep) : Sweep :=
  if w.phase = .deferredPass ∧ w.deferred = [] then { w with phase := .complete } else w

theorem completeSweep_runsOut (hw : s.auto.sweep = some w) (h : w.phase = .deferredPass ∧ w.deferred = []) :
    completeSweep s = emit { kind := .sweepDone, counts := some (w.tested, w.failed, w.skipped) }
      (updSweep (fun w => { w with phase := .complete }) s) := by
  unfold completeSweep
  rw [hw]
  exact if_pos h

theorem completeSweep_goesOn (hw : s.auto.sweep = some w) (h : ¬(w.phase = .deferredPass ∧ w.deferred = [])) :
    completeSweep s = s := by
  unfold completeSweep
  rw [hw]
  exact if_neg h

theorem sweep_completeSweep (hw : s.auto.sweep = some w) : (completeSweep s).auto.sweep = some (settled w) := by
  by_cases h : w.phase = .deferredPass ∧ w.deferred = []
  · rw [completeSweep_runsOut hw h, sweep_emit, sweep_updSweep, hw, settled, if_pos h]
    rfl
  · rw [completeSweep_goesOn hw h, hw, settled, if_neg h]

/-- A sweep that does not complete tells nothing (R182). -/
theorem completeSweep_quiet (hv : (completeSweep s).auto.sweep = some v) (h : v.phase ≠ .complete) :
    completeSweep s = s := by
  cases hw : s.auto.sweep with
  | none =>
    unfold completeSweep
    rw [hw]
  | some w =>
    refine completeSweep_goesOn hw fun hends => h ?_
    rw [sweep_completeSweep hw, settled, if_pos hends] at hv
    cases hv
    rfl

theorem toldInRoom_completeSweep (h : ToldInRoom p s) : ToldInRoom p (completeSweep s) := by
  unfold completeSweep
  split
  · exact h
  · split
    · exact toldInRoom_emit (toldInRoom_of_port h port_updSweep)
    · exact h

theorem toldInRoom_skipLine (h : ToldInRoom p s) : ToldInRoom p (skipLine l s) :=
  toldInRoom_emit (toldInRoom_of_port h port_updSweep)

/-- The line passed over is told (R181, R182). -/
theorem toldInRoom_skipped : ToldInRoom (fun e => e.kind = .sweepSkipped ∧ e.line = some l.val) (skipLine l s) :=
  toldInRoom_emit_self fun _ _ => ⟨rfl, rfl⟩

/-- A sweep that completes tells its counts (R182). -/
theorem toldInRoom_done (hw : s.auto.sweep = some w) (hphase : w.phase ≠ .complete) (hdone : (settled w).phase = .complete) :
    ToldInRoom (fun e => e.kind = .sweepDone ∧
      e.counts = some ((settled w).tested, (settled w).failed, (settled w).skipped)) (completeSweep s) := by
  have h : w.phase = .deferredPass ∧ w.deferred = [] := by
    by_contra hnot
    rw [settled, if_neg hnot] at hdone
    exact hphase hdone
  rw [completeSweep_runsOut hw h, settled, if_pos h]
  exact toldInRoom_emit_self fun _ _ => ⟨rfl, rfl⟩

theorem cursorPast_next (h : l.val < w.last.val) (hl : l.val + 1 < 65536) :
    cursorPast l w = { w with cursor := ⟨l.val + 1, hl⟩ } := (dif_pos hl).trans (if_pos h)

theorem cursorPast_last (h : ¬(l.val < w.last.val ∧ l.val + 1 < 65536)) :
    cursorPast l w = { w with phase := .deferredPass } := by
  by_cases hl : l.val + 1 < 65536
  · exact (dif_pos hl).trans (if_neg fun hlast => h ⟨hlast, hl⟩)
  · exact dif_neg hl

theorem settled_of_phase (h : w.phase ≠ .deferredPass) : settled w = w := if_neg fun hboth => h hboth.1

theorem settled_deferredPass (h : w.phase = .deferredPass) :
    settled w = { w with phase := if w.deferred = [] then .complete else .deferredPass } := by
  by_cases hempty : w.deferred = []
  · rw [settled, if_pos ⟨h, hempty⟩, if_pos hempty]
  · rw [settled, if_neg fun hboth => hempty hboth.2, if_neg hempty, ← h]

/-- The sweep record after the cursor has moved past a line in MAIN (R180, R182). -/
theorem settled_cursorPast (hphase : w.phase = .main) :
    (∀ h : l.val < w.last.val ∧ l.val + 1 < 65536,
      settled (cursorPast l w) = { w with cursor := ⟨l.val + 1, h.2⟩ }) ∧
    (¬(l.val < w.last.val ∧ l.val + 1 < 65536) →
      settled (cursorPast l w) = { w with phase := if w.deferred = [] then .complete else .deferredPass }) := by
  refine ⟨fun h => ?_, fun h => ?_⟩
  · rw [cursorPast_next h.1 h.2, settled_of_phase (by simp [hphase])]
  · rw [cursorPast_last h, settled_deferredPass rfl]

end Sweeps

/-! ### One look of the walk -/

section Walk

variable {s t : State} {w : Sweep} {l : Line} {rest : List Line} {i : Item}

/-- The state as a block is passed over (R180). -/
def blockPassed (w : Sweep) (s : State) : State :=
  updSweep (fun w => cursorPast (skipEnd w)
      { w with skipped := countUp w.skipped ((skipEnd w).val - w.cursor.val + 1) })
    (emit { kind := .blockSkipped, line := some w.cursor.val } s)

/-- The state as a ticketed line is passed over (R180). -/
def linePassed (s : State) : State := updSweep (fun w => cursorPast w.cursor { w with skipped := countUp w.skipped 1 }) s

theorem toldInRoom_blockPassed :
    ToldInRoom (fun e => e.kind = .blockSkipped ∧ e.line = some w.cursor.val) (blockPassed w s) := by
  have htold : ToldInRoom (fun e => e.kind = .blockSkipped ∧ e.line = some w.cursor.val)
      (emit { kind := .blockSkipped, line := some w.cursor.val } s) := toldInRoom_emit_self fun _ _ => ⟨rfl, rfl⟩
  exact toldInRoom_of_port htold port_updSweep

theorem walkStep_none (h : s.auto.sweep = none) : walkStep s = .done := by
  unfold walkStep
  rw [h]

theorem walkStep_complete (hw : s.auto.sweep = some w) (h : w.phase = .complete) : walkStep s = .done := by
  unfold walkStep
  rw [hw]
  simp only [h]

theorem walkStep_block (hw : s.auto.sweep = some w) (h : w.phase = .main) (ha : s.blockEntry (blockOf w.cursor) = none) :
    walkStep s = .passed (completeSweep (blockPassed w s)) := by
  unfold walkStep
  rw [hw]
  simp only [h]
  exact if_pos (by rw [ha]; rfl)

theorem blockEntry_isNone {b : Block} (h : s.blockEntry b ≠ none) : ¬(s.blockEntry b).isNone = true := by
  simpa using h

theorem walkStep_ticketed (hw : s.auto.sweep = some w) (h : w.phase = .main)
    (ha : s.blockEntry (blockOf w.cursor) ≠ none) (hk : ticketed s.ticketStore w.cursor = true) :
    walkStep s = .passed (completeSweep (linePassed s)) := by
  unfold walkStep
  rw [hw]
  simp only [h]
  exact (if_neg (blockEntry_isNone ha)).trans (if_pos hk)

theorem walkStep_line (hw : s.auto.sweep = some w) (h : w.phase = .main)
    (ha : s.blockEntry (blockOf w.cursor) ≠ none) (hk : ¬ticketed s.ticketStore w.cursor = true) :
    walkStep s = .item (sweepItem w w.cursor false) := by
  unfold walkStep
  rw [hw]
  simp only [h]
  exact (if_neg (blockEntry_isNone ha)).trans (if_neg hk)

theorem walkStep_empty (hw : s.auto.sweep = some w) (h : w.phase = .deferredPass) (hd : w.deferred = []) :
    walkStep s = .done := by
  unfold walkStep
  rw [hw]
  simp only [h, hd]

theorem walkStep_deferredBlock (hw : s.auto.sweep = some w) (h : w.phase = .deferredPass) (hd : w.deferred = l :: rest)
    (ha : s.blockEntry (blockOf l) = none) :
    walkStep s = .passed (completeSweep (skipLine l (updSweep (fun w => { w with deferred := rest }) s))) := by
  unfold walkStep
  rw [hw]
  simp only [h, hd]
  exact if_pos (by rw [ha]; rfl)

theorem walkStep_deferredTicketed (hw : s.auto.sweep = some w) (h : w.phase = .deferredPass)
    (hd : w.deferred = l :: rest) (ha : s.blockEntry (blockOf l) ≠ none) (hk : ticketed s.ticketStore l = true) :
    walkStep s = .passed (completeSweep
      (updSweep (fun w => { w with deferred := rest, skipped := countUp w.skipped 1 }) s)) := by
  unfold walkStep
  rw [hw]
  simp only [h, hd]
  exact (if_neg (blockEntry_isNone ha)).trans (if_pos hk)

theorem walkStep_deferredLine (hw : s.auto.sweep = some w) (h : w.phase = .deferredPass) (hd : w.deferred = l :: rest)
    (ha : s.blockEntry (blockOf l) ≠ none) (hk : ¬ticketed s.ticketStore l = true) :
    walkStep s = .item (sweepItem w l true) := by
  unfold walkStep
  rw [hw]
  simp only [h, hd]
  exact (if_neg (blockEntry_isNone ha)).trans (if_neg hk)

/-- The sweep record after one line or block has been passed over in MAIN. -/
def sweepMoved (w : Sweep) (l : Line) (n : Nat) : Sweep := settled (cursorPast l { w with skipped := countUp w.skipped n })

theorem sweep_blockPassed (hw : s.auto.sweep = some w) : (completeSweep (blockPassed w s)).auto.sweep =
    some (sweepMoved w (skipEnd w) ((skipEnd w).val - w.cursor.val + 1)) :=
  sweep_completeSweep (by rw [blockPassed, sweep_updSweep, sweep_emit, hw]; rfl)

theorem sweep_linePassed (hw : s.auto.sweep = some w) :
    (completeSweep (linePassed s)).auto.sweep = some (sweepMoved w w.cursor 1) :=
  sweep_completeSweep (by rw [linePassed, sweep_updSweep, hw]; rfl)

/-- The sweep record after the head of the deferred list has been passed over (R182). -/
def headPassed (w : Sweep) (rest : List Line) : Sweep :=
  settled { w with deferred := rest, skipped := countUp w.skipped 1 }

theorem sweep_deferredBlock (hw : s.auto.sweep = some w) :
    (completeSweep (skipLine l (updSweep (fun w => { w with deferred := rest }) s))).auto.sweep =
      some (headPassed w rest) :=
  sweep_completeSweep (by rw [sweep_skipLine, sweep_updSweep, hw]; rfl)

theorem sweep_deferredTicketed (hw : s.auto.sweep = some w) :
    (completeSweep (updSweep (fun w => { w with deferred := rest, skipped := countUp w.skipped 1 }) s)).auto.sweep =
      some (headPassed w rest) :=
  sweep_completeSweep (by rw [sweep_updSweep, hw]; rfl)

theorem headPassed_eq (h : w.phase = .deferredPass) : headPassed w rest = { w with
    deferred := rest, skipped := min 65535 (w.skipped + 1)
    phase := if rest = [] then .complete else .deferredPass } := settled_deferredPass h

/-- Where the cursor stands after a line or block has been passed over in MAIN (R180, R182). -/
theorem sweepMoved_cases {n : Nat} (hphase : w.phase = .main) :
    (∃ h : l.val < w.last.val ∧ l.val + 1 < 65536, sweepMoved w l n = { w with
      cursor := ⟨l.val + 1, h.2⟩, skipped := countUp w.skipped n }) ∨
    (¬(l.val < w.last.val ∧ l.val + 1 < 65536) ∧ sweepMoved w l n = { w with
      phase := if w.deferred = [] then .complete else .deferredPass, skipped := countUp w.skipped n }) := by
  obtain ⟨hnext, hlast⟩ := settled_cursorPast (w := { w with skipped := countUp w.skipped n }) (l := l) hphase
  by_cases h : l.val < w.last.val ∧ l.val + 1 < 65536
  · exact .inl ⟨h, hnext h⟩
  · exact .inr ⟨h, hlast h⟩

/-! How many looks a walk needs. -/

/-- The lines from a cursor on that an own ticket or an index entry keeps from the sweep. -/
def linesAhead (c : Nat) (ts : TicketStore) : Nat :=
  (ts.tickets.filter (c ≤ ·.line.val)).length + (ts.index.filter (c ≤ ·.line.val)).length

/-- How many lines and blocks a walk can still pass over: the blocks and the ticketed lines from the cursor on, then the
deferred lines. -/
def looksLeft (ts : TicketStore) (w : Sweep) : Nat :=
  match w.phase with
  | .complete => 0
  | .main => 64 - w.cursor.val / 1024 + linesAhead w.cursor.val ts + w.deferred.length
  | .deferredPass => w.deferred.length

theorem looksLeft_main {ts : TicketStore} (h : w.phase = .main) :
    looksLeft ts w = 64 - w.cursor.val / 1024 + linesAhead w.cursor.val ts + w.deferred.length := by
  rw [looksLeft, h]

theorem looksLeft_settled {ts : TicketStore} (h : w.phase ≠ .main) : looksLeft ts w ≤ w.deferred.length := by
  unfold looksLeft
  split
  · exact Nat.zero_le _
  · next hmain => exact absurd hmain h
  · exact Nat.le_refl _

theorem length_filter_le_of_imp {α : Type} {p q : α → Bool} {l : List α} (h : ∀ x ∈ l, p x = true → q x = true) :
    (l.filter p).length ≤ (l.filter q).length := by
  rw [← List.countP_eq_length_filter, ← List.countP_eq_length_filter]
  exact List.countP_mono_left h

theorem linesAhead_mono {ts : TicketStore} {c d : Nat} (h : c ≤ d) : linesAhead d ts ≤ linesAhead c ts := by
  refine Nat.add_le_add (length_filter_le_of_imp fun t _ ht => ?_) (length_filter_le_of_imp fun e _ he => ?_)
  · exact decide_eq_true (Nat.le_trans h (of_decide_eq_true ht))
  · exact decide_eq_true (Nat.le_trans h (of_decide_eq_true he))

theorem length_filter_lt_of_imp {α : Type} {p q : α → Bool} {l : List α} {x : α} (h : ∀ y ∈ l, p y = true → q y = true)
    (hx : x ∈ l) (hq : q x = true) (hp : ¬p x = true) : (l.filter p).length < (l.filter q).length := by
  have hfilter : (l.filter q).filter p = l.filter p := by
    rw [List.filter_filter]
    refine List.filter_congr fun y hy => ?_
    by_cases hpy : p y = true
    · rw [hpy, h y hy hpy, Bool.true_and]
    · rw [Bool.not_eq_true] at hpy
      rw [hpy, Bool.false_and]
  rw [← hfilter]
  exact List.length_filter_lt_length_iff_exists.2 ⟨x, List.mem_filter.2 ⟨hx, hq⟩, hp⟩

theorem ticketed_iff {ts : TicketStore} :
    ticketed ts l = true ↔ (∃ t ∈ ts.tickets, t.line = l) ∨ ∃ e ∈ ts.index, e.line = l := by
  simp [ticketed, TicketStore.byLine, TicketStore.indexFor, List.find?_isSome]

/-- A ticketed line under the cursor is not met again (R180). -/
theorem linesAhead_lt {ts : TicketStore} (h : ticketed ts l = true) : linesAhead (l.val + 1) ts < linesAhead l.val ts := by
  rcases ticketed_iff.1 h with ⟨t, ht, rfl⟩ | ⟨e, he, rfl⟩
  · refine Nat.add_lt_add_of_lt_of_le (length_filter_lt_of_imp (x := t) (fun u _ hu => ?_) ht ?_ ?_)
      (length_filter_le_of_imp fun e _ he => ?_)
    · exact decide_eq_true (Nat.le_of_succ_le (of_decide_eq_true hu))
    · exact decide_eq_true (Nat.le_refl _)
    · simp
    · exact decide_eq_true (Nat.le_of_succ_le (of_decide_eq_true he))
  · refine Nat.add_lt_add_of_le_of_lt (length_filter_le_of_imp fun t _ ht => ?_)
      (length_filter_lt_of_imp (x := e) (fun u _ hu => ?_) he ?_ ?_)
    · exact decide_eq_true (Nat.le_of_succ_le (of_decide_eq_true ht))
    · exact decide_eq_true (Nat.le_of_succ_le (of_decide_eq_true hu))
    · exact decide_eq_true (Nat.le_refl _)
    · simp

/-- A step past the cursor leaves fewer looks where it leaves the block or meets a ticketed line (R180). -/
theorem looksLeft_sweepMoved {ts : TicketStore} {n : Nat} (hphase : w.phase = .main)
    (hless : l.val < w.last.val → w.cursor.val ≤ l.val ∧ (w.cursor.val / 1024 < (l.val + 1) / 1024 ∨
      (l = w.cursor ∧ ticketed ts w.cursor = true))) : looksLeft ts (sweepMoved w l n) < looksLeft ts w := by
  have hblocks : w.cursor.val / 1024 < 64 := by omega
  rw [looksLeft_main hphase]
  rcases sweepMoved_cases (l := l) (n := n) hphase with ⟨h, hmoved⟩ | ⟨-, hmoved⟩
  · rw [hmoved, looksLeft_main (by exact hphase)]
    obtain ⟨hle, hcase⟩ := hless h.1
    have hmono : linesAhead (l.val + 1) ts ≤ linesAhead w.cursor.val ts := linesAhead_mono (Nat.le_succ_of_le hle)
    dsimp only
    rcases hcase with hblock | ⟨rfl, hticketed⟩
    · omega
    · have hlt := linesAhead_lt hticketed
      have hdiv : w.cursor.val / 1024 ≤ (w.cursor.val + 1) / 1024 := Nat.div_le_div_right (Nat.le_succ _)
      omega
  · rw [hmoved]
    refine Nat.lt_of_le_of_lt (looksLeft_settled (by dsimp only; split <;> simp)) ?_
    dsimp only
    omega

/-- Every line or block passed over leaves fewer looks, the tickets as they were (R180, R182). -/
theorem walkStep_passes (h : walkStep s = .passed t) : ∃ w v, s.auto.sweep = some w ∧ t.auto.sweep = some v ∧
    t.ticketStore = s.ticketStore ∧ looksLeft s.ticketStore v < looksLeft s.ticketStore w := by
  cases hw : s.auto.sweep with
  | none => rw [walkStep_none hw] at h; cases h
  | some w =>
    cases hphase : w.phase with
    | complete => rw [walkStep_complete hw hphase] at h; cases h
    | main =>
      by_cases ha : s.blockEntry (blockOf w.cursor) = none
      · rw [walkStep_block hw hphase ha] at h
        cases h
        refine ⟨w, _, rfl, sweep_blockPassed hw, by simp [ticketStore_completeSweep, blockPassed, updSweep],
          looksLeft_sweepMoved hphase fun hlast => ?_⟩
        have hend : (skipEnd w).val = min w.last.val (w.cursor.val / 1024 * 1024 + 1023) := rfl
        exact ⟨by omega, .inl (by omega)⟩
      · by_cases hk : ticketed s.ticketStore w.cursor = true
        · rw [walkStep_ticketed hw hphase ha hk] at h
          cases h
          exact ⟨w, _, rfl, sweep_linePassed hw, by simp [ticketStore_completeSweep, linePassed, updSweep],
            looksLeft_sweepMoved hphase fun _ => ⟨Nat.le_refl _, .inr ⟨rfl, hk⟩⟩⟩
        · rw [walkStep_line hw hphase ha hk] at h
          cases h
    | deferredPass =>
      cases hd : w.deferred with
      | nil => rw [walkStep_empty hw hphase hd] at h; cases h
      | cons l rest =>
        have hfewer : looksLeft s.ticketStore (headPassed w rest) < looksLeft s.ticketStore w := by
          have hleft : looksLeft s.ticketStore w = w.deferred.length := by rw [looksLeft, hphase]
          rw [headPassed_eq hphase, hleft, hd, List.length_cons]
          exact Nat.lt_succ_of_le (looksLeft_settled (by dsimp only; split <;> simp))
        by_cases ha : s.blockEntry (blockOf l) = none
        · rw [walkStep_deferredBlock hw hphase hd ha] at h
          cases h
          exact ⟨w, _, rfl, sweep_deferredBlock hw, by simp [ticketStore_completeSweep, skipLine, updSweep], hfewer⟩
        · by_cases hk : ticketed s.ticketStore l = true
          · rw [walkStep_deferredTicketed hw hphase hd ha hk] at h
            cases h
            exact ⟨w, _, rfl, sweep_deferredTicketed hw, by simp [ticketStore_completeSweep, updSweep], hfewer⟩
          · rw [walkStep_deferredLine hw hphase hd ha hk] at h
            cases h

/-- The walk ends at an item, or where there is nothing left to look at: its fuel does not run out (R180, R182). -/
theorem walkSweep_ends {n : Nat} (hn : ∀ w, s.auto.sweep = some w → looksLeft s.ticketStore w < n) (hpos : 0 < n) :
    (∀ u i, walkSweep n s = (u, some i) → walkStep u = .item i) ∧
    (∀ u, walkSweep n s = (u, none) → walkStep u = .done) := by
  induction n generalizing s with
  | zero => exact absurd hpos (Nat.lt_irrefl 0)
  | succ n ih =>
    unfold walkSweep
    cases hstep : walkStep s with
    | item i =>
      refine ⟨fun u j h => ?_, fun u h => ?_⟩ <;> cases h
      exact hstep
    | done =>
      refine ⟨fun u j h => ?_, fun u h => ?_⟩ <;> cases h
      exact hstep
    | passed t =>
      obtain ⟨w, v, hw, hv, htickets, hless⟩ := walkStep_passes hstep
      have hfew := hn w hw
      refine ih (fun x hx => ?_) (by omega)
      rw [hv] at hx
      cases hx
      rw [htickets]
      omega

theorem looksLeft_lt_walkFuel (hw : s.auto.sweep = some w) : looksLeft s.ticketStore w < walkFuel s := by
  have htickets := List.length_filter_le (fun t : Ticket => decide (w.cursor.val ≤ t.line.val)) s.ticketStore.tickets
  have hindex := List.length_filter_le (fun e : IndexEntry => decide (w.cursor.val ≤ e.line.val)) s.ticketStore.index
  have hfuel : walkFuel s = s.ticketStore.tickets.length + s.ticketStore.index.length + w.deferred.length + 66 := by
    rw [walkFuel, hw]
    rfl
  rw [hfuel]
  unfold looksLeft linesAhead
  split <;> omega

end Walk

/-- Settles O56: each look by its `walkStep_…` lemma, the end of the walk by `walkSweep_ends`. -/
theorem theWalkPassesOverBlockedLines : Obligations.TheWalkPassesOverBlockedLines := by
  refine ⟨fun s w hw => ?_, fun s l => ticketed_iff, fun s t n h => ?_, fun s hdue => ?_⟩
  · intro known absent upTo moved
    have hcases : ∀ (l : Line) (n : Nat), w.phase = .main → moved l.val (sweepMoved w l n) ∧
        (sweepMoved w l n).skipped = min 65535 (w.skipped + n) := by
      intro l n hphase
      rcases sweepMoved_cases (l := l) (n := n) hphase with ⟨h, hmoved⟩ | ⟨h, hmoved⟩
      · rw [hmoved]
        exact ⟨by simp [moved, if_pos h], rfl⟩
      · rw [hmoved]
        exact ⟨by simp only [moved, if_neg h], rfl⟩
    refine ⟨walkStep_complete hw, fun hphase ha => ?_, fun hphase ha hk => ?_, walkStep_line hw,
      walkStep_empty hw, fun l rest hphase hd => ?_⟩
    · obtain ⟨hmoved, hskipped⟩ := hcases (skipEnd w) ((skipEnd w).val - w.cursor.val + 1) hphase
      exact ⟨_, _, walkStep_block hw hphase ha, sweep_blockPassed hw, hmoved, hskipped,
        toldInRoom_completeSweep toldInRoom_blockPassed⟩
    · obtain ⟨hmoved, hskipped⟩ := hcases w.cursor 1 hphase
      refine ⟨_, _, walkStep_ticketed hw hphase ha hk, sweep_linePassed hw, hmoved, hskipped, fun hgoes => ?_⟩
      rw [completeSweep_quiet (sweep_linePassed hw) hgoes]
      exact port_updSweep
    · intro out
      have hout : headPassed w rest = out := headPassed_eq hphase
      rw [← hout]
      exact ⟨fun ha => ⟨_, walkStep_deferredBlock hw hphase hd ha, sweep_deferredBlock hw,
          toldInRoom_completeSweep toldInRoom_skipped⟩,
        fun ha hk => ⟨_, walkStep_deferredTicketed hw hphase hd ha hk, sweep_deferredTicketed hw⟩,
        walkStep_deferredLine hw hphase hd⟩
  · rw [walkSweep, h]
  · have hchoose : chooseItem s = walkSweep (walkFuel s) s := by
      unfold chooseItem
      rw [hdue]
    rw [hchoose]
    exact walkSweep_ends (fun w hw => looksLeft_lt_walkFuel hw) (by unfold walkFuel; omega)

end Sys2Proof.Machine
end

section
/-! PROOFS. What the outcome of an item does to the sweep and the retests, and the rows that report one (R170, R171, R181
to R183): settles O55. -/

namespace Sys2Proof.Machine

/-! ### Beside the engine -/

section EngineAside

variable {r s t : State} {b : FrameBody} {c : Channel} {o : Option Channel} {p : Event → Prop}

/-- The engine is as it was, but that it may no longer wait for room (R166). -/
def AutoKept (s t : State) : Prop := { t.auto with waitingForRoom := s.auto.waitingForRoom } = s.auto

theorem autoKept_of_auto (h : t.auto = s.auto) : AutoKept s t := by rw [AutoKept, h]

theorem AutoKept.trans (h : AutoKept r s) (k : AutoKept s t) : AutoKept r t := by
  rw [AutoKept] at *
  rw [← h, ← k]

theorem AutoKept.item (h : AutoKept s t) : t.auto.item = s.auto.item := by rw [← h]

/-- A step beside the engine: events are only added, and the engine is as it was, but that it may no longer wait for room
(R166). -/
structure EngineAside (s t : State) : Prop where
  auto : AutoKept s t
  events : s.port.events <+: t.port.events

theorem engineAside_of_same (hauto : t.auto = s.auto) (hport : t.port = s.port) : EngineAside s t :=
  ⟨autoKept_of_auto hauto, by rw [hport]⟩

theorem EngineAside.refl (s : State) : EngineAside s s := engineAside_of_same rfl rfl

theorem EngineAside.trans (h : EngineAside r s) (k : EngineAside s t) : EngineAside r t :=
  ⟨h.auto.trans k.auto, h.events.trans k.events⟩

theorem EngineAside.told (h : EngineAside s t) (hs : ToldInRoom p s) : ToldInRoom p t := by
  intro hroom
  obtain ⟨more, hmore⟩ := h.events
  have hcount : generalCount s.port.events ≤ generalCount t.port.events := by
    rw [← hmore, generalCount_append]
    exact Nat.le_add_right _ _
  obtain ⟨e, he, hp⟩ := hs (Nat.lt_of_le_of_lt hcount hroom)
  exact ⟨e, h.events.subset he, hp⟩

theorem engineAside_emit {e : Event} : EngineAside s (emit e s) := by
  refine ⟨autoKept_of_auto (by simp), ?_⟩
  unfold emit enterEvent
  split
  · exact List.prefix_append _ _
  · exact List.prefix_rfl

theorem engineAside_removeFrame {f : QueuedFrame} : EngineAside s (removeFrame f s) := by
  refine ⟨?_, by simp⟩
  unfold removeFrame AutoKept lowFrameLeft
  split <;> simp

theorem engineAside_removeIfQueued {f : Option QueuedFrame} : EngineAside s (removeIfQueued f s) := by
  cases f with
  | none => exact EngineAside.refl s
  | some f => exact engineAside_removeFrame

theorem engineAside_updTickets {f : TicketStore → TicketStore} : EngineAside s (s.updTickets f) :=
  engineAside_of_same (by simp) (by simp)

theorem engineAside_failHandover {t : Ticket} {h : Handover} {x : HandoverReason} : EngineAside s (failHandover t h x s) :=
  EngineAside.trans engineAside_updTickets engineAside_emit

theorem engineAside_tellDropped : EngineAside s (tellDropped b s) := by
  unfold tellDropped
  split
  · split
    · exact EngineAside.refl s
    · split
      · exact EngineAside.refl s
      · split
        · exact engineAside_failHandover
        · exact EngineAside.refl s
  · exact engineAside_updTickets
  · exact EngineAside.refl s

theorem engineAside_tellDroppedFrame {f : QueuedFrame} : EngineAside s (tellDroppedFrame f s) := by
  unfold tellDroppedFrame
  split
  · exact engineAside_tellDropped
  · exact EngineAside.refl s
  · exact EngineAside.refl s

theorem engineAside_setLinkError : EngineAside s (setLinkError s) := by
  unfold setLinkError
  split
  · exact EngineAside.refl s
  · exact EngineAside.trans (engineAside_of_same (t := s.updLink fun l => { l with linkError := true }) (by simp) (by simp))
      engineAside_emit

theorem engineAside_holdFrame {f : QueuedFrame} : EngineAside s (holdFrame f s) := by
  unfold holdFrame
  split
  · exact engineAside_of_same (by simp) (by simp)
  · next oldest rest _ =>
      split
      · exact engineAside_of_same (by simp) (by simp)
      · exact (EngineAside.trans (engineAside_of_same (t := s.updLink fun l => { l with holding := rest ++ [f] })
          (by simp) (by simp)) engineAside_setLinkError).trans engineAside_tellDroppedFrame

theorem engineAside_displaced {f : QueuedFrame} : EngineAside s (displaced f s) := by
  unfold displaced
  split
  · exact engineAside_of_same (by simp) (by simp)
  · exact EngineAside.refl s
  · exact engineAside_holdFrame

theorem engineAside_offerUrgent : EngineAside s (offerUrgent b o s) := by
  unfold offerUrgent
  dsimp only
  split
  · split <;> exact engineAside_of_same (by simp) (by simp)
  · split
    · exact engineAside_of_same (by simp) (by simp)
    · next f _ =>
        have henqueue : EngineAside (removeFrame f s) (enqueue (.built b) o (removeFrame f s)) :=
          engineAside_of_same rfl rfl
        exact (engineAside_removeFrame.trans henqueue).trans engineAside_displaced

theorem engineAside_endQuiet : EngineAside s (endQuiet c s) := by
  unfold endQuiet
  split
  · exact EngineAside.refl s
  · next b _ =>
      have hquiet : EngineAside s (s.updQuiet c fun q => { q with phase := .ending, waitList := [] }) :=
        engineAside_of_same (by simp) (by simp)
      exact hquiet.trans engineAside_offerUrgent

theorem engineAside_updQuiet {f : QuietRecord → QuietRecord} : EngineAside s (s.updQuiet c f) :=
  engineAside_of_same (by simp) (by simp)

theorem engineAside_quietEndAsked : EngineAside s (quietEndAsked c s) := by
  unfold quietEndAsked
  split
  · exact EngineAside.refl s
  · exact engineAside_updQuiet
  · split
    · exact engineAside_updQuiet
    · exact engineAside_removeIfQueued.trans engineAside_updQuiet
  · exact engineAside_endQuiet
  · exact engineAside_endQuiet
  · exact engineAside_updQuiet

theorem engineAside_queueBusy {k : Block} {n : Station} : EngineAside s (queueBusy c k n s) := by
  have hclears : EngineAside s (s.updClears c (· ++ [⟨k, n, false, false⟩])) := engineAside_of_same (by simp) (by simp)
  exact hclears.trans engineAside_offerUrgent

theorem engineAside_releaseDisturbs : EngineAside s (releaseDisturbs c s) := by
  have hwait : ∀ v : State, EngineAside v (markNoisy c.other v) ∧ EngineAside v (joinWait c.other .own v) := fun v =>
    ⟨engineAside_of_same (by simp [markNoisy]) (by simp [markNoisy]),
      engineAside_of_same (by simp [joinWait]) (by simp [joinWait])⟩
  unfold releaseDisturbs
  extract_lets b v q
  have hv : EngineAside s v := by
    dsimp only [v]
    split
    · exact EngineAside.refl s
    · split
      · exact EngineAside.refl s
      · exact engineAside_queueBusy
  split
  · exact hv
  · split
    · exact hv.trans (hwait v).2
    · split
      · exact hv.trans (hwait v).1
      · exact hv

theorem engineAside_enterReleasing : EngineAside s (enterReleasing c s) := by
  unfold enterReleasing
  split
  · have hclosing : EngineAside s ((s.updSession c fun x => { x with state := .closing }).updSeq c fun q =>
        { q with waitEnd := none, releasing := none }) := engineAside_of_same (by simp) (by simp)
    exact hclosing.trans engineAside_offerUrgent
  · next r _ =>
      have hsession : EngineAside s (s.updSession c fun x => { x with state := .releasing }) :=
        engineAside_of_same (by simp) (by simp)
      have hgive : ∀ v : State, EngineAside v (giveRelease c r v) := fun v =>
        engineAside_of_same (by simp [giveRelease]) (by simp [giveRelease])
      exact (hsession.trans engineAside_releaseDisturbs).trans (hgive _)

theorem engineAside_offerNotice : EngineAside s (offerNotice b s) := by
  unfold offerNotice
  split
  · exact engineAside_of_same rfl rfl
  · exact engineAside_holdFrame

theorem engineAside_changeTrunk {k : Trunk} {e : TrunkEntry} : EngineAside s (changeTrunk k e s) := by
  have hset : EngineAside s (s.setTrunk k e) := engineAside_of_same (by simp [State.setTrunk]) (by simp [State.setTrunk])
  unfold changeTrunk
  split
  · exact hset
  · exact hset.trans engineAside_emit

theorem engineAside_chargeTimeout {k : Trunk} : EngineAside s (chargeTimeout k s) := by
  have hnotice : EngineAside s (queueTrunkNotice k true s) := by
    unfold queueTrunkNotice
    split
    · exact engineAside_offerNotice
    · exact EngineAside.refl s
  unfold chargeTimeout
  dsimp only
  split
  · exact hnotice.trans engineAside_changeTrunk
  · exact engineAside_changeTrunk

theorem auto_reportEnd {x : Session} {y : ChannelOutcome} {n : Option Station} : (reportEnd c x y n s).auto = s.auto := by
  rcases reportEnd_cases (c := c) (x := x) (o := y) (n := n) (s := s) with h | ⟨k, h⟩ | ⟨e, h⟩ <;> simp [h]

theorem autoKept_endClaim {x : ChannelOutcome} {n : Option Station} (hp : (s.chan c).session.purpose = .operator) :
    AutoKept s (endClaim c x n s) := by
  have hremove := (engineAside_removeIfQueued (s := s) (f := s.link.claimFrame c)).auto
  have hsession : ((removeIfQueued (s.link.claimFrame c) s).chan c).session.purpose = .operator := by simpa using hp
  have hnot : ¬(s.chan c).session.purpose.automatic = true := by
    rw [purpose_automatic_iff]
    exact not_not_intro hp
  have hends : ∀ y, (finishSession c y n (removeIfQueued (s.link.claimFrame c) s)).auto =
      (removeIfQueued (s.link.claimFrame c) s).auto := fun y => by
    rw [finishSession_operator hsession, auto_reportEnd, auto_clearSession]
  unfold endClaim
  dsimp only
  rw [if_neg hnot]
  exact hremove.trans (autoKept_of_auto (hends _))

theorem autoKept_rerouteClaim {n : Option Station} (hp : (s.chan c).session.purpose = .operator) :
    AutoKept s (rerouteClaim c n s) := by
  unfold rerouteClaim
  split
  · exact autoKept_of_auto (by simp)
  · exact autoKept_endClaim hp

/-- A channel whose claim an OUT trunk ends for no item: the claim is held, or an operator's (R12). -/
def ClaimAside (s : State) (c : Channel) : Prop :=
  (s.chan c).claim.stage = .held ∨ (s.chan c).session.purpose = .operator

theorem trunkOutFirst_aside {k : Trunk} {n : Option Station} (h : ClaimAside s c) :
    AutoKept s (trunkOutFirst k n c s) ∧ ClaimAside (trunkOutFirst k n c s) c := by
  unfold trunkOutFirst
  dsimp only
  split
  · exact ⟨autoKept_of_auto rfl, h⟩
  · split
    · next hqueued =>
        have hp := h.resolve_left (by rw [hqueued]; decide)
        rw [if_neg (by rw [purpose_automatic_iff]; exact not_not_intro hp)]
        exact ⟨autoKept_of_auto rfl, h⟩
    · exact ⟨autoKept_of_auto (by simp), by simpa [ClaimAside] using h⟩
    · exact ⟨autoKept_of_auto rfl, h⟩

theorem trunkOutSecond_aside {k : Trunk} {n : Option Station} (h : ClaimAside s c) :
    AutoKept s (trunkOutSecond k n c s) := by
  unfold trunkOutSecond
  dsimp only
  split
  · next hqueued =>
      exact autoKept_rerouteClaim (h.resolve_left (by rw [hqueued.2]; decide))
  · exact autoKept_of_auto rfl

theorem autoKept_trunkWentOut {k : Trunk} {n : Option Station} (h : ∀ c, ClaimAside s c) :
    AutoKept s (trunkWentOut k n s) := by
  obtain ⟨ha, haAside⟩ := trunkOutFirst_aside (k := k) (n := n) (h .a)
  have hbAside : ClaimAside (trunkOutFirst k n .a s) .b := by
    rw [ClaimAside, show Channel.b = Channel.a.other from rfl, chan_other_trunkOutFirst]
    exact h .b
  obtain ⟨hb, hbAside⟩ := trunkOutFirst_aside (k := k) (n := n) hbAside
  have haAside : ClaimAside (trunkOutFirst k n .b (trunkOutFirst k n .a s)) .a := by
    rw [ClaimAside, show Channel.a = Channel.b.other from rfl, chan_other_trunkOutFirst]
    exact haAside
  have haKept := trunkOutSecond_aside (k := k) (n := n) haAside
  have hbAside : ClaimAside (trunkOutSecond k n .a (trunkOutFirst k n .b (trunkOutFirst k n .a s))) .b := by
    rw [ClaimAside, show Channel.b = Channel.a.other from rfl, chan_other_trunkOutSecond]
    exact hbAside
  exact ((ha.trans hb).trans haKept).trans (trunkOutSecond_aside hbAside)

end EngineAside

/-! ### The sweep -/

section SweepOutcomes

variable {s : State} {w : Sweep} {i : Item} {o : ItemOutcome} {l : Line}

/-- The sweep record as an outcome has acted on it, before the cursor moves (R181). -/
def countedSweep (l : Line) (o : ItemOutcome) (w : Sweep) : Sweep := { w with
  tested := min 65535 (w.tested + if o = .pass ∨ o = .fail ∨ o = .noisy then 1 else 0)
  failed := min 65535 (w.failed + if o = .fail then 1 else 0)
  skipped := min 65535 (w.skipped + if o = .timeout ∨ ((o = .blocked ∨ o = .yielded) ∧ 16 ≤ w.deferred.length ∧
    l ∉ w.deferred) then 1 else 0)
  deferred := if (o = .blocked ∨ o = .yielded) ∧ l ∉ w.deferred ∧ w.deferred.length < 16 then w.deferred ++ [l]
    else w.deferred }

theorem putsOff_iff : o.putsOff = true ↔ o = .blocked ∨ o = .yielded := by
  cases o <;> simp [ItemOutcome.putsOff]

/-- Counts that a sweep record holds are within their limits (R178). -/
theorem sweepOk_counts (hok : SweepOk w) : min 65535 w.tested = w.tested ∧ min 65535 w.failed = w.failed ∧
    min 65535 w.skipped = w.skipped :=
  ⟨Nat.min_eq_right hok.tested, Nat.min_eq_right hok.failed, Nat.min_eq_right hok.skipped⟩

/-- An outcome that measured, or a TIMEOUT, is counted alone (R181). -/
theorem countOutcome_eq (h : ¬o.putsOff = true) (hok : SweepOk w) : countOutcome o w = countedSweep l o w := by
  obtain ⟨htested, hfailed, hskipped⟩ := sweepOk_counts hok
  cases o with
  | blocked => exact absurd rfl h
  | yielded => exact absurd rfl h
  | _ => simp [countOutcome, countedSweep, countUp, Config.sweepCountMax, htested, hfailed, hskipped]

theorem deferLine_known (hw : s.auto.sweep = some w) (h : l ∈ w.deferred) : deferLine l s = s := by
  unfold deferLine
  rw [hw]
  exact if_pos (by simpa using h)

theorem deferLine_joins (hw : s.auto.sweep = some w) (h : l ∉ w.deferred) (hroom : w.deferred.length < 16) :
    deferLine l s = updSweep (fun w => { w with deferred := w.deferred ++ [l] }) s := by
  unfold deferLine
  rw [hw]
  exact (if_neg (by simpa using h)).trans (if_pos hroom)

theorem deferLine_full (hw : s.auto.sweep = some w) (h : l ∉ w.deferred) (hfull : 16 ≤ w.deferred.length) :
    deferLine l s = skipLine l s := by
  unfold deferLine
  rw [hw]
  exact (if_neg (by simpa using h)).trans (if_neg (Nat.not_lt.2 hfull))

/-- A line put off joins the deferred list, is there, or is passed over (R181). -/
theorem sweep_deferLine (hw : s.auto.sweep = some w) (h : o.putsOff = true) (hok : SweepOk w) :
    (deferLine l s).auto.sweep = some (countedSweep l o w) := by
  obtain ⟨htested, hfailed, hskipped⟩ := sweepOk_counts hok
  have hput := putsOff_iff.1 h
  have hothers : o ≠ .pass ∧ o ≠ .fail ∧ o ≠ .noisy ∧ o ≠ .timeout := by
    rcases hput with rfl | rfl <;> simp
  obtain ⟨hnotPass, hnotFail, hnotNoisy, hnotTimeout⟩ := hothers
  by_cases hknown : l ∈ w.deferred
  · rw [deferLine_known hw hknown, hw]
    simp [countedSweep, hnotPass, hnotFail, hnotNoisy, hnotTimeout, hknown, htested, hfailed, hskipped]
  · rcases Nat.lt_or_ge w.deferred.length 16 with hroom | hfull
    · rw [deferLine_joins hw hknown hroom, sweep_updSweep, hw]
      simp [countedSweep, hput, hnotPass, hnotFail, hnotNoisy, hnotTimeout, hknown, hroom, Nat.not_le.2 hroom, htested, hfailed, hskipped]
    · rw [deferLine_full hw hknown hfull, sweep_skipLine, hw]
      simp [countedSweep, hput, hnotPass, hnotFail, hnotNoisy, hnotTimeout, hknown, hfull, Nat.not_lt.2 hfull, htested, hfailed, countUp,
        Config.sweepCountMax]

/-- The state as an outcome in MAIN has been counted, before the cursor moves (R181). -/
def outcomeCounted (l : Line) (o : ItemOutcome) (s : State) : State :=
  if o.putsOff then deferLine l s else updSweep (countOutcome o) s

theorem sweep_outcomeCounted (hw : s.auto.sweep = some w) (hok : SweepOk w) :
    (outcomeCounted l o s).auto.sweep = some (countedSweep l o w) := by
  unfold outcomeCounted
  split
  · next h => exact sweep_deferLine hw h hok
  · next h => rw [sweep_updSweep, hw, Option.map_some, countOutcome_eq h hok]

theorem sweepOutcome_main (h : i.fromDeferred = false) : sweepOutcome i o s =
    completeSweep (updSweep (cursorPast i.line) (outcomeCounted i.line o s)) :=
  if_neg (by rw [h]; exact Bool.false_ne_true)

theorem sweep_outcomeMoved (hw : s.auto.sweep = some w) (hok : SweepOk w) :
    (updSweep (cursorPast l) (outcomeCounted l o s)).auto.sweep = some (cursorPast l (countedSweep l o w)) := by
  rw [sweep_updSweep, sweep_outcomeCounted hw hok]
  rfl

/-- A line put off to a full list is passed over, and told (R181). -/
theorem toldInRoom_outcomeCounted (hw : s.auto.sweep = some w) (h : o.putsOff = true) (hfull : 16 ≤ w.deferred.length)
    (hl : l ∉ w.deferred) :
    ToldInRoom (fun e => e.kind = .sweepSkipped ∧ e.line = some l.val) (outcomeCounted l o s) := by
  rw [outcomeCounted, if_pos h, deferLine_full hw hl hfull]
  exact toldInRoom_skipped

/-! Outcomes in the deferred pass. -/

/-- The state as a deferred line has left its list and been counted (R182). -/
def deferredCounted (l : Line) (o : ItemOutcome) (s : State) : State :=
  let s := updSweep (fun w => { w with deferred := w.deferred.filter (· != l) }) s
  if o.putsOff then skipLine l s else updSweep (countOutcome o) s

theorem sweepOutcome_deferred (h : i.fromDeferred = true) :
    sweepOutcome i o s = completeSweep (deferredCounted i.line o s) := if_pos h

/-- The sweep record as a deferred line's outcome has acted on it, before the sweep may complete (R182). -/
def countedDeferred (l : Line) (o : ItemOutcome) (w : Sweep) : Sweep := { w with
  tested := min 65535 (w.tested + if o = .pass ∨ o = .fail ∨ o = .noisy then 1 else 0)
  failed := min 65535 (w.failed + if o = .fail then 1 else 0)
  skipped := min 65535 (w.skipped + if o = .timeout ∨ (o = .blocked ∨ o = .yielded) then 1 else 0)
  deferred := w.deferred.filter (· ≠ l) }

theorem sweep_deferredCounted (hw : s.auto.sweep = some w) (hok : SweepOk w) :
    (deferredCounted l o s).auto.sweep = some (countedDeferred l o w) := by
  obtain ⟨htested, hfailed, hskipped⟩ := sweepOk_counts hok
  have hfilter : w.deferred.filter (· != l) = w.deferred.filter (· ≠ l) := by simp [bne, beq_eq_decide]
  unfold deferredCounted
  dsimp only
  split
  · next h =>
      rw [sweep_skipLine, sweep_updSweep, hw]
      rcases putsOff_iff.1 h with rfl | rfl <;>
        simp [countedDeferred, htested, hfailed, countUp, Config.sweepCountMax, hfilter]
  · next h =>
      rw [sweep_updSweep, sweep_updSweep, hw]
      cases o with
      | blocked => exact absurd rfl h
      | yielded => exact absurd rfl h
      | _ => simp [countOutcome, countedDeferred, countUp, Config.sweepCountMax, htested, hfailed, hskipped, hfilter]

theorem toldInRoom_deferredCounted (h : o.putsOff = true) :
    ToldInRoom (fun e => e.kind = .sweepSkipped ∧ e.line = some l.val) (deferredCounted l o s) := by
  unfold deferredCounted
  dsimp only
  rw [if_pos h]
  exact toldInRoom_skipped

/-- What an outcome that measured nothing does to a retest's ticket (R183). -/
theorem postponeRetest_eq {n : TicketNo} {k : Nat} : postponeRetest n k s =
    s.updTickets (updateTicket n fun t => if t.state = .retest then { t with
      plan := t.plan.map fun p => { p with nextDue := min 4294967295 (s.store.clock + k) } } else t) := by
  have hreplan : ∀ t : Ticket, replan t (s.dueIn k) ((t.plan.map (·.remaining)).getD 0) = { t with
      plan := t.plan.map fun p => { p with nextDue := min 4294967295 (s.store.clock + k) } } := by
    intro t
    unfold replan
    cases t.plan <;> rfl
  unfold postponeRetest
  simp only [hreplan]

end SweepOutcomes

/-! ### Reports -/

section Reports

variable {s : State} {j : Item} {o : ItemOutcome}

/-- What is asked of an outcome that has measured nothing (R170, R171). -/
def ItemResult (j : Item) (o : ItemOutcome) (c : Option Channel) (e : Event) : Prop :=
  e.kind = .itemResult ∧ e.channel = c ∧ e.line = some j.line.val ∧ e.outcome = some (.item o) ∧
    e.ticket = (if j.purpose = .retest then j.ticket else none)

theorem report_closed (hj : s.auto.item = some j) (h : j.outcome ≠ none ∨ j.aborted = true) : report o s = s := by
  have hopen : s.openItem = none := by
    unfold State.openItem
    rw [hj]
    refine if_pos ?_
    rw [Bool.or_eq_true]
    exact h.imp_left Option.isSome_iff_ne_none.2
  unfold report
  rw [hopen]

theorem toldInRoom_emitItemResult {v : State} (ho : o = .timeout ∨ o = .yielded) :
    ToldInRoom (ItemResult j o v.store.autoChannel) (emitItemResult j o none (none, none) v) := by
  rcases ho with rfl | rfl <;>
  · refine toldInRoom_emit_self fun _ _ => ⟨rfl, rfl, rfl, rfl, ?_⟩
    rfl

theorem toldInRoom_sweepOutcome {p : Event → Prop} {i : Item} (h : ToldInRoom p s) : ToldInRoom p (sweepOutcome i o s) := by
  have hcounted : ToldInRoom p (outcomeCounted i.line o s) := by
    unfold outcomeCounted deferLine
    repeat' split
    · exact h
    · exact h
    · exact toldInRoom_of_port h port_updSweep
    · exact toldInRoom_skipLine h
    · exact toldInRoom_of_port h port_updSweep
  cases hi : i.fromDeferred with
  | false =>
    rw [sweepOutcome_main hi]
    exact toldInRoom_completeSweep (toldInRoom_of_port hcounted port_updSweep)
  | true =>
    rw [sweepOutcome_deferred hi]
    unfold deferredCounted
    dsimp only
    split
    · exact toldInRoom_completeSweep (toldInRoom_skipLine (toldInRoom_of_port h port_updSweep))
    · exact toldInRoom_completeSweep (toldInRoom_of_port (toldInRoom_of_port h port_updSweep) port_updSweep)

/-- The first report of an item that measured nothing fixes its outcome, and queues ITEM-RESULT where R171 has one. -/
theorem report_open (hj : s.auto.item = some j) (hopen : j.outcome = none) (hleft : j.aborted = false) :
    (report o s).auto.item = some { j with outcome := some o } ∧
    (o = .timeout ∨ o = .yielded → ToldInRoom (ItemResult j o s.store.autoChannel) (report o s)) := by
  refine ⟨(engine_report hj hopen hleft).1, fun ho => ?_⟩
  have hitem : s.openItem = some j := by simp [State.openItem, hj, hopen, hleft]
  have htold := toldInRoom_emitItemResult (j := j) (v := updItem (fun i => { i with outcome := some o }) s) ho
  have hchannel : (updItem (fun i => { i with outcome := some o }) s).store.autoChannel = s.store.autoChannel := by
    simp [updItem]
  rw [hchannel] at htold
  unfold report fixOutcome
  rw [hitem]
  dsimp only
  split
  · refine toldInRoom_of_port htold ?_
    unfold retestOutcome
    split <;> simp [postponeRetest]
  · exact toldInRoom_sweepOutcome htold
  · exact htold

/-- A row that reports for the item between steps beside the engine. -/
theorem reports_item {v t : State} (hv : AutoKept s v) (hstore : v.store.autoChannel = s.store.autoChannel)
    (ht : EngineAside (report o v) t) (hj : s.auto.item = some j) :
    (j.outcome ≠ none ∨ j.aborted = true → { t.auto with waitingForRoom := s.auto.waitingForRoom } = s.auto) ∧
    (j.outcome = none → j.aborted = false → t.auto.item = some { j with outcome := some o } ∧
      (o = .timeout ∨ o = .yielded → ToldInRoom (ItemResult j o s.store.autoChannel) t)) := by
  have hitem : v.auto.item = some j := hv.item.trans hj
  refine ⟨fun h => ?_, fun hopen hleft => ?_⟩
  · have hsame := report_closed (o := o) hitem h
    rw [hsame] at ht
    exact hv.trans ht.auto
  · obtain ⟨hfixed, htold⟩ := report_open (o := o) hitem hopen hleft
    rw [hstore] at htold
    exact ⟨ht.auto.item.trans hfixed, fun ho => ht.told (htold ho)⟩

variable {c : Channel}

theorem engineAside_releaseAutomatic : EngineAside s (releaseAutomatic c s) := by
  have hsession : EngineAside s (s.updSession c fun x => { x with relayStep := some 5 }) :=
    engineAside_of_same (by simp) (by simp)
  exact hsession.trans engineAside_enterReleasing

theorem autoKept_closeMeasurement {r : MeasureRecord} : AutoKept s (closeMeasurement c r s) := by
  have hclose : ∀ v : State, ((v.updSession c fun x => { x with lastResult := some r }).updEngine c
      fun _ => .initial).auto = v.auto := fun v => by simp
  unfold closeMeasurement
  dsimp only
  split
  · exact engineAside_quietEndAsked.auto.trans (autoKept_of_auto (hclose _))
  · exact autoKept_of_auto (hclose s)

theorem autoKept_measurementClosed {r : MeasureRecord} : AutoKept s (measurementClosed c r s) := by
  have hback : ∀ v : State, (backToConnected c v).auto = v.auto := fun v => by simp [backToConnected]
  exact autoKept_closeMeasurement.trans (autoKept_of_auto (hback _))

theorem autoKept_timedOut (hheld : (s.chan c).claim.stage = .held) (hother : (s.chan c.other).session.purpose = .operator) :
    AutoKept s (timedOut c s) := by
  have habandoned : AutoKept s (operateAbandoned c s) :=
    autoKept_of_auto (by simp [operateAbandoned, fixSession, abandonOperate])
  have hcharged := habandoned.trans
    (engineAside_chargeTimeout (s := operateAbandoned c s) (k := (s.chan c).session.trunk)).auto
  have haside : ∀ d, ClaimAside (chargeTimeout (s.chan c).session.trunk (operateAbandoned c s)) d := fun d => by
    rcases channel_eq_or_other c d with rfl | rfl
    · exact .inl (by simpa [operateAbandoned, fixSession, abandonOperate] using hheld)
    · exact .inr (by simpa [operateAbandoned, fixSession, abandonOperate] using hother)
  unfold timedOut withTrunkWatch
  dsimp only
  split
  · exact hcharged.trans (autoKept_trunkWentOut haside)
  · exact hcharged

theorem autoChannel_timedOut : (timedOut c s).store.autoChannel = s.store.autoChannel := by
  have hcharged : (chargeTimeout (s.chan c).session.trunk (operateAbandoned c s)).store.autoChannel =
      s.store.autoChannel := by
    unfold chargeTimeout changeTrunk queueTrunkNotice
    dsimp only
    repeat' split
    all_goals simp [State.setTrunk]
  unfold timedOut withTrunkWatch
  dsimp only
  split
  · rw [store_trunkWentOut]
    exact hcharged
  · exact hcharged

theorem busyTestEnds_automatic (hinUse : (s.chan c).seq.inUse = true) (hforced : (s.chan c).session.forced = false)
    (h : (s.chan c).session.isAutomatic = true) :
    busyTestEnds c s = enterReleasing c (fixSession c .lineInUse (report .blocked s)) := by
  unfold busyTestEnds
  rw [if_pos (by simp [hinUse, hforced]), if_pos h]

/-- The state in which a session that yields reports, its measurement closed where one was under way (R34, R71). -/
def yielding (c : Channel) (s : State) : State :=
  match (s.chan c).session.state, (s.chan c).engine.record with
  | .measuring, some r => closeMeasurement c { r with outcome := some .yielded } s
  | _, _ => s

theorem yieldSession_eq : yieldSession c s = releaseAutomatic c (report .yielded (yielding c s)) := rfl

theorem yielding_kept : AutoKept s (yielding c s) ∧ (yielding c s).store = s.store := by
  unfold yielding
  split
  · exact ⟨autoKept_closeMeasurement, by simp⟩
  · exact ⟨autoKept_of_auto rfl, rfl⟩

/-- The four rows that report an outcome that measured nothing, as they part around their report (R28, R29, R34, R70). -/
theorem reports_row {i : Instr} (hp : (s.chan c).session.purpose ≠ .operator)
    (hother : (s.chan c.other).session.purpose = .operator)
    (h : (i = .confirmTimeout c ∧ o = .timeout ∧ (s.chan c).session.state = .connecting ∧
        (s.chan c).session.relayStep = some 3 ∧ (s.chan c).seq.confirmTaken = false ∧
        (s.chan c).claim.stage = .held) ∨
      (i = .headTimeout c ∧ o = .timeout ∧ HeadDue s c ∧ (s.chan c).engine.record ≠ none) ∨
      (i = .busyTestEnd c ∧ o = .blocked ∧ (s.chan c).session.state = .connecting ∧
        (s.chan c).session.relayStep = some 4 ∧ (s.chan c).seq.inUse = true ∧ (s.chan c).session.forced = false) ∨
      (i = .loopClosureChange c true ∧ o = .yielded ∧
        ((s.chan c).session.state = .connected ∨ (s.chan c).session.state = .measuring))) :
    ∃ v t, exec i s = .next t ∧ AutoKept s v ∧ v.store.autoChannel = s.store.autoChannel ∧
      EngineAside (report o v) t := by
  rcases h with ⟨rfl, rfl, hstate, hstep, htaken, hheld⟩ | ⟨rfl, rfl, hdue, hrecord⟩ |
    ⟨rfl, rfl, hstate, hstep, hinUse, hforced⟩ | ⟨rfl, rfl, hstate⟩
  · refine ⟨timedOut c s, _, exec_confirmTimeout hstate hstep (.inl rfl) htaken, autoKept_timedOut hheld hother,
      autoChannel_timedOut, ?_⟩
    rw [if_pos ((isAutomatic_iff _).2 ⟨by rw [hstate]; decide, hp⟩)]
    exact engineAside_enterReleasing
  · obtain ⟨r, hr⟩ := Option.ne_none_iff_exists'.1 hrecord
    exact ⟨measurementClosed c { r with outcome := some .headTimeout } s, _,
      (exec_headTimeout c s).trans (congrArg _ ((if_pos (headTimedOut_iff.2 hdue)).trans (cutMeasurement_automatic hr hp))),
      autoKept_measurementClosed, by simp,
      engineAside_releaseAutomatic⟩
  · have hexec := (exec_busyTestEnd c s).trans (congrArg _ ((if_pos (by simp [atStep, hstate, hstep])).trans
      (busyTestEnds_automatic hinUse hforced ((isAutomatic_iff _).2 ⟨by rw [hstate]; decide, hp⟩))))
    have hfix : ∀ v : State, EngineAside v (fixSession c .lineInUse v) := fun v =>
      engineAside_of_same (by simp [fixSession]) (by simp [fixSession])
    exact ⟨s, _, hexec, autoKept_of_auto rfl, rfl, (hfix _).trans engineAside_enterReleasing⟩
  · have hexec := (exec_loopClosureChange c true s).trans (congrArg _ ((loopChanges_automatic hstate hp).trans
      ((if_pos rfl).trans yieldSession_eq)))
    have hpins : AutoKept s (s.updPins c fun p => { p with loopClosed := true }) := autoKept_of_auto (by simp)
    exact ⟨_, _, hexec, hpins.trans yielding_kept.1, by rw [yielding_kept.2]; simp, engineAside_releaseAutomatic⟩

end Reports

/-- Settles O55: the rows by `reports_row`, the sweep by the cases of an outcome put off and of one counted. -/
theorem outcomesMoveTheSweepAndTheRetests : Obligations.OutcomesMoveTheSweepAndTheRetests := by
  refine ⟨fun s c j i o hj hp hother h => ?_, fun o k => ?_, fun s i o w hw => ?_, fun s n o => ?_⟩
  · obtain ⟨v, t, hexec, hv, hstore, ht⟩ := reports_row hp hother h
    obtain ⟨hclosed, hopens⟩ := reports_item hv hstore ht hj
    refine ⟨fun hleft => ⟨t, hexec, hclosed hleft⟩, fun hopen hleft => ?_⟩
    obtain ⟨hitem, htold⟩ := hopens hopen hleft
    refine ⟨t, hexec, hitem, fun ho => htold ?_⟩
    rcases h with ⟨-, rfl, -⟩ | ⟨-, rfl, -⟩ | ⟨-, rfl, -⟩ | ⟨-, rfl, -⟩
    · exact .inl rfl
    · exact .inl rfl
    · exact absurd rfl ho
    · exact .inr rfl
  · cases o with
    | noisy => cases k <;> rfl
    | _ => rfl
  · intro tested putOff rest done skips
    refine ⟨fun hfrom hphase hle => ?_, fun hfrom hphase hok => ?_⟩
    · intro full v hok
      have hmoved := sweep_outcomeMoved (l := i.line) (o := o) hw hok
      obtain ⟨hnext, hlast⟩ := settled_cursorPast (w := v) (l := i.line) hphase
      refine ⟨_, sweepOutcome_main hfrom, fun hput ⟨hfull, hnot⟩ => ?_, fun hlt => ?_, fun heq => ?_⟩
      · exact toldInRoom_completeSweep (toldInRoom_of_port
          (toldInRoom_outcomeCounted hw (putsOff_iff.2 hput) hfull hnot) port_updSweep)
      · have hbound : i.line.val < w.last.val := hlt
        exact ⟨_, (sweep_completeSweep hmoved).trans (congrArg some (hnext ⟨hbound, by omega⟩)), rfl⟩
      · have hend : ¬(i.line.val < w.last.val ∧ i.line.val + 1 < 65536) := by
          rw [heq]
          omega
        refine ⟨_, sweep_completeSweep hmoved, fun hdone => ?_, hlast hend⟩
        have hpast : cursorPast i.line (countedSweep i.line o w) = { v with phase := .deferredPass } := cursorPast_last hend
        exact toldInRoom_done hmoved (by rw [hpast]; exact SweepPhase.noConfusion) hdone
    · have hcounted := sweep_deferredCounted (l := i.line) (o := o) hw hok
      have hdeferred : (countedDeferred i.line o w).phase = .deferredPass := hphase
      refine ⟨_, _, sweepOutcome_deferred hfrom, sweep_completeSweep hcounted, fun hdone => ?_, fun hput => ?_,
        settled_deferredPass hdeferred⟩
      · exact toldInRoom_done hcounted (by rw [hdeferred]; exact SweepPhase.noConfusion) hdone
      · exact toldInRoom_completeSweep (toldInRoom_deferredCounted (putsOff_iff.2 hput))
  · cases o with
    | pass => rfl
    | fail => rfl
    | noisy => rfl
    | blocked => exact postponeRetest_eq
    | timeout => exact postponeRetest_eq
    | yielded => exact postponeRetest_eq

end Sys2Proof.Machine
end

section
/-! The Automatic Engine steered: SWEEP START, RUN, STEP, STOP and CONTINUE (R172 to R175, R179). -/

namespace Sys2Proof.Machine

/-! ### SWEEP START -/

section SweepStart

variable {s : State} {a b : Line} {g : StageSet} {n : SampleArg}

theorem takeSweepStart_backwards (h : b < a) : takeSweepStart a b g n s = (.badArgument 1, s) := if_pos h

theorem isEmpty_iff : g.isEmpty = true ↔ g = ⟨false, false, false, false, false⟩ := by
  cases g
  simp [StageSet.isEmpty, and_assoc]

theorem takeSweepStart_noStage (h : a ≤ b) (hg : g = ⟨false, false, false, false, false⟩) :
    takeSweepStart a b g n s = (.badArgument 3, s) :=
  (if_neg (not_lt.2 h)).trans (if_pos (isEmpty_iff.2 hg))

theorem takeSweepStart_wrongState (h : a ≤ b) (hg : g ≠ ⟨false, false, false, false, false⟩) (hrun : s.auto.run ≠ .halted) :
    takeSweepStart a b g n s = (.wrongState, s) :=
  (if_neg (not_lt.2 h)).trans ((if_neg (isEmpty_iff.not.2 hg)).trans (if_pos hrun))

theorem takeSweepStart_starts (h : a ≤ b) (hg : g ≠ ⟨false, false, false, false, false⟩) (hrun : s.auto.run = .halted) :
    takeSweepStart a b g n s = (.accepted (.sweepRange a b (b.val - a.val + 1)),
      { s with auto := { s.auto with sweep := some ⟨a, b, g, n, .main, a, [], 0, 0, 0⟩ } }) :=
  (if_neg (not_lt.2 h)).trans ((if_neg (isEmpty_iff.not.2 hg)).trans (if_neg (not_not_intro hrun)))

end SweepStart

/-! ### RUN and STEP from HALTED -/

section Starts

variable {s : State} {r : RunState} {c : Channel}

theorem startEngine_none (h : s.store.autoChannel = none) : startEngine r s = (.automaticChannel none, s) := by
  unfold startEngine
  rw [h]
  rfl

theorem operatorSessionOn_iff :
    operatorSessionOn s c = true ↔ (s.chan c).session.state ≠ .idle ∧ (s.chan c).session.purpose = .operator := by
  have hpurpose : (s.chan c).session.purpose.automatic = false ↔ (s.chan c).session.purpose = .operator := by
    rw [← Bool.not_eq_true, purpose_automatic_iff, not_not]
  simp [operatorSessionOn, hpurpose]

theorem startEngine_inUse (h : s.store.autoChannel = some c)
    (hsession : (s.chan c).session.state ≠ .idle ∧ (s.chan c).session.purpose = .operator) :
    startEngine r s = (.channelInUse c, s) := by
  unfold startEngine
  rw [h]
  exact if_pos (operatorSessionOn_iff.2 hsession)

theorem startEngine_starts (h : s.store.autoChannel = some c)
    (hsession : (s.chan c).session.state = .idle ∨ (s.chan c).session.purpose ≠ .operator) :
    startEngine r s = (.accepted .nothing, { s with auto := { s.auto with run := r } }) := by
  unfold startEngine
  rw [h]
  refine if_neg fun hoperator => ?_
  obtain ⟨hstate, hp⟩ := operatorSessionOn_iff.1 hoperator
  rcases hsession with hidle | hp'
  · exact hstate hidle
  · exact hp' hp

theorem takeRun_unconfigured (h : s.store.configured = false) : takeRun s = (.notConfigured, s) := if_pos (by rw [h]; rfl)

theorem takeRun_wrongState (h : s.store.configured = true) (hrun : s.auto.run ≠ .halted) : takeRun s = (.wrongState, s) :=
  (if_neg (by rw [h]; exact Bool.false_ne_true)).trans (if_pos hrun)

theorem takeRun_halted (h : s.store.configured = true) (hrun : s.auto.run = .halted) :
    takeRun s = startEngine .running s :=
  (if_neg (by rw [h]; exact Bool.false_ne_true)).trans (if_neg (not_not_intro hrun))

theorem takeStep_unconfigured (h : s.store.configured = false) (hrun : s.auto.run = .halted) :
    takeStep s = (.notConfigured, s) := by
  unfold takeStep
  rw [hrun]
  exact if_pos (by rw [h]; rfl)

theorem takeStep_wrongState (hrun : s.auto.run ≠ .halted) (hfrozen : s.auto.run ≠ .frozen) :
    takeStep s = (.wrongState, s) := by
  unfold takeStep
  split
  · next h => exact absurd h hrun
  · next h => exact absurd h hfrozen
  · rfl

theorem takeStep_halted (h : s.store.configured = true) (hrun : s.auto.run = .halted) :
    takeStep s = startEngine .stepping s := by
  unfold takeStep
  rw [hrun]
  exact if_neg (by rw [h]; exact Bool.false_ne_true)

theorem takeStep_frozen (hrun : s.auto.run = .frozen) : takeStep s = (.accepted .nothing, leaveFrozen .stepping s) := by
  unfold takeStep
  rw [hrun]
  rfl

theorem takeContinue_wrongState (hrun : s.auto.run ≠ .frozen) : takeContinue s = (.wrongState, s) := by
  unfold takeContinue
  split
  · next h => exact absurd h hrun
  · rfl

theorem takeContinue_frozen {r : RunState} (hrun : s.auto.run = .frozen) (hr : some r = s.auto.returnState) :
    takeContinue s = (.accepted .nothing, leaveFrozen r s) := by
  unfold takeContinue
  rw [hrun, ← hr]
  rfl

end Starts

/-! ### STOP -/

section Stops

variable {s : State}

/-- The engine as it is HALTED (R166). -/
def engineOff (a : AutoEngine) : AutoEngine :=
  { a with run := .halted, returnState := none, freezeCause := none, waitingForRoom := false }

theorem takeStop_wrongState (h : s.auto.run = .halted ∨ s.auto.run = .stopping ∨ s.auto.run = .stepping) :
    takeStop s = (.wrongState, s) := by
  unfold takeStop
  rcases h with h | h | h <;> rw [h] <;> rfl

theorem takeStop_item (hrun : s.auto.run = .running) (h : s.auto.item.isSome = true) :
    takeStop s = (.accepted .nothing, { s with auto := { s.auto with run := .stopping } }) := by
  unfold takeStop
  rw [hrun]
  exact if_pos h

theorem takeStop_noItem (hrun : s.auto.run = .running) (h : s.auto.item = none) :
    takeStop s = (.accepted .nothing, { s with auto := engineOff s.auto }) := by
  unfold takeStop
  rw [hrun]
  exact if_neg (by rw [h]; exact Bool.false_ne_true)

theorem takeStop_frozen (hrun : s.auto.run = .frozen) : takeStop s = (.accepted .nothing, stopFrozen s) := by
  unfold takeStop
  rw [hrun]
  rfl

theorem stopFrozen_halts (h : s.auto.item = none ∨ s.auto.freezeCause = some .watchRequest) :
    stopFrozen s = { s with auto := { engineOff s.auto with item := none } } := by
  unfold stopFrozen
  rcases h with h | h
  · rw [h]
    rfl
  · rw [h]
    cases s.auto.item <;> rfl

theorem stopFrozen_claim {j : Item} (hj : s.auto.item = some j) (h : s.auto.freezeCause = some .watchClaim) :
    stopFrozen s = leaveFrozen .stopping s := by
  unfold stopFrozen
  rw [hj, h]

end Stops

/-! ### The engine leaves FROZEN -/

section LeavesFrozen

variable {s : State} {r : RunState} {j : Item} {c : Channel} {f : AutoEngine → AutoEngine}

/-- The engine as it goes on in a run state (R174, R175). -/
def goesOn (r : RunState) (s : State) : State :=
  s.updAuto fun a => { a with run := r, returnState := none, freezeCause := none }

theorem leaveFrozen_noItem (h : s.auto.item = none) : leaveFrozen r s = goesOn r s := by
  have hitem : (goesOn r s).auto.item = none := h
  unfold leaveFrozen
  dsimp only
  rw [← goesOn, hitem]

theorem leaveFrozen_request (hj : s.auto.item = some j) (hc : s.store.autoChannel = some c)
    (h : s.auto.freezeCause = some .watchRequest) : leaveFrozen r s =
      if itemStands j (goesOn r s) then askForClaim j c true (goesOn r s) else dropItem (goesOn r s) := by
  have hitem : (goesOn r s).auto.item = some j := hj
  have hchannel : (goesOn r s).store.autoChannel = some c := hc
  unfold leaveFrozen
  dsimp only
  rw [← goesOn, hitem, hchannel, h]

theorem leaveFrozen_claim (hj : s.auto.item = some j) (hc : s.store.autoChannel = some c)
    (h : s.auto.freezeCause = some .watchClaim) : leaveFrozen r s = unfreezeSession c (goesOn r s) := by
  have hitem : (goesOn r s).auto.item = some j := hj
  have hchannel : (goesOn r s).store.autoChannel = some c := hc
  unfold leaveFrozen
  dsimp only
  rw [← goesOn, hitem, hchannel, h]

/-- A held item is still to be asked for unless it is a retest whose ticket has left RETEST (R175). -/
theorem itemStands_iff : itemStands j s = true ↔ ∀ n, j.purpose = .retest → j.ticket = some n →
    ∃ t, s.ticketStore.byNumber n = some t ∧ t.state = .retest := by
  unfold itemStands
  split
  · next n hp hn =>
      rw [Option.any_eq_true]
      refine ⟨fun ⟨t, ht, hstate⟩ m _ hm => ?_, fun h => ?_⟩
      · rw [hn] at hm
        cases hm
        exact ⟨t, ht, by simpa using hstate⟩
      · obtain ⟨t, ht, hstate⟩ := h n hp hn
        exact ⟨t, ht, by simpa using hstate⟩
  · next hnot => exact ⟨fun _ n hp hn => absurd hn (hnot n hp), fun _ => rfl⟩

/-! The engine's state is no part of a claim's checks. -/

theorem checkClaim_updAuto {l : Line} : checkClaim (s.updAuto f) c l (aheadOfEngine (s.updAuto f)) =
    checkClaim s c l (aheadOfEngine s) := rfl

theorem askForClaim_linkDown {exempt : Bool} (h : checkClaim s c j.line (aheadOfEngine s) = .linkDown) :
    askForClaim j c exempt s = dropItem s := by
  unfold askForClaim
  rw [h]

theorem askForClaim_linkBusy {exempt : Bool} (h : checkClaim s c j.line (aheadOfEngine s) = .linkBusy) :
    askForClaim j c exempt s = (dropItem s).updAuto fun a => { a with waitingForRoom := true } := by
  unfold askForClaim
  rw [h]

theorem askForClaim_begins {exempt : Bool} {t : Trunk} (h : checkClaim s c j.line (aheadOfEngine s) = .passes t)
    (hwatch : stopWatches s .stopOnRequest j.line j.purpose = false ∨ exempt = true) :
    askForClaim j c exempt s = beginSession c j.purpose j.line t false j.ticket s := by
  unfold askForClaim
  rw [h]
  refine if_neg ?_
  rcases hwatch with hwatch | rfl
  · simp [hwatch]
  · simp

/-- What a claim begun makes of its channel, the queue and the rest (R23, R115, R168). -/
theorem beginSession_begins {p : Purpose} {l : Line} {t : Trunk} {n : Option TicketNo} {u : State}
    (hu : beginSession c p l t false n s = u) : u.auto = s.auto ∧ u.watch = s.watch ∧
      (u.chan c).session.state = .claiming ∧ (u.chan c).session.purpose = p ∧ (u.chan c).session.line = l ∧
      (u.chan c).session.trunk = t ∧ (u.chan c).session.linkedTicket = n ∧ (u.chan c).claim.stage = .queued ∧
      u.link = linkWith (.claim l t p c) (some c) s.link := by
  subst hu
  refine ⟨by simp [beginSession], by simp [beginSession], ?_, ?_, ?_, ?_, ?_, ?_, ?_⟩
  · simp [beginSession]
  · simp [beginSession]
  · simp [beginSession]
  · simp [beginSession]
  · simp [beginSession]
  · simp [beginSession]
  · simp [beginSession, enqueue]
    rfl

/-! A session held at its claim. -/

/-- A session frozen at its claim goes on by the go rule (R24, R175). -/
theorem unfreezeSession_claimed {v : State} (h : (v.chan c).session.state = .claimed) :
    unfreezeSession c v = goRule c (v.updSession c fun x => { x with frozenAtClaim := false }) := by
  unfold unfreezeSession
  dsimp only
  rw [chan_updSession]
  dsimp only
  rw [h]

theorem quietedBy_goesOn {g : Session → Session} {b : Block} :
    quietedBy ((goesOn r s).updSession c g) c b = quietedBy s c b := by
  cases c <;> rfl

/-- What the go rule makes of the session as the engine leaves FROZEN (R24, R175). -/
theorem unfreezeSession_goesOn (hstate : (s.chan c).session.state = .claimed)
    (hstep : (s.chan c).session.relayStep = none) {u : State} (hu : unfreezeSession c (goesOn r s) = u) :
    u.auto = (goesOn r s).auto ∧
    (quietedBy s c (s.chan c).session.block = none → (u.chan c).session = { (s.chan c).session with
      state := .connecting, relayStep := some 1, frozenAtClaim := false, deferredBy := none }) ∧
    (∀ h, quietedBy s c (s.chan c).session.block = some h → (u.chan c).session = { (s.chan c).session with
      state := .deferred, frozenAtClaim := false, deferredBy := some h }) := by
  have hchan : (goesOn r s).chan c = s.chan c := by cases c <;> rfl
  rw [unfreezeSession_claimed (by rw [hchan, hstate])] at hu
  have hsession : (((goesOn r s).updSession c fun x => { x with frozenAtClaim := false }).chan c).session =
      { (s.chan c).session with frozenAtClaim := false } := by rw [chan_updSession, hchan]
  cases hq : quietedBy s c (s.chan c).session.block with
  | none =>
    rw [goRule_first (by rw [hsession, quietedBy_goesOn, hq]) (by rw [hsession]) (by rw [hsession, hstep])] at hu
    subst hu
    refine ⟨by simp [beginStep1], fun _ => ?_, fun h hsome => absurd hsome (by simp)⟩
    simp [beginStep1, hchan]
  | some m =>
    rw [goRule_quieted (h := m) (by rw [hsession, quietedBy_goesOn, hq])] at hu
    subst hu
    refine ⟨by simp, fun hnone => absurd hnone (by simp), fun h hsome => ?_⟩
    cases hsome
    simp [hchan]

end LeavesFrozen

end Sys2Proof.Machine
end

section
/-! ABORT: the engine HALTED and its item left, whatever state its session has reached (R41, R176). -/

namespace Sys2Proof.Machine

section Aborts

variable {s v : State} {j : Item} {c : Channel} {f : QueuedFrame}

/-- The part as ABORT has left the item to its session (R176). -/
def itemLeft (j : Item) (s : State) : State :=
  { s with auto := { engineOff s.auto with item := some { j with aborted := true } } }

theorem takeAbort_halted (h : s.auto.run = .halted) : takeAbort s = (.accepted .nothing, s) := if_pos h

theorem takeAbort_acts (h : s.auto.run ≠ .halted) : takeAbort s = (.accepted .nothing, abortItem (haltEngine s)) := if_neg h

theorem updItem_haltEngine (hj : s.auto.item = some j) :
    updItem (fun i => { i with aborted := true }) (haltEngine s) = itemLeft j s := by
  simp [updItem, haltEngine, halted, itemLeft, engineOff, State.updAuto, hj]

theorem abortItem_none (h : s.auto.item = none) :
    abortItem (haltEngine s) = { s with auto := { engineOff s.auto with item := none } } := by
  have hitem : (haltEngine s).auto.item = none := h
  unfold abortItem
  rw [hitem]
  rfl

theorem abortItem_idle (hc : s.store.autoChannel = some c) (h : (s.chan c).session.state = .idle) :
    abortItem (haltEngine s) = { s with auto := { engineOff s.auto with item := none } } := by
  have hchannel : (haltEngine s).store.autoChannel = some c := hc
  have hchan : (haltEngine s).chan c = s.chan c := by cases c <;> rfl
  have hsession : ¬((haltEngine s).chan c).session.isAutomatic = true := by
    rw [hchan, isAutomatic_iff]
    exact fun hauto => hauto.1 h
  unfold abortItem
  split
  · next i d _ hd =>
      rw [hchannel] at hd
      cases hd
      rw [if_neg hsession]
      rfl
  · rfl

theorem abortItem_automatic (hj : s.auto.item = some j) (hc : s.store.autoChannel = some c)
    (hp : (s.chan c).session.purpose ≠ .operator) (h : (s.chan c).session.state ≠ .idle) :
    abortItem (haltEngine s) = if j.outcome.isSome then itemLeft j s else cancelSession c (itemLeft j s) := by
  have hitem : (haltEngine s).auto.item = some j := hj
  have hchannel : (haltEngine s).store.autoChannel = some c := hc
  have hchan : (haltEngine s).chan c = s.chan c := by cases c <;> rfl
  have hsession : ((haltEngine s).chan c).session.isAutomatic = true := by
    rw [hchan]
    exact (isAutomatic_iff _).2 ⟨h, hp⟩
  unfold abortItem
  rw [hitem, hchannel]
  dsimp only
  rw [if_pos hsession, updItem_haltEngine hj]

theorem chan_itemLeft (d : Channel) : (itemLeft j s).chan d = s.chan d := by cases d <;> rfl

/-- An item left by ABORT ends without a word (R171, R176). -/
theorem itemEnds_left {i : Item} (hi : v.auto.item = some i) (h : i.aborted = true) : itemEnds v = dropItem v := by
  unfold itemEnds
  rw [hi]
  exact if_pos h

theorem AutoKept.run {r t : State} (h : AutoKept r t) : t.auto.run = r.auto.run := by rw [← h]

/-- A session in CLAIMING that ABORT ends takes the item with it (R37, R176). -/
theorem finishSession_left (hv : AutoKept (itemLeft j s) v) (hp : (v.chan c).session.purpose ≠ .operator) :
    (finishSession c .cancelled none v).auto.run = .halted ∧ (finishSession c .cancelled none v).auto.item = none := by
  have hitem : (clearSession c v).auto.item = some { j with aborted := true } := by
    rw [auto_clearSession, hv.item]
    rfl
  rw [finishSession_automatic hp, itemEnds_left hitem rfl]
  refine ⟨?_, by simp [dropItem]⟩
  have hrun : v.auto.run = .halted := hv.run
  simpa [dropItem] using hrun

theorem autoKept_fixSession {o : ChannelOutcome} : AutoKept v (fixSession c o v) := autoKept_of_auto (by simp [fixSession])

/-- A session reversed leaves the engine as it is (R36). -/
theorem autoKept_reverseSession : AutoKept v (reverseSession c v) := by
  have habandon : ∀ w : State, AutoKept w (abandonMeasurement c w) := by
    intro w
    have hengine : AutoKept w (w.updEngine c fun _ => .initial) := autoKept_of_auto (by simp)
    unfold abandonMeasurement
    dsimp only
    split
    · exact hengine.trans engineAside_quietEndAsked.auto
    · exact hengine
  have hoperate : AutoKept v (abandonOperate c v) := autoKept_of_auto (by simp [abandonOperate])
  have hstep : AutoKept v (v.updSession c fun x => { x with relayStep := some 5 }) := autoKept_of_auto (by simp)
  unfold reverseSession
  split
  · have hclosing : AutoKept v ((v.updSession c fun x => { x with state := .closing }).updSeq c fun q =>
        { q with waitEnd := none, releasing := none }) := autoKept_of_auto (by simp)
    exact hclosing.trans engineAside_offerUrgent.auto
  · exact engineAside_enterReleasing.auto
  · exact hoperate.trans engineAside_enterReleasing.auto
  · exact hstep.trans engineAside_enterReleasing.auto
  · exact (hstep.trans (habandon _)).trans engineAside_enterReleasing.auto
  · exact autoKept_of_auto rfl

/-- What ABORT makes of a session that holds its pair: its outcome fixed, the session reversed, the item left (R36, R41,
R176). -/
structure AbortReverses (j : Item) (c : Channel) (s u : State) : Prop where
  run : u.auto.run = .halted
  item : u.auto.item = some { j with aborted := true }
  outcome : (u.chan c).seq.outcome = some ((s.chan c).seq.outcome.getD .cancelled)
  reversed : Reversed c (fixSession c .cancelled (itemLeft j s)) u

theorem cancelSession_reverses (h : (s.chan c).session.state.active = true) :
    AbortReverses j c s (cancelSession c (itemLeft j s)) := by
  rw [cancelSession_active (by rw [chan_itemLeft, h])]
  have hkept : AutoKept (itemLeft j s) (reverseSession c (fixSession c .cancelled (itemLeft j s))) :=
    autoKept_fixSession.trans autoKept_reverseSession
  refine ⟨hkept.run, hkept.item, ?_, reversed_reverseSession⟩
  rw [outcome_reverseSession]
  simp [fixSession, chan_itemLeft]

/-- A session that releases, or closes, is left to its end (R176). -/
theorem cancelSession_ending (h : (s.chan c).session.state ∈ [SessionState.releasing, .guard, .closing]) :
    cancelSession c (itemLeft j s) = itemLeft j s := by
  unfold cancelSession
  rw [chan_itemLeft]
  simp only [List.mem_cons, List.not_mem_nil, or_false] at h
  rcases h with h | h | h <;> rw [h] <;> rfl

/-- A CLAIM on the wire is left to its attempt's end, the cancel pending (R37, R176). -/
theorem abort_claimWire (h : (s.chan c).session.state = .claiming) (hf : s.link.claimFrame c = some f)
    (hwire : s.link.onWire f = true) {u : State} (hu : cancelSession c (itemLeft j s) = u) :
    u.auto = (itemLeft j s).auto ∧ (u.chan c).seq.outcome = some ((s.chan c).seq.outcome.getD .cancelled) ∧
      (u.chan c).session = { (s.chan c).session with cancelPending := true } ∧ u.link = s.link := by
  have hlink : (itemLeft j s).link = s.link := rfl
  rw [cancelSession_claiming (by rw [chan_itemLeft, h]), hlink,
    if_pos (by simp [frameOnWire, hf, hwire])] at hu
  subst hu
  refine ⟨by simp [fixSession], ?_, ?_, by simp [fixSession, hlink]⟩
  · simp [fixSession, chan_itemLeft]
  · simp [chan_itemLeft]

/-- A session in CLAIMING whose CLAIM is not on the wire ends, and the item with it (R37, R176). -/
theorem abort_claimEnds (h : (s.chan c).session.state = .claiming) (hp : (s.chan c).session.purpose ≠ .operator)
    (hwire : frameOnWire s.link (s.link.claimFrame c) = false) {u : State} (hu : cancelSession c (itemLeft j s) = u) :
    u.auto.run = .halted ∧ u.auto.item = none ∧ (u.chan c).session.state = .idle ∧
      u.link = (removeIfQueued (s.link.claimFrame c) s).link := by
  have hlink : (itemLeft j s).link = s.link := rfl
  rw [cancelSession_claiming (by rw [chan_itemLeft, h]), hlink, if_neg (by rw [hwire]; exact Bool.false_ne_true)] at hu
  have hkept : AutoKept (itemLeft j s) (removeIfQueued (s.link.claimFrame c) (fixSession c .cancelled (itemLeft j s))) :=
    autoKept_fixSession.trans engineAside_removeIfQueued.auto
  obtain ⟨hrun, hitem⟩ := finishSession_left hkept (by simpa [chan_itemLeft] using hp)
  rw [hu] at hrun hitem
  refine ⟨hrun, hitem, ?_, ?_⟩
  · rw [← hu, session_finishSession]
    rfl
  · rw [← hu, link_finishSession]
    cases s.link.claimFrame c with
    | none => simp [removeIfQueued, fixSession, hlink]
    | some f => rw [removeIfQueued_some, removeIfQueued_some, link_removeFrame, link_removeFrame]; simp [fixSession, hlink]

theorem link_abortCloses (h : (s.chan c).session.state = .claimed ∨
    (s.chan c).session.state = .deferred ∧ (s.chan c).session.relayStep = none) (hroom : UrgentRoom s) :
    (reverseSession c (fixSession c .cancelled (itemLeft j s))).link =
      linkWith (.release (s.chan c).session.line (s.chan c).session.trunk) (some c) s.link := by
  have hlink : (fixSession c .cancelled (itemLeft j s)).link = s.link := by
    rw [fixSession, link_updSeq]
    rfl
  have hsession : ((fixSession c .cancelled (itemLeft j s)).chan c).session = (s.chan c).session := by
    rw [session_fixSession, chan_itemLeft]
  obtain ⟨hwaiting, hslots⟩ := hroom
  rw [reverseSession_undriven (by rw [hsession]; exact h),
    (enterClosing_of_room (by rw [hlink, hwaiting]) (by rw [hlink]; exact hslots)).1, hsession, hlink]

/-- A measurement under way is discarded as its session is reversed (R36, R72). -/
theorem engine_reverseSession (h : (v.chan c).session.state = .measuring) :
    ((reverseSession c v).chan c).engine = .initial := by
  have habandon : ∀ w : State, ((abandonMeasurement c w).chan c).engine = .initial := by
    intro w
    unfold abandonMeasurement
    dsimp only
    split <;> simp
  rw [reverseSession, h]
  dsimp only
  rw [enterReleasing_driven (n := 5) (by simp)]
  simp [giveRelease, engine_releaseDisturbs, habandon]

end Aborts

end Sys2Proof.Machine
end

section
/-! PROOFS. The arbiter's choice, and the engine's commands and rows together (R166 to R168, R172 to R176, R179): settles
O54. -/

namespace Sys2Proof.Machine

/-! ### The earliest due retest -/

section EarliestDue

variable {clock : Nat} {l : List Ticket} {t u : Ticket} {p q : RetestPlan}

theorem due_iff : t.due clock = true ↔ t.state = .retest ∧ ∃ p, t.plan = some p ∧ p.nextDue ≤ clock := by
  simp [Ticket.due, Option.any_eq_true]

/-- When a ticket's retest falls due. -/
def dueAt (t : Ticket) : Nat := (t.plan.map (·.nextDue)).getD 0

theorem dueAt_some (h : t.plan = some p) : dueAt t = p.nextDue := by rw [dueAt, h]; rfl

theorem earliestDue_notDue (h : t.due clock = false) : earliestDue clock (t :: l) = earliestDue clock l := by
  rw [earliestDue, h]

theorem earliestDue_first (h : t.due clock = true) (hl : earliestDue clock l = none) :
    earliestDue clock (t :: l) = some t := by
  rw [earliestDue, h, hl]

theorem earliestDue_cons (h : t.due clock = true) (hl : earliestDue clock l = some u) :
    earliestDue clock (t :: l) = if dueAt u < dueAt t then some u else some t := by
  rw [earliestDue, h, hl]
  rfl

/-- The arbiter's retest is due, and none that is due falls due before it (R167). -/
theorem earliestDue_spec : (earliestDue clock l = none → ∀ t ∈ l, ¬t.due clock = true) ∧
    (∀ u, earliestDue clock l = some u → u ∈ l ∧ u.due clock = true ∧
      ∀ t ∈ l, t.due clock = true → dueAt u ≤ dueAt t) := by
  induction l with
  | nil => exact ⟨fun _ t ht => absurd ht List.not_mem_nil, fun u hu => by cases hu⟩
  | cons t l ih =>
    obtain ⟨hnone, hsome⟩ := ih
    cases hdue : t.due clock with
    | false =>
      rw [earliestDue_notDue hdue]
      refine ⟨fun h => ?_, fun u hu => ?_⟩
      · rw [List.forall_mem_cons]
        exact ⟨by simp [hdue], hnone h⟩
      · obtain ⟨hmem, hu, hleast⟩ := hsome u hu
        refine ⟨List.mem_cons_of_mem _ hmem, hu, ?_⟩
        rw [List.forall_mem_cons]
        exact ⟨fun h => by simp [hdue] at h, hleast⟩
    | true =>
      cases hl : earliestDue clock l with
      | none =>
        rw [earliestDue_first hdue hl]
        refine ⟨fun h => (Option.some_ne_none _ h).elim, fun u hu => ?_⟩
        cases hu
        refine ⟨List.mem_cons_self, hdue, ?_⟩
        rw [List.forall_mem_cons]
        exact ⟨fun _ => Nat.le_refl _, fun x hx hdue => absurd hdue (hnone hl x hx)⟩
      | some v =>
        rw [earliestDue_cons hdue hl]
        obtain ⟨hmem, hv, hleast⟩ := hsome v hl
        split
        · next hlt =>
            refine ⟨fun h => (Option.some_ne_none _ h).elim, fun u hu => ?_⟩
            cases hu
            refine ⟨List.mem_cons_of_mem _ hmem, hv, ?_⟩
            rw [List.forall_mem_cons]
            exact ⟨fun _ => hlt.le, hleast⟩
        · next hge =>
            refine ⟨fun h => (Option.some_ne_none _ h).elim, fun u hu => ?_⟩
            cases hu
            refine ⟨List.mem_cons_self, hdue, ?_⟩
            rw [List.forall_mem_cons]
            exact ⟨fun _ => Nat.le_refl _, fun x hx hdue => Nat.le_trans (Nat.not_lt.1 hge) (hleast x hx hdue)⟩

theorem earliestDue_none (h : ∀ t ∈ l, ¬t.due clock = true) : earliestDue clock l = none := by
  cases hl : earliestDue clock l with
  | none => rfl
  | some u =>
    obtain ⟨hmem, hdue, -⟩ := earliestDue_spec.2 u hl
    exact absurd hdue (h u hmem)

/-- The one due retest that falls due first is the arbiter's (R167). -/
theorem earliestDue_unique (ht : t ∈ l) (hdue : t.due clock = true)
    (hleast : ∀ x ∈ l, x.due clock = true → dueAt t ≤ dueAt x)
    (honly : ∀ x ∈ l, x.due clock = true → dueAt x = dueAt t → x = t) : earliestDue clock l = some t := by
  cases hl : earliestDue clock l with
  | none => exact absurd hdue (earliestDue_spec.1 hl t ht)
  | some u =>
    obtain ⟨hmem, hu, hle⟩ := earliestDue_spec.2 u hl
    rw [honly u hmem hu (Nat.le_antisymm (hle t ht hdue) (hleast u hmem hu))]

end EarliestDue

/-! ### The arbiter's row -/

section Arbiter

variable {s : State} {i : Item} {c : Channel} {w : Sweep}

theorem walkSweep_item {n : Nat} (h : walkStep s = .item i) : walkSweep (n + 1) s = (s, some i) := by
  rw [walkSweep, h]

theorem walkSweep_done {n : Nat} (h : walkStep s = .done) : walkSweep (n + 1) s = (s, none) := by
  rw [walkSweep, h]

theorem walkFuel_succ : ∃ n, walkFuel s = n + 1 := ⟨_, rfl⟩

theorem chooseItem_retest {t : Ticket} (h : earliestDue s.store.clock s.ticketStore.tickets = some t) :
    chooseItem s = (s, some (retestItem t)) := by
  unfold chooseItem
  rw [h]

theorem chooseItem_line (h : earliestDue s.store.clock s.ticketStore.tickets = none) (hstep : walkStep s = .item i) :
    chooseItem s = (s, some i) := by
  obtain ⟨n, hn⟩ := walkFuel_succ (s := s)
  unfold chooseItem
  rw [h, hn]
  exact walkSweep_item hstep

theorem chooseItem_nothing (h : earliestDue s.store.clock s.ticketStore.tickets = none) (hstep : walkStep s = .done) :
    chooseItem s = (s, none) := by
  obtain ⟨n, hn⟩ := walkFuel_succ (s := s)
  unfold chooseItem
  rw [h, hn]
  exact walkSweep_done hstep

theorem exec_arbiterChoose (s : State) : exec .arbiterChoose s = .next (arbiterChooses s) := rfl

theorem arbiterChooses_none (h : s.store.autoChannel = none) : arbiterChooses s = s := by
  unfold arbiterChooses
  rw [h]

theorem arbiterChooses_not (h : mayChoose s = false) : arbiterChooses s = s := by
  unfold arbiterChooses
  split
  · rfl
  · rw [if_neg (by rw [h]; exact Bool.false_ne_true)]

theorem arbiterChooses_item (hc : s.store.autoChannel = some c) (h : mayChoose s = true)
    (hi : chooseItem s = (s, some i)) : arbiterChooses s = startItem i c s := by
  unfold arbiterChooses
  rw [hc]
  dsimp only
  rw [if_pos h, hi]

theorem arbiterChooses_nothing (hc : s.store.autoChannel = some c) (h : mayChoose s = true)
    (hi : chooseItem s = (s, none)) :
    arbiterChooses s = if s.auto.run = .stepping then haltEngine (emit { kind := .stepIdle } s) else s := by
  unfold arbiterChooses
  rw [hc]
  dsimp only
  rw [if_pos h, hi]

/-- The arbiter may choose (R167). -/
structure MayChoose (s : State) (c : Channel) : Prop where
  run : s.auto.run = .running ∨ s.auto.run = .stepping
  item : s.auto.item = none
  link : s.link.state = .active
  phase : s.port.phase ≠ .starting
  room : s.auto.waitingForRoom = false
  channel : s.store.autoChannel = some c
  idle : (s.chan c).session.state = .idle

theorem stopActs_iff {r : RunState} : stopActs r = true ↔ r = .running ∨ r = .stepping := by
  cases r <;> simp [stopActs]

theorem MayChoose.holds (h : MayChoose s c) : mayChoose s = true := by
  have honLine : s.onLine = true := by simp [State.onLine, h.link, h.phase]
  simp [mayChoose, stopActs_iff.2 h.run, h.item, h.link, h.room, honLine, h.channel, h.idle]

/-- With the current item chosen, the rest of the part as it was. -/
def withItem (i : Item) (s : State) : State := s.updAuto fun a => { a with item := some i }

theorem startItem_asks (h : (s.blockEntry (blockOf i.line)).isSome = true) :
    startItem i c s = askForClaim i c false (withItem i s) := by
  refine if_neg ?_
  have hentry : (s.updAuto fun a => { a with item := some i }).blockEntry (blockOf i.line) = s.blockEntry (blockOf i.line) :=
    rfl
  rw [hentry, Option.isNone_iff_eq_none]
  exact Option.isSome_iff_ne_none.1 h

theorem mayChoose_false (h : (s.auto.run ≠ .running ∧ s.auto.run ≠ .stepping) ∨ s.auto.item.isSome = true ∨
    s.link.state ≠ .active ∨ s.auto.waitingForRoom = true ∨
    (∃ c, s.store.autoChannel = some c ∧ (s.chan c).session.state ≠ .idle)) : mayChoose s = false := by
  rw [← Bool.not_eq_true]
  intro hmay
  simp only [mayChoose, Bool.and_eq_true] at hmay
  obtain ⟨⟨⟨⟨⟨hrun, hitem⟩, hlink⟩, hroom⟩, -⟩, hchannel⟩ := hmay
  rcases h with ⟨hnotRunning, hnotStepping⟩ | hsome | hnotActive | hwaits | ⟨c, hc, hsession⟩
  · exact (stopActs_iff.1 hrun).elim hnotRunning hnotStepping
  · rw [Option.isNone_iff_eq_none] at hitem
    simp [hitem] at hsome
  · exact hnotActive (by simpa using hlink)
  · simp [hwaits] at hroom
  · rw [hc] at hchannel
    exact hsession (by simpa using hchannel)

/-- A request for the watched line freezes the engine (R190). -/
theorem askForClaim_freezes {t : Trunk} (h : checkClaim s c i.line (aheadOfEngine s) = .passes t)
    (hwatch : stopWatches s .stopOnRequest i.line i.purpose = true) (hrun : stopActs s.auto.run = true) :
    askForClaim i c false s =
      freeze .watchRequest i.line (captureMatch ⟨s.ownStation, i.purpose, t, c, s.store.clock⟩ s) := by
  unfold askForClaim
  rw [h]
  dsimp only
  rw [if_pos (by simp [hwatch])]
  exact if_pos hrun

theorem stopWatches_iff {op : WatchOp} {l : Line} {p : Purpose} : stopWatches s op l p = true ↔
    s.watch.op = op ∧ s.watch.line = l ∧ p ≠ .operator ∧ filterAdmits s.watch.filter true s.ownStation p = true := by
  simp [stopWatches, purpose_automatic_iff, and_assoc]

end Arbiter

/-! ### The engine's commands together -/

section Commands

variable {s : State} {j : Item} {c : Channel}

/-- ABORT of an item whose session runs, by the state the session has reached (R37, R41, R176). -/
theorem abort_answers (hphase : s.port.phase = .expectCommand) (hrun : s.auto.run ≠ .halted) (hj : s.auto.item = some j)
    (hc : s.store.autoChannel = some c) (hp : (s.chan c).session.purpose ≠ .operator)
    (hstate : (s.chan c).session.state ≠ .idle) : Answers .abort s (.accepted .nothing)
      (if j.outcome.isSome then itemLeft j s else cancelSession c (itemLeft j s)) :=
  answers_of_take hphase rfl ((takeAbort_acts hrun).trans (by rw [abortItem_automatic hj hc hp hstate]))

/-- The arbiter's item asked for (R168, R190). -/
theorem arbiter_asks {i : Item} (hmay : MayChoose s c) (hi : chooseItem s = (s, some i)) (hp : i.purpose ≠ .operator)
    (hentry : (s.blockEntry (blockOf i.line)).isSome = true) :
    (checkClaim s c i.line (aheadOfEngine s) = .linkBusy →
      exec .arbiterChoose s = .next { s with auto := { s.auto with waitingForRoom := true } }) ∧
    (∀ t, checkClaim s c i.line (aheadOfEngine s) = .passes t → s.watch.op ≠ .stopOnRequest →
      ∃ u, exec .arbiterChoose s = .next u ∧ u.auto = { s.auto with item := some i } ∧
        (u.chan c).session.state = .claiming ∧ (u.chan c).session.purpose = i.purpose ∧
        (u.chan c).session.line = i.line ∧ (u.chan c).session.trunk = t ∧
        (u.chan c).session.linkedTicket = i.ticket ∧ (u.chan c).claim.stage = .queued ∧ u.busy c = true ∧
        u.link = linkWith (.claim i.line t i.purpose c) (some c) s.link) ∧
    (∀ t, checkClaim s c i.line (aheadOfEngine s) = .passes t → s.watch.op = .stopOnRequest →
      s.watch.line = i.line → filterAdmits s.watch.filter true s.ownStation i.purpose = true →
      generalCount s.port.events < 30 → exec .arbiterChoose s = .next { s with
        auto := { s.auto with
          run := .frozen, returnState := some s.auto.run, freezeCause := some .watchRequest, item := some i }
        watch := { s.watch with
          capture := some ⟨s.ownStation, i.purpose, t, c, s.store.clock⟩, hits := min 255 (s.watch.hits + 1) }
        port := portWith { kind := .frozen, line := some i.line.val
                           outcome := some (.freeze .watchRequest) } s }) := by
  have hexec : exec .arbiterChoose s = .next (askForClaim i c false (withItem i s)) := by
    rw [exec_arbiterChoose, arbiterChooses_item hmay.channel hmay.holds hi, startItem_asks hentry]
  have hcheck : checkClaim (withItem i s) c i.line (aheadOfEngine (withItem i s)) =
      checkClaim s c i.line (aheadOfEngine s) := checkClaim_updAuto
  refine ⟨fun hbusy => ?_, fun t hpasses hwatch => ?_, fun t hpasses hop hline hfilter hroom => ?_⟩
  · rw [hexec, askForClaim_linkBusy (hcheck.trans hbusy)]
    simp [dropItem, withItem, State.updAuto, hmay.item]
  · have hbegins := hexec.trans (congrArg _ (askForClaim_begins (hcheck.trans hpasses) (.inl ?_)))
    · obtain ⟨hauto, -, hstate, hpurpose, hline, htrunk, hticket, hstage, hlink⟩ :=
        beginSession_begins (s := withItem i s) (c := c) (p := i.purpose) (l := i.line) (t := t) (n := i.ticket) rfl
      refine ⟨_, hbegins, hauto, hstate, hpurpose, hline, htrunk, hticket, hstage, ?_, hlink⟩
      rw [State.busy, Bool.or_eq_true, isAutomatic_iff]
      exact .inr ⟨by rw [hstate]; decide, by rw [hpurpose]; exact hp⟩
    · rw [← Bool.not_eq_true, stopWatches_iff]
      exact fun h => hwatch h.1
  · rw [hexec, askForClaim_freezes (hcheck.trans hpasses) (stopWatches_iff.2 ⟨hop, hline, hp, hfilter⟩)
      (stopActs_iff.2 hmay.run), freeze]
    refine congrArg _ ((emit_of_room ?_).trans rfl)
    exact hroom

end Commands

/-- Settles O54: the commands by their checks and `leaveFrozen_…`, ABORT by `abort_answers`, the arbiter's row by
`arbiter_asks`. -/
theorem theEngineIsSteeredAndChooses : Obligations.TheEngineIsSteeredAndChooses := by
  refine ⟨fun s a b g n hphase => ?_, fun s hphase i r hir => ?_, fun s hphase => ?_, fun s h => ?_,
    fun s c hrun hitem hlink hphase hroom hc hidle => ?_⟩
  · have hanswer : ∀ {x : Answer} {u : State}, takeSweepStart a b g n s = (x, u) → Answers (.sweepStart a b g n) s x u :=
      fun h => answers_of_take hphase rfl h
    exact ⟨fun h => hanswer (takeSweepStart_backwards h), fun h hg => hanswer (takeSweepStart_noStage h hg),
      fun h hg => ⟨fun hrun => hanswer (takeSweepStart_wrongState h hg hrun),
        fun hrun => hanswer (takeSweepStart_starts h hg hrun)⟩⟩
  · rcases hir with ⟨rfl, rfl⟩ | ⟨rfl, rfl⟩
    · have hanswer : ∀ {x : Answer} {u : State}, takeRun s = (x, u) → Answers .run s x u :=
        fun h => answers_of_take hphase rfl h
      exact ⟨fun _ hconf => hanswer (takeRun_unconfigured hconf), fun hconf hrun _ => hanswer (takeRun_wrongState hconf hrun),
        fun hconf hrun => ⟨fun hc => hanswer ((takeRun_halted hconf hrun).trans (startEngine_none hc)),
          fun c hc => ⟨fun h => hanswer ((takeRun_halted hconf hrun).trans (startEngine_inUse hc h)),
            fun h => hanswer ((takeRun_halted hconf hrun).trans (startEngine_starts hc h))⟩⟩⟩
    · have hanswer : ∀ {x : Answer} {u : State}, takeStep s = (x, u) → Answers .step s x u :=
        fun h => answers_of_take hphase rfl h
      exact ⟨fun hrun hconf => hanswer (takeStep_unconfigured hconf hrun),
        fun _ hrun hfrozen => hanswer (takeStep_wrongState hrun (hfrozen rfl)),
        fun hconf hrun => ⟨fun hc => hanswer ((takeStep_halted hconf hrun).trans (startEngine_none hc)),
          fun c hc => ⟨fun h => hanswer ((takeStep_halted hconf hrun).trans (startEngine_inUse hc h)),
            fun h => hanswer ((takeStep_halted hconf hrun).trans (startEngine_starts hc h))⟩⟩⟩
  · have hstop : ∀ {x : Answer} {u : State}, takeStop s = (x, u) → Answers .stop s x u :=
      fun h => answers_of_take hphase rfl h
    have hgo : ∀ {i : Instr} {r : RunState}, s.auto.run = .frozen →
        (i = Instr.continueRun ∧ some r = s.auto.returnState) ∨ (i = .step ∧ r = .stepping) →
        Answers i s (.accepted .nothing) (leaveFrozen r s) := by
      rintro i r hrun (⟨rfl, hr⟩ | ⟨rfl, rfl⟩)
      · exact answers_of_take hphase rfl (takeContinue_frozen hrun hr)
      · exact answers_of_take hphase rfl (takeStep_frozen hrun)
    intro off
    refine ⟨fun h => hstop (takeStop_wrongState h), fun hrun h => hstop (takeStop_item hrun h),
      fun hrun h => hstop (takeStop_noItem hrun h),
      fun hrun h => hstop ((takeStop_frozen hrun).trans (by rw [stopFrozen_halts h]; rfl)),
      fun hrun => answers_of_take (take := takeContinue) hphase rfl (takeContinue_wrongState hrun),
      fun i r hrun hreturn hir => ?_, fun i r hrun hreturn hir j c hj hc hcause => ?_,
      fun hrun => answers_of_take (take := takeAbort) hphase rfl (takeAbort_halted hrun), fun hrun h => ?_,
      fun j c hrun hj hc hp => ?_⟩
    · have hleaves := hgo hrun hir
      intro go
      refine ⟨fun hnone => ?_, fun j c hj hc hcause => ?_⟩
      · rw [leaveFrozen_noItem hnone] at hleaves
        exact hleaves
      · rw [leaveFrozen_request hj hc hcause] at hleaves
        intro stands dropped
        have hstands : itemStands j (goesOn r s) = true ↔ stands := itemStands_iff
        refine ⟨fun hnot => ?_, fun h => ?_⟩
        · rw [if_neg (fun hs => hnot (hstands.1 hs))] at hleaves
          exact hleaves
        · rw [if_pos (hstands.2 h)] at hleaves
          refine ⟨fun hcheck => ?_, fun hcheck => ?_, fun t hcheck => ?_⟩
          · rw [askForClaim_linkDown (s := goesOn r s) hcheck] at hleaves
            exact hleaves
          · rw [askForClaim_linkBusy (s := goesOn r s) hcheck] at hleaves
            exact hleaves
          · rw [askForClaim_begins (s := goesOn r s) hcheck (.inr rfl)] at hleaves
            exact ⟨_, hleaves, beginSession_begins rfl⟩
    · intro go hstate hstep
      have hleaves : Answers i s (.accepted .nothing) (leaveFrozen r s) := by
        rcases hir with hir | hir | ⟨rfl, rfl⟩
        · exact hgo hrun (.inl hir)
        · exact hgo hrun (.inr hir)
        · exact hstop ((takeStop_frozen hrun).trans (by rw [stopFrozen_claim hj hcause]))
      rw [leaveFrozen_claim hj hc hcause] at hleaves
      exact ⟨_, hleaves, unfreezeSession_goesOn hstate hstep rfl⟩
    · have habort := answers_of_take (i := .abort) hphase rfl (takeAbort_acts hrun)
      rcases h with hnone | ⟨c, hc, hidle⟩
      · rw [abortItem_none hnone] at habort
        exact habort
      · rw [abortItem_idle hc hidle] at habort
        exact habort
    · intro x left reversed
      have habort := abort_answers hphase hrun hj hc hp
      refine ⟨fun hfixed hstate => ?_, fun hopen => ?_⟩
      · have hanswer := habort hstate
        rw [if_pos (Option.isSome_iff_ne_none.2 hfixed)] at hanswer
        exact hanswer
      · have hcancels : x.state ≠ .idle → Answers .abort s (.accepted .nothing) (cancelSession c (itemLeft j s)) := by
          intro hstate
          have hanswer := habort hstate
          rwa [if_neg (by rw [hopen]; exact Bool.false_ne_true)] at hanswer
        have hreverses : x.state.active = true → AbortReverses j c s (cancelSession c (itemLeft j s)) ∧
            reversed (cancelSession c (itemLeft j s)) := by
          intro hactive
          have habortReverses := cancelSession_reverses (j := j) hactive
          have hidle : x.state ≠ .idle := fun h => by rw [h] at hactive; cases hactive
          exact ⟨habortReverses, ⟨hcancels hidle, habortReverses.run, habortReverses.item⟩, habortReverses.outcome⟩
        have hsession : ((fixSession c .cancelled (itemLeft j s)).chan c).session = x := by
          rw [session_fixSession, chan_itemLeft]
        refine ⟨fun hstate hf => ?_, fun f hstate hf => ⟨fun hwire => ?_, fun hwire => ?_⟩, fun hstate => ?_,
          fun k hstate hk => ?_, fun hstate => ?_, fun hstate => ?_⟩
        · obtain ⟨hhalted, hnone, hidle, -⟩ := abort_claimEnds (j := j) hstate hp (by rw [hf]; rfl) rfl
          exact ⟨_, hcancels (by rw [hstate]; decide), hhalted, hnone, hidle⟩
        · obtain ⟨hauto, houtcome, hpending, hlink⟩ := abort_claimWire (j := j) hstate hf hwire rfl
          exact ⟨_, ⟨⟨hcancels (by rw [hstate]; decide), by rw [hauto]; rfl, by rw [hauto]; rfl⟩, houtcome⟩, hpending, hlink⟩
        · obtain ⟨hhalted, hnone, hidle, hlink⟩ := abort_claimEnds (j := j) hstate hp (by simp [frameOnWire, hf, hwire]) rfl
          refine ⟨_, hcancels (by rw [hstate]; decide), hhalted, hnone, hidle, ?_⟩
          rw [hlink, hf, removeIfQueued_some, link_removeFrame]
          simp [bne, beq_eq_decide]
        · have hactive : x.state.active = true := by
            rcases hstate with h | ⟨h, -⟩ <;> rw [h] <;> rfl
          obtain ⟨hr, hanswer⟩ := hreverses hactive
          have hclosing := hr.reversed.undriven (by rw [hsession]; exact hstate)
          rw [hsession] at hclosing
          refine ⟨_, hanswer, hclosing, fun hroom => ?_⟩
          rw [cancelSession_active (by rw [chan_itemLeft]; exact hactive)]
          exact link_abortCloses hstate hroom
        · have hactive : x.state.active = true := by
            rcases hstate with h | h <;> rw [h] <;> rfl
          obtain ⟨hr, hanswer⟩ := hreverses hactive
          have hdriven := hr.reversed.driven k (by rw [hsession]; exact hstate.symm) (by rw [hsession]; exact hk)
          rw [hsession] at hdriven
          exact ⟨_, hanswer, hdriven⟩
        · have hactive : x.state.active = true := by
            rcases hstate with h | h <;> rw [h] <;> rfl
          obtain ⟨hr, hanswer⟩ := hreverses hactive
          obtain ⟨hreleasing, hrelay⟩ := hr.reversed.connected (by rw [hsession]; exact hstate)
          rw [hsession] at hreleasing
          refine ⟨_, hanswer, hreleasing, hrelay, fun hmeasuring => ?_⟩
          rw [cancelSession_active (by rw [chan_itemLeft]; exact hactive),
            engine_reverseSession (by rw [hsession]; exact hmeasuring)]
          exact ⟨rfl, rfl⟩
        · have hidle : x.state ≠ .idle := fun h => by rw [h] at hstate; simp at hstate
          have hanswer := hcancels hidle
          rw [cancelSession_ending hstate] at hanswer
          exact ⟨_, ⟨hanswer, rfl, rfl⟩, by rw [chan_itemLeft], rfl⟩
  · rw [exec_arbiterChoose]
    rcases h with h | h | h | h | h | h
    · rw [arbiterChooses_not (mayChoose_false (.inl h))]
    · rw [arbiterChooses_not (mayChoose_false (.inr (.inl h)))]
    · rw [arbiterChooses_not (mayChoose_false (.inr (.inr (.inl h))))]
    · rw [arbiterChooses_not (mayChoose_false (.inr (.inr (.inr (.inl h)))))]
    · rw [arbiterChooses_none h]
    · rw [arbiterChooses_not (mayChoose_false (.inr (.inr (.inr (.inr h)))))]
  · have hmay : MayChoose s c := ⟨hrun, hitem, hlink, hphase, hroom, hc, hidle⟩
    intro due
    have hdue : ∀ t : Ticket, t.due s.store.clock = true ↔ due t := fun t => due_iff
    refine ⟨fun hnone hsweep => ?_, fun i hcase hentry => ?_⟩
    · have hearliest := earliestDue_none fun t ht => (hdue t).not.2 (hnone t ht)
      have hdone : walkStep s = .done := by
        cases hw : s.auto.sweep with
        | none => exact walkStep_none hw
        | some w => exact walkStep_complete hw (hsweep w hw)
      have hexec := (exec_arbiterChoose s).trans
        (congrArg _ (arbiterChooses_nothing hc hmay.holds (chooseItem_nothing hearliest hdone)))
      refine ⟨fun hr => hexec.trans (congrArg _ (if_neg (by rw [hr]; decide))), fun hr hcount => ?_⟩
      rw [hexec, if_pos hr, emit_of_room hcount]
      rfl
    · rcases hcase with ⟨t, p, ht, htdue, hp, hleast, honly, rfl⟩ | ⟨hnone, w, hw, hphase, hticket, hindex, rfl⟩
      · have hearliest : earliestDue s.store.clock s.ticketStore.tickets = some t := by
          refine earliestDue_unique ht ((hdue t).2 htdue) (fun x hx hxdue => ?_) fun x hx hxdue hsame => ?_
          · obtain ⟨-, q, hq, -⟩ := (hdue x).1 hxdue
            rw [dueAt_some hp, dueAt_some hq]
            exact hleast x hx q ((hdue x).1 hxdue) hq
          · obtain ⟨-, q, hq, -⟩ := (hdue x).1 hxdue
            rw [dueAt_some hp, dueAt_some hq] at hsame
            exact honly x hx q ((hdue x).1 hxdue) hq hsame
        exact arbiter_asks hmay (chooseItem_retest hearliest) Purpose.noConfusion hentry
      · have hearliest := earliestDue_none fun t ht => (hdue t).not.2 (hnone t ht)
        have hfree : ¬ticketed s.ticketStore w.cursor = true := by simp [ticketed, hticket, hindex]
        have hstep := walkStep_line hw hphase (Option.isSome_iff_ne_none.1 hentry) hfree
        exact arbiter_asks hmay (chooseItem_line hearliest hstep) Purpose.noConfusion hentry

end Sys2Proof.Machine
end
